-- ==== Sys2Proof/Word.lean ====
section
/-! DEFINITION. The word types and their plainest arithmetic: bytes, little-endian and big-endian octet strings
(R12, R354), bit fields written [hi:lo] (00_scope.md, Notation), ceiling division and alignment. -/

namespace Sys2Proof

/-- One byte of memory or of a message. -/
abbrev Byte := BitVec 8

/-- The number a little-endian octet string stands for (R12). -/
def leNat : List Byte → Nat
  | [] => 0
  | b :: bs => b.toNat + 256 * leNat bs

/-- `n` as a little-endian string of `k` octets (R12). -/
def leBytes : Nat → Nat → List Byte
  | 0, _ => []
  | k + 1, n => BitVec.ofNat 8 n :: leBytes k (n / 256)

/-- The number a big-endian octet string stands for (network order, R354). -/
def beNat (bs : List Byte) : Nat := leNat bs.reverse

/-- `n` as a big-endian string of `k` octets (network order, R354). -/
def beBytes (k n : Nat) : List Byte := (leBytes k n).reverse

/-- Bits [hi:lo] of a number, both ends included. -/
def bits (n hi lo : Nat) : Nat := (n / 2 ^ lo) % 2 ^ (hi + 1 - lo)

/-- Bit [i] of a number. -/
def bit (n i : Nat) : Bool := (n / 2 ^ i) % 2 == 1

/-- A truth value as a bit. -/
def b2n (b : Bool) : Nat := if b then 1 else 0

/-- Ceiling of a quotient. -/
def cdiv (a b : Nat) : Nat := (a + b - 1) / b

/-- `a` rounded up to a multiple of `b`. -/
def alignUp (a b : Nat) : Nat := cdiv a b * b

/-- The unsigned field of `len` octets at octet `off` of a little-endian structure (R12). -/
def fld (bs : List Byte) (off len : Nat) : Nat := leNat ((bs.drop off).take len)

/-- Every octet of [off, off + len) is zero. -/
def zeros (bs : List Byte) (off len : Nat) : Bool := fld bs off len == 0

/-- Element `i` of a list of numbers, 0 beyond its end. -/
def nth (l : List Nat) (i : Nat) : Nat := l.getD i 0

/-- A two's-complement reading of the low `w` bits. -/
def sgn (w n : Nat) : Int := if n % 2 ^ w < 2 ^ (w - 1) then ((n % 2 ^ w : Nat) : Int) else ((n % 2 ^ w : Nat) : Int) - ((2 ^ w : Nat) : Int)

end Sys2Proof
end

