-- ==== Sys2Proof/Syntax.lean ====
section
/-! DEFINITION. The commands of the block: one constructor per row of spec/opcode_table.json. An operand is what the
outside of the step supplies: the mailbox whose head message is executed, the stream that issues, the core, engine,
stack or peer that the event concerns, a packet as it arrives, the readings of a sensor sweep, the outcome of a
physical test. -/

namespace Sys2Proof

/-- An OFT packet (R354): the header fields, the payload and the CRC-32C trailer (R355). -/
structure Packet where
  ver : BitVec 8
  otype : BitVec 8
  oflags : BitVec 8
  opath : BitVec 8
  srcId : BitVec 16
  dstId : BitVec 16
  psn : BitVec 32
  apsn : BitVec 32
  obj : BitVec 16
  olen : BitVec 16
  ocnt : BitVec 32
  ooff : BitVec 64
  poison : BitVec 128
  payload : List Byte
  crc : BitVec 32
  deriving DecidableEq, Repr

/-- A packet as a port receives it: the link (2p + h, R344), the peer's source address (R350), the source and destination MAC
(R343, R348), the UDP port it is sent to (R353), whether the frame was marked CE (R360), the association number whose SecTAG
and ICV were valid (R351), codewords of the frame corrected and uncorrectable, and whether its frame check sequence is bad
(R342, R375). Log 148 (PRESUMED). -/
structure Arrival where
  link : Nat
  v6 : Bool
  addr : BitVec 128
  mac : BitVec 48
  dst : BitVec 48
  port : Nat
  ce : Bool
  macsec : Option Nat
  fecCorr : Nat
  fecUncorr : Nat
  badFcs : Bool
  pkt : Packet
  deriving DecidableEq, Repr

/-- A frame of neighbour or router discovery as a port takes it: the port, the destination MAC (R343, R348), and whether its
SecTAG and ICV were valid under a key the part holds (R351). -/
structure NdFrame where
  port : Nat
  dst : BitVec 48
  secured : Bool
  deriving DecidableEq, Repr

/-- A request at a stack's pseudo-channel: the stack-view address of the first line, how many lines of one code page it
asks for, the request class (0 BULK, 1 LAT, 2 BKG), whether an I/O die master asks, whether it is the Kerb engine,
which bytes of a single written line are covered, whether the data written is poisoned, the cache hint, and the code
symbols found damaged in the page since it was last written (symbol number, XOR value: R292).
Log 101 (DESIGN CHOICE). -/
structure MemReq where
  addr : Nat
  lines : Nat
  cls : Nat
  io : Bool
  kerb : Bool
  core : Bool
  chint : Nat
  mask : BitVec 64
  poison : Bool
  damage : List (Nat × Nat)
  deriving DecidableEq, Repr

/-- What one telemetry sweep reads (R464): degrees Celsius of every core's junction, of the 32 slices of each Square die, of four
places of each base die, of each stack, of the I/O die and of the regulators; droop in mV of the clusters and of the I/O die;
millivolts and 100 mA units of the 28 rails indexed as `E_UNIT` (R424), the on-package ones from 16. -/
structure Sweep where
  junction : List Nat
  droop : List Nat
  slice : List Nat
  base : List Nat
  stack : List Nat
  io : List Nat
  ioDroop : List Nat
  regTemp : List Nat
  railMv : List Nat
  railCur : List Nat
  deriving DecidableEq, Repr

/-- The commands: one constructor per row of the operation table. -/
inductive Instr where
  /-- MB_DEV_QUERY (R325). -/
  | mbDevQuery (mb : Nat)
  /-- MB_DEV_STATE (R326). -/
  | mbDevState (mb : Nat)
  /-- MB_CTX_CREATE (R327). -/
  | mbCtxCreate (mb : Nat)
  /-- MB_CTX_LOAD (R331). -/
  | mbCtxLoad (mb : Nat)
  /-- MB_CTX_START (R334). -/
  | mbCtxStart (mb : Nat)
  /-- CTX_STOP_AT_BOUNDARY (R335). -/
  | ctxStopAtBoundary (mb : Nat)
  /-- CTX_STOP_AT_END (R335). -/
  | ctxStopAtEnd (mb : Nat)
  /-- MB_CTX_DESTROY (R338). -/
  | mbCtxDestroy (mb : Nat)
  /-- MB_CTX_STATUS (R337). -/
  | mbCtxStatus (mb : Nat)
  /-- MB_TICK_CONFIG (R30). -/
  | mbTickConfig (mb : Nat)
  /-- TICK_REACQUIRE (R27). -/
  | tickReacquire (mb : Nat)
  /-- MB_SLOT_TABLE (R36). -/
  | mbSlotTable (mb : Nat)
  /-- MB_BOUND_WRITE (R336). -/
  | mbBoundWrite (mb : Nat)
  /-- MB_SQ_CONFIG (R106). -/
  | mbSqConfig (mb : Nat)
  /-- SET_STRENGTH (R286). -/
  | setStrength (mb : Nat)
  /-- SET_LOCAL_GIB (R286). -/
  | setLocalGib (mb : Nat)
  /-- SET_IO_PCT (R286). -/
  | setIoPct (mb : Nat)
  /-- SET_CORR_WARN (R286). -/
  | setCorrWarn (mb : Nat)
  /-- MEM_MAP_WINDOW (R362). -/
  | memMapWindow (mb : Nat)
  /-- MEM_UNMAP_WINDOW (R362). -/
  | memUnmapWindow (mb : Nat)
  /-- MB_FABRIC_ID (R346). -/
  | mbFabricId (mb : Nat)
  /-- FABRIC_LINK_SETTINGS (R344). -/
  | fabricLinkSettings (mb : Nat)
  /-- MACSEC_INSTALL_KEY (R351). -/
  | macsecInstallKey (mb : Nat)
  /-- FABRIC_RECORD_FLASH (R347). -/
  | fabricRecordFlash (mb : Nat)
  /-- PEER_ADD (R350). -/
  | peerAdd (mb : Nat)
  /-- PEER_REMOVE (R350). -/
  | peerRemove (mb : Nat)
  /-- PEER_REMOVE_ALL (R350). -/
  | peerRemoveAll (mb : Nat)
  /-- GROUP_SET (R366). -/
  | groupSet (mb : Nat)
  /-- GROUP_CLEAR (R366). -/
  | groupClear (mb : Nat)
  /-- TRACE_SET (R441). -/
  | traceSet (mb : Nat)
  /-- TRACE_STOP (R441). -/
  | traceStop (mb : Nat)
  /-- MB_COUNTER_READ (R437). -/
  | mbCounterRead (mb : Nat)
  /-- PORT_STATUS_READ (R374). -/
  | portStatusRead (mb : Nat)
  /-- CORR_LOG_READ (R299). -/
  | corrLogRead (mb : Nat)
  /-- CORE_COUNTER_READ (R439). -/
  | coreCounterRead (mb : Nat)
  /-- MB_EVENT_ACK (R323). -/
  | mbEventAck (mb : Nat)
  /-- MB_DOMAIN_SET (R461). -/
  | mbDomainSet (mb : Nat)
  /-- POWER_CAP_SET (R462). -/
  | powerCapSet (mb : Nat)
  /-- UNIT_DISABLE (R430). -/
  | unitDisable (mb : Nat)
  /-- UNIT_RETURN_TO_SERVICE (R430). -/
  | unitReturnToService (mb : Nat)
  /-- MB_UNIT_FENCE (R433). -/
  | mbUnitFence (mb : Nat)
  /-- MB_REPAIR_COMMIT (R311). -/
  | mbRepairCommit (mb : Nat)
  /-- SCRUB_SET_PATROL (R308). -/
  | scrubSetPatrol (mb : Nat)
  /-- SCRUB_RANGE (R308). -/
  | scrubRange (mb : Nat)
  /-- TRAFFIC_TEST (R309). -/
  | trafficTest (mb : Nat)
  /-- SCRUB_STOP (R307). -/
  | scrubStop (mb : Nat)
  /-- ATTEST_QUOTE (R413). -/
  | attestQuote (mb : Nat)
  /-- ATTEST_CERT_CHUNK (R413). -/
  | attestCertChunk (mb : Nat)
  /-- MB_FW_STAGE (R414). -/
  | mbFwStage (mb : Nat)
  /-- FW_ACTIVATE_TRIAL (R415). -/
  | fwActivateTrial (mb : Nat)
  /-- FW_ACTIVATE_RESET (R415). -/
  | fwActivateReset (mb : Nat)
  /-- FW_COMMIT (R415). -/
  | fwCommit (mb : Nat)
  /-- FW_CANCEL_TRIAL (R415). -/
  | fwCancelTrial (mb : Nat)
  /-- MB_CODEC_STREAM_OPEN (R384). -/
  | mbCodecStreamOpen (mb : Nat)
  /-- MB_CODEC_FRAME (R386). -/
  | mbCodecFrame (mb : Nat)
  /-- CODEC_CLOSE_DRAIN (R395). -/
  | codecCloseDrain (mb : Nat)
  /-- CODEC_CLOSE_DISCARD (R395). -/
  | codecCloseDiscard (mb : Nat)
  /-- MATMUL (R59). -/
  | matmul (st : Nat)
  /-- ATTEND (R229). -/
  | attend (st : Nat)
  /-- CONV_DENSE (R246). -/
  | convDense (st : Nat)
  /-- CONV_DEPTHWISE_DIAGONAL (R250). -/
  | convDepthwiseDiagonal (st : Nat)
  /-- CONV_SPACE_TO_CHANNEL (R251). -/
  | convSpaceToChannel (st : Nat)
  /-- POOL_MAX (R252). -/
  | poolMax (st : Nat)
  /-- POOL_AVERAGE (R252). -/
  | poolAverage (st : Nat)
  /-- POOL_CHANNEL_ARGMAX (R254). -/
  | poolChannelArgmax (st : Nat)
  /-- VOP_COPY_CONVERT (R178). -/
  | vopCopyConvert (st : Nat)
  /-- VOP_ADD (R178). -/
  | vopAdd (st : Nat)
  /-- VOP_SUBTRACT (R178). -/
  | vopSubtract (st : Nat)
  /-- VOP_MULTIPLY (R178). -/
  | vopMultiply (st : Nat)
  /-- VOP_FMA (R178). -/
  | vopFma (st : Nat)
  /-- VOP_SCALE_OFFSET (R178). -/
  | vopScaleOffset (st : Nat)
  /-- VOP_MAX (R178). -/
  | vopMax (st : Nat)
  /-- VOP_MIN (R178). -/
  | vopMin (st : Nat)
  /-- VOP_SELECT (R178). -/
  | vopSelect (st : Nat)
  /-- VOP_ABSOLUTE_VALUE (R178). -/
  | vopAbsoluteValue (st : Nat)
  /-- VOP_CLAMP (R178). -/
  | vopClamp (st : Nat)
  /-- VOP_ROW_SUM (R178). -/
  | vopRowSum (st : Nat)
  /-- VOP_ROW_MAX (R178). -/
  | vopRowMax (st : Nat)
  /-- VOP_ROW_MIN (R178). -/
  | vopRowMin (st : Nat)
  /-- SFN_RECIPROCAL (R199). -/
  | sfnReciprocal (st : Nat)
  /-- SFN_RSQRT (R199). -/
  | sfnRsqrt (st : Nat)
  /-- SFN_SQRT (R199). -/
  | sfnSqrt (st : Nat)
  /-- SFN_EXP2 (R200). -/
  | sfnExp2 (st : Nat)
  /-- SFN_LOG2 (R200). -/
  | sfnLog2 (st : Nat)
  /-- SFN_SINE (R201). -/
  | sfnSine (st : Nat)
  /-- SFN_COSINE (R201). -/
  | sfnCosine (st : Nat)
  /-- SFN_SIGMOID (R204). -/
  | sfnSigmoid (st : Nat)
  /-- SFN_TANH (R204). -/
  | sfnTanh (st : Nat)
  /-- SFN_SILU (R204). -/
  | sfnSilu (st : Nat)
  /-- SFN_GELU (R204). -/
  | sfnGelu (st : Nat)
  /-- SFN_LOOKUP (R207). -/
  | sfnLookup (st : Nat)
  /-- NORMST (R217). -/
  | normst (st : Nat)
  /-- NORMAP (R218). -/
  | normap (st : Nat)
  /-- ROPE (R211). -/
  | rope (st : Nat)
  /-- QUANT (R191). -/
  | quant (st : Nat)
  /-- MOVE_COPY (R65). -/
  | moveCopy (st : Nat)
  /-- MOVE_MULTICAST (R123). -/
  | moveMulticast (st : Nat)
  /-- MOVE_BOUND_LOAD (R473). -/
  | moveBoundLoad (st : Nat)
  /-- MOVE_BOUND_SET (R473). -/
  | moveBoundSet (st : Nat)
  /-- PREF (R472). -/
  | pref (st : Nat)
  /-- KRB (R137). -/
  | krb (st : Nat)
  /-- SYNC_WAIT_ALL (R94). -/
  | syncWaitAll (st : Nat)
  /-- SYNC_ADD (R94). -/
  | syncAdd (st : Nat)
  /-- SYNC_SET (R94). -/
  | syncSet (st : Nat)
  /-- LOOP (R96). -/
  | loopMi (st : Nat)
  /-- MARK_BEGIN (R447). -/
  | markBegin (st : Nat)
  /-- MARK_END (R447). -/
  | markEnd (st : Nat)
  /-- MARK_POINT (R447). -/
  | markPoint (st : Nat)
  /-- HALT (R99). -/
  | haltMi (st : Nat)
  /-- ISSUE_WAIT_SATISFIED (R90). -/
  | issueWaitSatisfied (st : Nat)
  /-- HALO_WAIT_SATISFIED (R256). -/
  | haloWaitSatisfied (core : Nat)
  /-- TILE_COMPLETE (R91). -/
  | tileComplete (core : Nat) (upsets : List (Nat × Nat))
  /-- MI_COMPLETE (R51). -/
  | miComplete (st n : Nat)
  /-- LUT_RELOAD_HOLD_RELEASE (R209). -/
  | lutReloadHoldRelease (st : Nat)
  /-- CTAB_RELOAD_HOLD_RELEASE (R274). -/
  | ctabReloadHoldRelease (unit : Nat)
  /-- KRB_DELIVERY_RESUME (R139). -/
  | krbDeliveryResume (st : Nat)
  /-- STREAM_YIELD (R40). -/
  | streamYield (st : Nat)
  /-- KSCAN (R149). -/
  | kscan (stack : Nat) (bufErr : Bool)
  /-- KRED_STATISTICS (R151). -/
  | kredStatistics (stack : Nat) (bufErr : Bool)
  /-- KRED_COMBINE (R151). -/
  | kredCombine (stack : Nat) (bufErr : Bool)
  /-- KRED_ORDERED_SUM (R151). -/
  | kredOrderedSum (stack : Nat) (bufErr : Bool)
  /-- KRED_ORDERED_MAX (R151). -/
  | kredOrderedMax (stack : Nat) (bufErr : Bool)
  /-- KSTREAM (R152). -/
  | kstream (stack : Nat) (bufErr : Bool)
  /-- KGATH_GATHER (R154). -/
  | kgathGather (stack : Nat) (bufErr : Bool)
  /-- KGATH_SCATTER (R154). -/
  | kgathScatter (stack : Nat) (bufErr : Bool)
  /-- KGATH_TRANSFORM (R154). -/
  | kgathTransform (stack : Nat) (bufErr : Bool)
  /-- KGATH_FILL (R154). -/
  | kgathFill (stack : Nat) (bufErr : Bool)
  /-- KSURV (R155). -/
  | ksurv (stack : Nat) (bufErr : Bool)
  /-- KSCRUB (R156). -/
  | kscrub (stack : Nat)
  /-- KTRAF (R156). -/
  | ktraf (stack : Nat) (bad : List Nat)
  /-- KERB_PROGRESS (R145). -/
  | kerbProgress (stack lane : Nat)
  /-- KERB_ENGINE_COMPLETE (R143). -/
  | kerbEngineComplete (stack lane : Nat)
  /-- KERB_COMMAND_STOP (R161). -/
  | kerbCommandStop (stack lane : Nat)
  /-- BACKGROUND_STOP (R47). -/
  | backgroundStop (src done : Nat)
  /-- TICK_BOUNDARY (R22). -/
  | tickBoundary
  /-- TICK_IN_EDGE (R25). -/
  | tickInEdge (widthNs : Nat)
  /-- TICK_IN_WINDOW_EXPIRY (R25). -/
  | tickInWindowExpiry
  /-- REACQUIRE_TIMEOUT (R27). -/
  | reacquireTimeout
  /-- PTP_SLAVE_ACQUIRED (R24). -/
  | ptpSlaveAcquired (port : Nat)
  /-- PTP_SLAVE_LOST (R24). -/
  | ptpSlaveLost (port : Nat)
  /-- PTP_MESSAGE (R352). -/
  | ptpMessage (port : Nat) (ptpNs : Nat) (secured : Bool)
  /-- PPS_OUT_PULSE (R352). -/
  | ppsOutPulse
  /-- MAINT_WINDOW_END (R33). -/
  | maintWindowEnd
  /-- SLOT_BEGIN (R38). -/
  | slotBegin
  /-- SWAP_COMPLETE (R120). -/
  | swapComplete
  /-- SLOT_END (R39). -/
  | slotEnd
  /-- INVOCATION_END (R38). -/
  | invocationEnd
  /-- CALIBRATION_STEP_START (R48). -/
  | calibrationStepStart (stack kind : Nat)
  /-- CALIBRATION_STEP_DONE (R48). -/
  | calibrationStepDone (stack : Nat)
  /-- CALIBRATION_FORCED (R49). -/
  | calibrationForced (stack kind : Nat)
  /-- CTX_STALLED (R434). -/
  | ctxStalled (ctx : Nat)
  /-- REFRESH_ISSUE (R304). -/
  | refreshIssue (stack pch bank : Nat)
  /-- REFRESH_MANAGEMENT_REQUEST (R282). -/
  | refreshManagementRequest (stack pch bank : Nat)
  /-- STACK_TEMP_READING (R304). -/
  | stackTempReading (stack : Nat) (degC : Nat)
  /-- STACK_TEMP_NO_READING (R305). -/
  | stackTempNoReading (stack : Nat)
  /-- LAT_CAP_WINDOW (R301). -/
  | latCapWindow
  /-- STACKED_READ_REQUEST (R293). -/
  | stackedReadRequest (rq : MemReq)
  /-- STACKED_WRITE_REQUEST (R293). -/
  | stackedWriteRequest (rq : MemReq) (data : List Byte)
  /-- PAGE_DECODE_DONE (R295). -/
  | pageDecodeDone (page : Nat)
  /-- PAGE_LOCK_RELEASE (R294). -/
  | pageLockRelease (page : Nat)
  /-- MEM_CORR_RATE (R296). -/
  | memCorrRate (stack : Nat)
  /-- STACK_TRAINING_LOST (R428). -/
  | stackTrainingLost (stack : Nat)
  /-- WCB_IDLE_DRAIN (R116). -/
  | wcbIdleDrain (die line : Nat)
  /-- TEARDOWN_COMPLETE (R339). -/
  | teardownComplete (ctx : Nat)
  /-- OFT_MBOX (R316). -/
  | oftMbox (a : Arrival)
  /-- OFT_WRITE (R363). -/
  | oftWrite (a : Arrival)
  /-- OFT_READ_REQ (R363). -/
  | oftReadReq (a : Arrival)
  /-- OFT_READ_RESP (R363). -/
  | oftReadResp (a : Arrival)
  /-- OFT_ACK (R356). -/
  | oftAck (a : Arrival)
  /-- OFT_NAK (R356). -/
  | oftNak (a : Arrival)
  /-- OFT_COLL_DATA (R369). -/
  | oftCollData (a : Arrival)
  /-- COLL_CTRL_READY (R369). -/
  | collCtrlReady (a : Arrival)
  /-- COLL_CTRL_ABORT (R372). -/
  | collCtrlAbort (a : Arrival)
  /-- OFT_PROBE (R359). -/
  | oftProbe (a : Arrival)
  /-- OFT_PLACEMENT_VISIBLE (R358). -/
  | oftPlacementVisible (peer psn : Nat)
  /-- ACK_DELAY_TIMER (R356). -/
  | ackDelayTimer (peer : Nat)
  /-- RETRANSMIT_TIMEOUT (R357). -/
  | retransmitTimeout (peer psn : Nat)
  /-- PATH_ACK_TIMEOUT (R359). -/
  | pathAckTimeout (peer path : Nat)
  /-- PROBE_TIMER (R359). -/
  | probeTimer
  /-- ECN_RATE_INCREASE (R360). -/
  | ecnRateIncrease (peer : Nat)
  /-- LINK_DOWN (R359). -/
  | linkDown (link : Nat)
  /-- LINK_UP (R359). -/
  | linkUp (link : Nat)
  /-- PFC_FRAME (R360). -/
  | pfcFrame (port : Nat) (prio : Nat) (pause secured : Bool)
  /-- NEIGHBOUR_REQUEST (R348). -/
  | neighbourRequest (fr : NdFrame) (v6 : Bool) (target : BitVec 128) (asker : BitVec 48)
  /-- COLL_TRIGGER (R369). -/
  | collTrigger (group : Nat)
  /-- COLL_COMPLETE (R371). -/
  | collComplete (group : Nat)
  /-- CODEC_TRIGGER (R386). -/
  | codecTrigger (stream : Nat)
  /-- CODEC_FRAME_START (R387). -/
  | codecFrameStart (engine : Nat)
  /-- CODEC_FRAME_DONE (R392). -/
  | codecFrameDone (engine : Nat)
  /-- UNIT_DRAIN_COMPLETE (R431). -/
  | unitDrainComplete (kind index : Nat)
  /-- DRAIN_TIMEOUT (R431). -/
  | drainTimeout (kind index : Nat)
  /-- DOMAIN_RAMP_DONE (R461). -/
  | domainRampDone
  /-- POWER_CAP_REGULATE (R462). -/
  | powerCapRegulate
  /-- TELEMETRY_SWEEP (R464). -/
  | telemetrySweep (r : Sweep)
  /-- THERMTRIP_ASSERT (R419). -/
  | thermtripAssert (r : Sweep)
  /-- ENTER_COLD (R398). -/
  | enterCold (pwrOk resetN : Bool)
  /-- LEAVE_COLD (R399). -/
  | leaveCold (strapBoot strapI3c refclk : Bool)
  /-- IMAGE_VERIFIED (R406). -/
  | imageVerified (timeout : Bool)
  /-- FW_RUNNING (R406). -/
  | fwRunning
  /-- FW_START_TIMEOUT (R406). -/
  | fwStartTimeout
  /-- STACK_TRAINING_DONE (R407). -/
  | stackTrainingDone (stack : Nat) (pass : Bool)
  /-- SQUARE_BIST_DONE (R407). -/
  | squareBistDone (die : Nat) (failed : BitVec 4)
  /-- CLUSTER_BIST_DONE (R407). -/
  | clusterBistDone (cluster : Nat) (pass : Bool)
  /-- FULL_CLOCK_STEP (R410). -/
  | fullClockStep
  /-- I3C_ENTDAA (R416). -/
  | i3cEntdaa (addr : BitVec 7)
  /-- I3C_RSTDAA (R416). -/
  | i3cRstdaa
  /-- I3C_ENEC (R416). -/
  | i3cEnec (enint : Bool)
  /-- I3C_PRIVATE_WRITE (R417). -/
  | i3cPrivateWrite (offset : Byte)
  /-- I3C_PRIVATE_READ (R417). -/
  | i3cPrivateRead (len : Nat)
  /-- I3C_STATUS_REFRESH (R417). -/
  | i3cStatusRefresh (r : Sweep)
  /-- TAP_RESET (R466). -/
  | tapReset
  /-- EXTEST (R470). -/
  | extest
  /-- SAMPLE_PRELOAD (R467). -/
  | samplePreload (cells : BitVec 69)
  /-- IDCODE (R466). -/
  | idcode
  /-- CLAMP (R467). -/
  | clamp
  /-- HIGHZ (R467). -/
  | highz
  /-- EXTEST_PULSE (R469). -/
  | extestPulse
  /-- EXTEST_TRAIN (R469). -/
  | extestTrain
  /-- BYPASS (R467). -/
  | bypass (opcode : Byte)
  /-- ROSARN_PRIVATE (R467). -/
  | rosarnPrivate (opcode : Byte)
  /-- SLAAC_ROUTER_ADVERTISEMENT (R347). -/
  | slaacRouterAdvertisement (fr : NdFrame) (pfx : BitVec 64) (dup : Bool)
  /-- UPDATE_DR (R469). -/
  | updateDr (cells : BitVec 69) (capture : Bool)
  /-- STAGING_COMPLETE (R414). -/
  | stagingComplete (ok : Bool)
  /-- FUSE_BURN_COMPLETE (R311). -/
  | fuseBurnComplete (verified : Bool)
  /-- IMAGE_PLACEMENT_COMPLETE (R331). -/
  | imagePlacementComplete (mb : Nat)
  deriving DecidableEq, Repr

end Sys2Proof
end

