-- ==== Sys2Proof/WellFormed.lean ====
section
/-! DEFINITION. Well-formed commands: every operand names a thing that some part of the family has (R1, R14, R314,
R344). A command that is not well formed changes nothing (see the assumption log). -/

namespace Sys2Proof

/-- An arrival with a link of the part, lengths that agree, and a payload a packet can carry (R353, R354). -/
def Arrival.wf (a : Arrival) : Bool := a.link < 4 && a.pkt.payload.length ≤ 8192

/-- A sweep with a reading for each sensor of a two-die part and for the 28 rails (R424, R464). -/
def Sweep.wf (r : Sweep) : Bool :=
  r.junction.length == 384 && r.droop.length == 32 && r.slice.length == 64 && r.base.length == 32 && r.stack.length == 8
    && r.io.length == 24 && r.ioDroop.length == 8 && r.regTemp.length == 12 && r.railMv.length == 28 && r.railCur.length == 28

/-- A request of at least one line, within one code page (R293), of one requester; an I/O die master has no `LAT` class (R126,
R302). -/
def MemReq.wf (r : MemReq) : Bool :=
  r.addr % 64 == 0 && 1 ≤ r.lines && r.addr % 1024 / 64 + r.lines ≤ 16 && r.cls < 3 && r.chint < 3
    && !(r.io && (r.cls == 1 || r.kerb)) && r.damage.all (fun p => p.1 < 909 && p.2 < 1024)

/-- Well-formedness of a command. -/
def Instr.wf : Instr → Bool
  | .mbDevQuery mb => mb < 65
  | .mbDevState mb => mb < 65
  | .mbCtxCreate mb => mb < 65
  | .mbCtxLoad mb => mb < 65
  | .mbCtxStart mb => mb < 65
  | .ctxStopAtBoundary mb => mb < 65
  | .ctxStopAtEnd mb => mb < 65
  | .mbCtxDestroy mb => mb < 65
  | .mbCtxStatus mb => mb < 65
  | .mbTickConfig mb => mb < 65
  | .tickReacquire mb => mb < 65
  | .mbSlotTable mb => mb < 65
  | .mbBoundWrite mb => mb < 65
  | .mbSqConfig mb => mb < 65
  | .setStrength mb => mb < 65
  | .setLocalGib mb => mb < 65
  | .setIoPct mb => mb < 65
  | .setCorrWarn mb => mb < 65
  | .memMapWindow mb => mb < 65
  | .memUnmapWindow mb => mb < 65
  | .mbFabricId mb => mb < 65
  | .fabricLinkSettings mb => mb < 65
  | .macsecInstallKey mb => mb < 65
  | .fabricRecordFlash mb => mb < 65
  | .peerAdd mb => mb < 65
  | .peerRemove mb => mb < 65
  | .peerRemoveAll mb => mb < 65
  | .groupSet mb => mb < 65
  | .groupClear mb => mb < 65
  | .traceSet mb => mb < 65
  | .traceStop mb => mb < 65
  | .mbCounterRead mb => mb < 65
  | .portStatusRead mb => mb < 65
  | .corrLogRead mb => mb < 65
  | .coreCounterRead mb => mb < 65
  | .mbEventAck mb => mb < 65
  | .mbDomainSet mb => mb < 65
  | .powerCapSet mb => mb < 65
  | .unitDisable mb => mb < 65
  | .unitReturnToService mb => mb < 65
  | .mbUnitFence mb => mb < 65
  | .mbRepairCommit mb => mb < 65
  | .scrubSetPatrol mb => mb < 65
  | .scrubRange mb => mb < 65
  | .trafficTest mb => mb < 65
  | .scrubStop mb => mb < 65
  | .attestQuote mb => mb < 65
  | .attestCertChunk mb => mb < 65
  | .mbFwStage mb => mb < 65
  | .fwActivateTrial mb => mb < 65
  | .fwActivateReset mb => mb < 65
  | .fwCommit mb => mb < 65
  | .fwCancelTrial mb => mb < 65
  | .mbCodecStreamOpen mb => mb < 65
  | .mbCodecFrame mb => mb < 65
  | .codecCloseDrain mb => mb < 65
  | .codecCloseDiscard mb => mb < 65
  | .matmul st => st < 32
  | .attend st => st < 32
  | .convDense st => st < 32
  | .convDepthwiseDiagonal st => st < 32
  | .convSpaceToChannel st => st < 32
  | .poolMax st => st < 32
  | .poolAverage st => st < 32
  | .poolChannelArgmax st => st < 32
  | .vopCopyConvert st => st < 32
  | .vopAdd st => st < 32
  | .vopSubtract st => st < 32
  | .vopMultiply st => st < 32
  | .vopFma st => st < 32
  | .vopScaleOffset st => st < 32
  | .vopMax st => st < 32
  | .vopMin st => st < 32
  | .vopSelect st => st < 32
  | .vopAbsoluteValue st => st < 32
  | .vopClamp st => st < 32
  | .vopRowSum st => st < 32
  | .vopRowMax st => st < 32
  | .vopRowMin st => st < 32
  | .sfnReciprocal st => st < 32
  | .sfnRsqrt st => st < 32
  | .sfnSqrt st => st < 32
  | .sfnExp2 st => st < 32
  | .sfnLog2 st => st < 32
  | .sfnSine st => st < 32
  | .sfnCosine st => st < 32
  | .sfnSigmoid st => st < 32
  | .sfnTanh st => st < 32
  | .sfnSilu st => st < 32
  | .sfnGelu st => st < 32
  | .sfnLookup st => st < 32
  | .normst st => st < 32
  | .normap st => st < 32
  | .rope st => st < 32
  | .quant st => st < 32
  | .moveCopy st => st < 32
  | .moveMulticast st => st < 32
  | .moveBoundLoad st => st < 32
  | .moveBoundSet st => st < 32
  | .pref st => st < 32
  | .krb st => st < 32
  | .syncWaitAll st => st < 32
  | .syncAdd st => st < 32
  | .syncSet st => st < 32
  | .loopMi st => st < 32
  | .markBegin st => st < 32
  | .markEnd st => st < 32
  | .markPoint st => st < 32
  | .haltMi st => st < 32
  | .issueWaitSatisfied st => st < 32
  | .haloWaitSatisfied core => core < 384
  | .tileComplete core _ => core < 384
  | .miComplete st _ => st < 32
  | .lutReloadHoldRelease st => st < 32
  | .ctabReloadHoldRelease unit => unit < 40
  | .krbDeliveryResume st => st < 32
  | .streamYield st => st < 32
  | .kscan stack _ => stack < 8
  | .kredStatistics stack _ => stack < 8
  | .kredCombine stack _ => stack < 8
  | .kredOrderedSum stack _ => stack < 8
  | .kredOrderedMax stack _ => stack < 8
  | .kstream stack _ => stack < 8
  | .kgathGather stack _ => stack < 8
  | .kgathScatter stack _ => stack < 8
  | .kgathTransform stack _ => stack < 8
  | .kgathFill stack _ => stack < 8
  | .ksurv stack _ => stack < 8
  | .kscrub stack => stack < 8
  | .ktraf stack _ => stack < 8
  | .kerbProgress stack lane => stack < 8 && lane < 3
  | .kerbEngineComplete stack lane => stack < 8 && lane < 3
  | .kerbCommandStop stack lane => stack < 8 && lane < 3
  | .backgroundStop src _ => src < 9
  | .tickBoundary => true
  | .tickInEdge _ => true
  | .tickInWindowExpiry => true
  | .reacquireTimeout => true
  | .ptpSlaveAcquired port => port < 2
  | .ptpSlaveLost port => port < 2
  | .ptpMessage port _ _ => port < 2
  | .ppsOutPulse => true
  | .maintWindowEnd => true
  | .slotBegin => true
  | .swapComplete => true
  | .slotEnd => true
  | .invocationEnd => true
  | .calibrationStepStart stack kind => stack < 8 && kind < 7
  | .calibrationStepDone stack => stack < 8
  | .calibrationForced stack kind => stack < 8 && kind < 7
  | .ctxStalled ctx => ctx < 65
  | .refreshIssue stack pch bank => stack < 8 && pch < 64 && bank < 64
  | .refreshManagementRequest stack pch bank => stack < 8 && pch < 64 && bank < 64
  | .stackTempReading stack _ => stack < 8
  | .stackTempNoReading stack => stack < 8
  | .latCapWindow => true
  | .stackedReadRequest rq => rq.wf
  | .stackedWriteRequest rq _ => rq.wf
  | .pageDecodeDone _ => true
  | .pageLockRelease _ => true
  | .memCorrRate stack => stack < 8
  | .stackTrainingLost stack => stack < 8
  | .wcbIdleDrain die _ => die < 2
  | .teardownComplete ctx => ctx < 65
  | .oftMbox a => a.wf
  | .oftWrite a => a.wf
  | .oftReadReq a => a.wf
  | .oftReadResp a => a.wf
  | .oftAck a => a.wf
  | .oftNak a => a.wf
  | .oftCollData a => a.wf
  | .collCtrlReady a => a.wf
  | .collCtrlAbort a => a.wf
  | .oftProbe a => a.wf
  | .oftPlacementVisible peer psn => peer < 65536 && psn < 2 ^ 32
  | .ackDelayTimer peer => peer < 65536
  | .retransmitTimeout peer psn => peer < 65536 && psn < 2 ^ 32
  | .pathAckTimeout peer path => peer < 65536 && path < 8
  | .probeTimer => true
  | .ecnRateIncrease peer => peer < 65536
  | .linkDown link => link < 4
  | .linkUp link => link < 4
  | .pfcFrame port prio _ _ => port < 2 && prio < 8
  | .neighbourRequest fr _ _ _ => fr.port < 2
  | .collTrigger group => group < 256
  | .collComplete group => group < 256
  | .codecTrigger stream => stream < 65536
  | .codecFrameStart engine => engine < 2
  | .codecFrameDone engine => engine < 2
  | .unitDrainComplete kind index => kind < 7 && index < 32
  | .drainTimeout kind index => kind < 7 && index < 32
  | .domainRampDone => true
  | .powerCapRegulate => true
  | .telemetrySweep r => r.wf
  | .thermtripAssert r => r.wf
  | .enterCold _ _ => true
  | .leaveCold _ _ _ => true
  | .imageVerified _ => true
  | .fwRunning => true
  | .fwStartTimeout => true
  | .stackTrainingDone stack _ => stack < 8
  | .squareBistDone die _ => die < 2
  | .clusterBistDone cluster _ => cluster < 32
  | .fullClockStep => true
  | .i3cEntdaa _ => true
  | .i3cRstdaa => true
  | .i3cEnec _ => true
  | .i3cPrivateWrite _ => true
  | .i3cPrivateRead _ => true
  | .i3cStatusRefresh r => r.wf
  | .tapReset => true
  | .extest => true
  | .samplePreload _ => true
  | .idcode => true
  | .clamp => true
  | .highz => true
  | .extestPulse => true
  | .extestTrain => true
  | .bypass _ => true
  | .rosarnPrivate _ => true
  | .slaacRouterAdvertisement fr _ _ => fr.port < 2
  | .updateDr _ _ => true
  | .stagingComplete _ => true
  | .fuseBurnComplete _ => true
  | .imagePlacementComplete mb => mb < 65
end Sys2Proof
end

