-- ==== Sys2Proof/Config.lean ====
section
/-! DEFINITION. What the model leaves free: constants without a body. Nothing can evaluate them, and a claim about them
holds whatever they are. Each is named in the assumption log. -/

namespace Sys2Proof.Config

/-- A byte of memory whose contents the spec calls undefined (R106, R120, R129, R175, R193, R286), by the tag of the
occasion and the address. Log 10 (DESIGN CHOICE). -/
opaque freeByte : Nat → Nat → BitVec 8

/-- A number that the spec leaves open, by the tag of the occasion. Log 11 (DESIGN CHOICE). -/
opaque freeNat : Nat → Nat

/-- The tag of the bytes that a traffic test writes, by its pattern and seed (R156, R309). Log 108 (DESIGN CHOICE). -/
opaque trafTag : Nat → Nat → Nat

/-- The bitstream an encoder makes of a frame (R377 to R391), and the coder's state after it: functions of the stream's
settings, the coder's state and the frame, and of nothing else. Log 14 (DESIGN CHOICE). -/
opaque encBits : List Nat → Nat → List Nat → List (BitVec 8)
opaque encNext : List Nat → Nat → List Nat → Nat

/-- What a decoder makes of a bitstream, from the stream's settings, its state and the bytes (R388, R392, R394): whether
it is in error, whether the picture is a key frame, its display order number, its samples by index, the buffers it leaves
marked short-term and long-term from the marks before, the state after it. Log 14 (DESIGN CHOICE). -/
opaque decError : List Nat → Nat → List Nat → Bool
opaque decKey : List Nat → Nat → List Nat → Bool
opaque decOrder : List Nat → Nat → List Nat → Nat
opaque decSample : List Nat → Nat → List Nat → Nat → Nat
opaque decShort : List Nat → Nat → List Nat → List Nat → List Nat
opaque decLong : List Nat → Nat → List Nat → List Nat → List Nat
opaque decNext : List Nat → Nat → List Nat → Nat

/-- What SP 800-108 leaves to the user in the derivation of the device's private key (R412): the counter's octets, those after
the label's zero octet (context and length), the number of blocks, the reduction to a private key; and the secret number of a
signature, by the tag of the occasion (FIPS 186-5). Log 13 (DESIGN CHOICE). -/
opaque kdfCounter : Nat → List (BitVec 8)
opaque kdfContext : List (BitVec 8)
opaque kdfBlocks : Nat
opaque keyOf : List (BitVec 8) → Nat
opaque signSecret : Nat → Nat

end Sys2Proof.Config
end

