-- ==== Sys2Proof/Machine/Digest.lean ====
section
/-! DEFINITION. Digests and signatures of firmware and attestation (R405, R406, R412, R413), as the standards that R11 binds
state them: SHA-384 of FIPS 180-4, ECDSA over P-384 of FIPS 186-5, HMAC and the key derivation of SP 800-108. Words are numbers, kept below their modulus. -/

namespace Sys2Proof.Machine

namespace Sha

/-- Four round constants of FIPS 180-4 to a number, the first in the highest bits. -/
def roundKeys : List Nat :=
  [0x428a2f98d728ae227137449123ef65cdb5c0fbcfec4d3b2fe9b5dba58189dbbc, 0x3956c25bf348b53859f111f1b605d019923f82a4af194f9bab1c5ed5da6d8118,
   0xd807aa98a303024212835b0145706fbe243185be4ee4b28c550c7dc3d5ffb4e2, 0x72be5d74f27b896f80deb1fe3b1696b19bdc06a725c71235c19bf174cf692694,
   0xe49b69c19ef14ad2efbe4786384f25e30fc19dc68b8cd5b5240ca1cc77ac9c65, 0x2de92c6f592b02754a7484aa6ea6e4835cb0a9dcbd41fbd476f988da831153b5,
   0x983e5152ee66dfaba831c66d2db43210b00327c898fb213fbf597fc7beef0ee4, 0xc6e00bf33da88fc2d5a79147930aa72506ca6351e003826f142929670a0e6e70,
   0x27b70a8546d22ffc2e1b21385c26c9264d2c6dfc5ac42aed53380d139d95b3df, 0x650a73548baf63de766a0abb3c77b2a881c2c92e47edaee692722c851482353b,
   0xa2bfe8a14cf10364a81a664bbc423001c24b8b70d0f89791c76c51a30654be30, 0xd192e819d6ef5218d69906245565a910f40e35855771202a106aa07032bbd1b8,
   0x19a4c116b8d2d0c81e376c085141ab532748774cdf8eeb9934b0bcb5e19b48a8, 0x391c0cb3c5c95a634ed8aa4ae3418acb5b9cca4f7763e373682e6ff3d6b2b8a3,
   0x748f82ee5defb2fc78a5636f43172f6084c87814a1f0ab728cc702081a6439ec, 0x90befffa23631e28a4506cebde82bde9bef9a3f7b2c67915c67178f2e372532b,
   0xca273eceea26619cd186b8c721c0c207eada7dd6cde0eb1ef57d4f7fee6ed178, 0x06f067aa72176fba0a637dc5a2c898a6113f9804bef90dae1b710b35131c471b,
   0x28db77f523047d8432caab7b40c724933c9ebe0a15c9bebc431d67c49c100d4c, 0x4cc5d4becb3e42b6597f299cfc657e2a5fcb6fab3ad6faec6c44198c4a475817]

/-- The eight words that SHA-384 starts from, the first in the highest bits. -/
def start : Nat :=
  0xcbbb9d5dc1059ed8629a292a367cd5079159015a3070dd17152fecd8f70e593967332667ffc00b318eb44a8768581511db0c2e0d64f98fa747b5481dbefa4fa4

/-- Word i of the n that a number packs, the first in its highest bits. -/
def wordOf (n x i : Nat) : Nat := x / 2 ^ (64 * (n - 1 - i)) % 2 ^ 64

def constant (t : Nat) : Nat := wordOf 4 (nth roundKeys (t / 4)) (t % 4)

/-- A word turned right by k bits. -/
def turn (k x : Nat) : Nat := x / 2 ^ k + x % 2 ^ k * 2 ^ (64 - k)

/-- Three turns of a word, or two and a shift, combined. -/
def sigma (i j k x : Nat) : Nat := turn i x ^^^ turn j x ^^^ turn k x
def schedSigma (i j k x : Nat) : Nat := turn i x ^^^ turn j x ^^^ x / 2 ^ k

/-- Bits of y where x has ones, of z where it has zeros; and the bits that two of three share. -/
def choose (x y z : Nat) : Nat := z ^^^ (x &&& (y ^^^ z))
def most (x y z : Nat) : Nat := (x &&& y) ||| (z &&& (x ||| y))

/-- The schedule of a block lengthened by n words; the newest stands first. -/
def schedule : Nat → List Nat → List Nat
  | 0, l => l
  | n + 1, l => schedule n
      ((schedSigma 19 61 6 (nth l 1) + nth l 6 + schedSigma 1 8 7 (nth l 14) + nth l 15) % 2 ^ 64 :: l)

/-- One round on the working words a to h. -/
def round (v : List Nat) (k : Nat × Nat) : List Nat :=
  let (a, e) := (nth v 0, nth v 4)
  let t := nth v 7 + sigma 14 18 41 e + choose e (nth v 5) (nth v 6) + constant k.1 + k.2
  [(t + sigma 28 34 39 a + most a (nth v 1) (nth v 2)) % 2 ^ 64, a, nth v 1, nth v 2, (nth v 3 + t) % 2 ^ 64, e, nth v 5, nth v 6]

/-- One block of sixteen words digested. -/
def block (h : List Nat) (w : List Nat) : List Nat :=
  let r := (((schedule 64 w.reverse).reverse.zipIdx).map (fun p => (p.2, p.1))).foldl round h
  h.zipWith (fun x y => (x + y) % 2 ^ 64) r

/-- A list cut into pieces of n, at most k of them. -/
def cut {α : Type} (n : Nat) : Nat → List α → List (List α)
  | 0, _ => []
  | k + 1, l => match l with
    | [] => []
    | _ => l.take n :: cut n k (l.drop n)

/-- A message padded to whole blocks: a one bit, zeros, its length in bits. -/
def padded (m : List Byte) : List Byte := m ++ 0x80 :: (List.replicate ((239 - m.length % 128) % 128) 0 ++ beBytes 16 (8 * m.length))

end Sha

/-- SHA-384 (FIPS 180-4). -/
def sha384 (m : List Byte) : BitVec 384 :=
  let p := Sha.padded m
  let words := (Sha.cut 8 (p.length / 8) p).map beNat
  let h := (Sha.cut 16 (words.length / 16) words).foldl Sha.block ((List.range 8).map (Sha.wordOf 8 Sha.start))
  BitVec.ofNat 384 ((h.take 6).foldl (fun n x => n * 2 ^ 64 + x) 0)

namespace P384

/-- The field, the order of the base point, the constant of the curve y² = x³ - 3x + b, the base point (FIPS 186-5). -/
def field : Nat := 2 ^ 384 - 2 ^ 128 - 2 ^ 96 + 2 ^ 32 - 1
def order : Nat := 0xffffffffffffffffffffffffffffffffffffffffffffffffc7634d81f4372ddf581a0db248b0a77aecec196accc52973
def curveB : Nat := 0xb3312fa7e23ee7e4988e056be3f82d19181d9c6efe8141120314088f5013875ac656398d8a2ed19d2a85c8edd3ec2aef
def base : Nat × Nat :=
  (0xaa87ca22be8b05378eb1c71ef320ad746e1d3b628ba79b9859f741e082542a385502f25dbf55296c3a545e3872760ab7,
   0x3617de4a96262c6f5d9e98bf9292dc29f8f41dbd289a147ce9da3113b5f0b8c00a60b1ce1d7e819d7a431d7c90ea0e5f)

/-- A difference, and a power, to a modulus. -/
def less (m a b : Nat) : Nat := (a + m - b % m) % m
def powMod (m : Nat) : Nat → Nat → Nat → Nat
  | 0, _, _ => 1 % m
  | k + 1, a, e => let r := powMod m k (a * a % m) (e / 2); if e % 2 == 1 then a * r % m else r

/-- The inverse to a prime modulus. -/
def inv (m a : Nat) : Nat := powMod m 384 (a % m) (m - 2)

/-- A point as x = X / Z², y = Y / Z³; Z is 0 at infinity. -/
structure Point where
  X : Nat := 1
  Y : Nat := 1
  Z : Nat := 0
  deriving DecidableEq, Repr

def ofAffine (p : Nat × Nat) : Point := ⟨p.1, p.2, 1⟩

/-- Twice a point. -/
def double (p : Point) : Point :=
  let q := field
  let zz := p.Z * p.Z % q
  let yy := p.Y * p.Y % q
  let s := 4 * p.X * yy % q
  let m := 3 * (less q p.X zz * (p.X + zz)) % q
  let x := less q (m * m) (2 * s)
  ⟨x, less q (m * less q s x) (8 * yy * yy), 2 * p.Y * p.Z % q⟩

/-- The sum of two points. -/
def add (p r : Point) : Point :=
  let q := field
  if p.Z == 0 then r
  else if r.Z == 0 then p
  else
    let (zz, ww) := (p.Z * p.Z % q, r.Z * r.Z % q)
    let (u, s) := (p.X * ww % q, p.Y * ww * r.Z % q)
    let h := less q (r.X * zz) u
    let d := less q (r.Y * zz * p.Z) s
    if h == 0 then (if d == 0 then double p else {})
    else
      let hh := h * h % q
      let v := u * hh % q
      let x := less q (d * d) (hh * h + 2 * v)
      ⟨x, less q (d * less q v x) (s * hh * h), p.Z * r.Z * h % q⟩

/-- A multiple of a point, by the low n bits of k. -/
def times : Nat → Nat → Point → Point
  | 0, _, _ => {}
  | n + 1, k, p => let r := double (times n (k / 2) p); if k % 2 == 1 then add r p else r

/-- The x of a point. -/
def xOf (p : Point) : Nat := p.X * inv field (p.Z * p.Z) % field

def onCurve (p : Nat × Nat) : Bool :=
  p.1 < field && p.2 < field && p.2 * p.2 % field == (less field (p.1 * p.1 * p.1) (3 * p.1) + curveB) % field

end P384

/-- The verification of an ECDSA signature r, s of a digest by a key, its x then its y (FIPS 186-5). -/
def ecdsaVerify (key : List Byte) (digest : BitVec 384) (r s : List Byte) : Bool :=
  let q : Nat × Nat := (beNat (key.take 48), beNat (key.drop 48))
  let (r, s) := (beNat r, beNat s)
  let n := P384.order
  P384.onCurve q && 0 < r && r < n && 0 < s && s < n &&
    (let w := P384.inv n s
     let p := P384.add (P384.times 384 (digest.toNat * w % n) (P384.ofAffine P384.base)) (P384.times 384 (r * w % n) (P384.ofAffine q))
     p.Z != 0 && P384.xOf p % n == r)

/-- An ECDSA signature of a digest, by a private key and a per-message secret number (FIPS 186-5). -/
def ecdsaSign (key : Nat) (digest : BitVec 384) (secret : Nat) : BitVec 384 × BitVec 384 :=
  let n := P384.order
  let r := P384.xOf (P384.times 384 secret (P384.ofAffine P384.base)) % n
  (BitVec.ofNat 384 r, BitVec.ofNat 384 (P384.inv n secret * (digest.toNat + r * key) % n))

/-- The octets of a digest or of half a signature. -/
def digestBytes (x : BitVec 384) : List Byte := beBytes 48 x.toNat

/-- HMAC with SHA-384 under a key of at most one block (FIPS 198-1). -/
def hmac384 (key m : List Byte) : List Byte :=
  let pad (b : Byte) : List Byte := (List.range 128).map (fun i => key.getD i 0 ^^^ b)
  digestBytes (sha384 (pad 0x5C ++ digestBytes (sha384 (pad 0x36 ++ m))))

/-- The device's private key (R412): the counter mode of SP 800-108 with HMAC-SHA-384 under the fuse secret and the label
"OVN-9400 device key". What that standard leaves to the user is free. Log 13 (DESIGN CHOICE). -/
def deviceKey (secret : BitVec 256) : Nat :=
  let label : List Byte := "OVN-9400 device key".toList.map (fun c => BitVec.ofNat 8 c.toNat)
  Config.keyOf ((List.range Config.kdfBlocks).flatMap (fun i =>
    hmac384 (beBytes 32 secret.toNat) (Config.kdfCounter (i + 1) ++ label ++ 0x00 :: Config.kdfContext)))

end Sys2Proof.Machine
end

