-- ==== Sys2Proof/Machine/State.lean ====
section
/-! DEFINITION. The state of the block, as plain data: everything the spec gives the part, the queue of waiting
commands, and the machine right after reset. What survives `COLD` (R398) stands beside `Dev`, which holds the rest. -/

namespace Sys2Proof.Machine

/-- A sparse map from numbers, kept strictly rising by key. -/
abbrev AMap (α : Type) := List (Nat × α)

/-- Why a step stops with a fault. -/
inductive Fault where
  /-- Raised by an idle step more than 10 ms after `THERMTRIP_N` was asserted with power still applied: past that time
  the part does not promise to survive (R419). Safe: the model says nothing of such a part. -/
  | pastThermtrip
  deriving DecidableEq, Repr

/-- Why a command has no meaning. -/
inductive Refusal where
  /-- Raised by an arm of `exec` for a command the model gives no meaning yet. Safe. -/
  | notModelled (mnemonic : String)
  /-- Raised by ROSARN_PRIVATE at lock level 0: the registers of the private test instructions are undisclosed
  (R467). Safe. -/
  | undisclosed
  deriving DecidableEq, Repr

/-- The three parts (R1). -/
inductive Part where
  | ovn9480
  | ovn9470
  | ovn9460
  deriving DecidableEq, Repr

/-- Device states (R400). -/
inductive DevState where
  | cold
  | rom
  | fwCheck
  | link
  | reduced
  | full
  | halted
  deriving DecidableEq, Repr

/-- Context states (R328) and the unclaimed one. -/
inductive CtxState where
  | unclaimed
  | empty
  | loaded
  | ready
  | running
  | parked
  | faulted
  | tearingDown
  deriving DecidableEq, Repr

/-- Fault classes of a context (R421). -/
inductive FClass where
  | address
  | shape
  | overflow
  | poison
  | illegal
  | kerb
  deriving DecidableEq, Repr

/-- Service state of a unit (R326, R164). -/
inductive Svc where
  | inService
  | draining
  | disabled
  | off
  deriving DecidableEq, Repr

/-- Element formats (R67). -/
inductive DType where
  | fp32
  | bf16
  | fp16
  | e4m3
  | e5m2
  | e2m3
  | e3m2
  | mxfp4
  | mxint8
  | ov4o
  | int32
  | uint32
  | uint16
  | uint8
  deriving DecidableEq, Repr

/-- A tensor descriptor resolved at an issue (R66 to R71): base with `LOOP` advances added, extents read. -/
structure Tensor where
  idx : Nat := 0
  base : Nat := 0
  dtype : DType := .fp32
  rank : Nat := 1
  comp : Nat := 0
  chint : Nat := 0
  ext : List Nat := []
  alloc : List Nat := []
  stride : List Nat := []
  imm : List Bool := []
  ctab : Nat := 0
  /-- Base of the companion (R258) or of the side list (R187). -/
  aux : Nat := 0
  /-- Slot size of the side list (R187). -/
  auxSize : Nat := 0
  /-- Stride of the side list's slots. -/
  auxStride : Nat := 0
  /-- Cache hint of the companion or side list (R110). -/
  auxChint : Nat := 0
  deriving DecidableEq, Repr

/-- The recorded fault of a context (R337, R421). -/
structure FaultRec where
  cls : Option FClass := none
  stream : Nat := 0
  cmd : Nat := 0
  offset : Nat := 0
  info : Nat := 0
  tick : BitVec 32 := 0
  deriving DecidableEq, Repr

/-- A certificate record (R43). -/
structure Cert where
  wcetNs : Nat := 0
  maxMiNs : Nat := 0
  tcKhz : Nat := 0
  refreshX : Nat := 0
  latPct : Nat := 0
  ioPct : Nat := 0
  corrAllow : Nat := 0
  powerW : Nat := 0
  deriving DecidableEq, Repr

/-- A stacked-memory region of a loaded program (R330), placed (R333). -/
structure Region where
  size : Nat := 0
  region : Nat := 0
  place : Nat := 0
  zero : Bool := false
  base : Nat := 0
  /-- Its span or stack view: 0 wide, 1 and 2 die-local, 0x10 + s the stack view of s. -/
  space : Nat := 0
  deriving DecidableEq, Repr

/-- A Square partition of a loaded program (R118), placed (R119). `off` is its offset in the scratch of its die. -/
structure Partition where
  size : Nat := 0
  die : Nat := 0
  region : Nat := 0
  pin : Bool := false
  transient : Bool := false
  granted : Bool := false
  off : Nat := 0
  deriving DecidableEq, Repr

/-- A loaded tick program (R329, R330). -/
structure Program where
  reqCap : BitVec 64 := 0
  srSeed : BitVec 64 := 0
  boundBlock : Option Nat := none
  nDesc : Nat := 1
  descPart : Nat := 0
  tablePart : Nat := 0xFF
  ctSlots : Nat := 0
  nProg : Nat := 1
  kqEntries : List Nat := []
  cbLive : List Nat := []
  regions : List Region := []
  parts : List Partition := []
  certs : List Cert := []
  streams : List (Option Nat) := []
  coresets : AMap (BitVec 64) := []
  objects : List Nat := []
  rbase : List Nat := []
  /-- Save areas allocated in the die-local storage of each die: space, base, bytes (R121). -/
  save : List (Nat × Nat × Nat) := []
  /-- The image bytes as MB_CTX_LOAD read them (R413). -/
  image : List Byte := []
  deriving DecidableEq, Repr

/-- One level of the loop stack of a stream (R95 to R97): the offset of the `LOOP`, its body, the iteration in
progress, the count read at issue, the advances and the index register; and the consecutive iterations that the stream
prefetcher has seen (R125). -/
structure LoopLevel where
  off : Nat := 0
  body : Nat := 0
  iter : Nat := 0
  count : Nat := 0
  adv : List (Nat × Int) := []
  idx : Option Nat := none
  seen : Nat := 0
  deriving DecidableEq, Repr

/-- What a stream is held at. -/
inductive Hold where
  | none
  | wait
  | lut
  | ctab
  | krb
  deriving DecidableEq, Repr

/-- A stream of an invocation (R50, R97, R447). -/
structure Stream where
  pc : Nat := 0
  halted : Bool := true
  hold : Hold := .none
  loops : List LoopLevel := []
  marks : List (BitVec 32) := []
  yielded : Bool := false
  /-- The header wait of the macro-instruction at `pc` is met; its own hold is not (R94, R97). -/
  met : Bool := false
  /-- The macro-instruction held at issue, as taken (R53). -/
  raw : List Byte := []
  /-- When its wait arrived, among the waits of the context (R92). -/
  since : Nat := 0
  deriving DecidableEq, Repr

/-- A context: its state, its program and the on-chip state that swaps with it (R89, R120, R328, R337). -/
structure Ctx where
  st : CtxState := .unclaimed
  evMask : BitVec 32 := 0
  stallTicks : Nat := 0
  stallCount : Nat := 0
  stallRaised : Bool := false
  progress : Bool := false
  prog : Option Program := none
  bounds : List (BitVec 32) := []
  objs : AMap (BitVec 32) := []
  /-- Bound writes waiting for the next invocation (R336): register, value. -/
  pendBounds : List (Nat × BitVec 32) := []
  streams : List Stream := []
  entry : Nat := 0
  unfinished : Bool := false
  yielded : Bool := false
  stopMode : Option Nat := none
  destroyWait : Bool := false
  /-- Torn down by a destroy that still waits for its codec streams (R328, R338). -/
  torn : Bool := false
  /-- Broken conditions of each slot program: program, condition code of R424. -/
  void : List (Nat × Nat) := []
  /-- Loaded in `REDUCED`: its slots were never timed (R410). -/
  untimed : Bool := false
  /-- What the descriptor cache of each cluster holds for the context: descriptor indexes, latest first (R53, R120). -/
  descs : AMap (List Nat) := []
  lastStart : BitVec 32 := 0
  fault : FaultRec := {}
  faultNs : Nat := 0
  /-- Valid and dirty 4 KiB granules, by Square address / 4096 (R120). -/
  valid : List Nat := []
  dirty : List Nat := []
  deriving DecidableEq, Repr

/-- A compression slot as the expanders hold it (R272): slot, generation taken, active bank, both banks' bytes. -/
structure CTab where
  slot : Nat := 0
  gen : Nat := 0
  act : Nat := 0
  b0 : List Byte := []
  b1 : List Byte := []
  deriving DecidableEq, Repr

/-- A macro-instruction that has issued and is not complete (R51). -/
structure InFlight where
  id : Nat := 0
  ctx : Nat := 0
  st : Nat := 0
  off : Nat := 0
  raw : List Byte := []
  tens : List Tensor := []
  /-- Tiles per dimension and tile sizes of the walk (R76, R77). -/
  n : List Nat := []
  t : List Nat := []
  s : Nat := 1
  /-- Items of each core of the set still to do, in its order, with its core number (R77, R256). -/
  todo : List (Nat × List Nat) := []
  /-- Cores of the set whose share is done and signalled (R91). -/
  doneCores : List Nat := []
  /-- Its last share is done; the signal of that share follows what completion does first (R91, R111, R209, R274). -/
  owes : Bool := false
  /-- Items that name a halo object and are not yet released (R255). -/
  halo : List Nat := []
  /-- FP32 partials of split tiles: walk index, split, values (R78). -/
  partials : List (Nat × Nat × List (BitVec 32)) := []
  /-- Compression slots taken at issue (R272). -/
  tabs : List CTab := []
  /-- The lookup slot, bank, generation and the bank's address taken at issue (R209). -/
  lut : Option (Nat × Nat × Nat × Nat) := none
  /-- The faulting walk rank, when an overflow has stopped the walk (R86). -/
  limit : Option Nat := none
  clamped : Nat := 0
  /-- Blocks read through a `DROP_AFTER_USE` descriptor (R111): address / 4096. -/
  drop : List Nat := []
  issuedNs : Nat := 0
  marks : List (BitVec 32) := []
  /-- Kerb commands of a `KRB` that are not complete (R143), and those not yet delivered (R139). -/
  kcmds : List Nat := []
  kleft : List Nat := []
  fenced : Bool := false
  deriving DecidableEq, Repr

/-- A Kerb command as delivered, its descriptors and bounds resolved (R137). -/
structure KCmd where
  id : Nat := 0
  ctx : Nat := 0
  mi : Nat := 0
  st : Nat := 0
  off : Nat := 0
  idx : Nat := 0
  addr : Nat := 0
  raw : List Byte := []
  tens : List (Option Tensor) := []
  engs : List Nat := []
  /-- Engines in which it is not complete, and the result word so far (R146). -/
  left : List Nat := []
  result : Nat := 0
  /-- Partial histograms sent to the lowest-numbered engine (R155), and the elements or bytes counted (R270). -/
  hist : List Nat := []
  samples : Nat := 0
  /-- Address of the program block of a `KSTREAM` (R152). -/
  prog : Nat := 0
  /-- The cache clean of R113 is done. -/
  cleaned : Bool := false
  deriving DecidableEq, Repr

/-- A place in an engine's queue (R139, R140). -/
structure KEntry where
  cmd : Nat := 0
  lane : Nat := 0
  running : Bool := false
  stopped : Bool := false
  /-- Items of the share done, and progress signals made (R145). -/
  items : Nat := 0
  sent : Nat := 0
  /-- A `KSURV` at its table write: 1 held, 2 written (R274). -/
  held : Nat := 0
  /-- What it holds in the Kerb buffer (R131, R149, R152): page summaries, or a program block, with the poison of each byte. -/
  buf : List (Byte × Option Nat) := []
  /-- The item at which a word of the Kerb buffer turns out to be lost (R160). -/
  hurt : Option Nat := none
  /-- Lines that a `KGATH` fill has still to install, and whether its list ends in an index out of range (R154). -/
  fill : List Nat := []
  fillBad : Bool := false
  deriving DecidableEq, Repr

/-- A Kerb engine (R130, R131, R164). -/
structure KEngine where
  svc : Svc := .off
  queue : List KEntry := []
  done : BitVec 32 := 0
  patrol : Nat := 0
  patrolRewrite : Bool := false
  patrolPos : Nat := 0
  /-- Pages the patrol has read in this tick. -/
  patrolDone : Nat := 0
  drainNs : Nat := 0
  timeout : Bool := false
  deriving DecidableEq, Repr

/-- A correction-log entry (R299). -/
structure LogEntry where
  page : Nat := 0
  kind : Nat := 0
  syms : Nat := 0
  row : Nat := 0
  bank : Nat := 0
  tick : BitVec 32 := 0
  deriving DecidableEq, Repr

/-- A page locked for a correction, a partial-page write or a scrub (R294), with the requests that wait on it. `phase`:
0 waits for a decoder, 1 decoding, 2 done, 3 decoded while a calibration step blocks the stack (R48). -/
structure PageLock where
  page : Nat := 0
  rq : MemReq
  data : List Byte := []
  write : Bool := false
  phase : Nat := 1
  waiting : List (MemReq × List Byte × Bool) := []
  deriving DecidableEq, Repr

/-- A stack and its half of the Roundabout (R282 to R313). -/
structure Stack where
  st : Nat := 3
  /-- It lost its training in service (R428): still mapped, every read poisoned. -/
  lost : Bool := false
  refresh : Nat := 2
  tempValid : Bool := false
  overLimit : Bool := false
  temp : Nat := 0
  /-- Consecutive readings at least 3 °C below 95 °C, and below 85 °C (R304). -/
  low95 : Nat := 0
  low85 : Nat := 0
  /-- A valid reading has been taken since power-up (R305). -/
  tempSeen : Bool := false
  lastReadNs : Nat := 0
  log : List LogEntry := []
  locks : List PageLock := []
  corrTick : Nat := 0
  corrLast : Nat := 0
  corrRaised : Bool := false
  uncorrPages : List Nat := []
  defer : Nat := 0
  serviceNs : Nat := 0
  /-- Start of the last completed ZQ and retraining step, in ns since entering service (R48). -/
  zqNs : Nat := 0
  trNs : Nat := 0
  /-- A calibration step in progress: its kind (0 ZQ, 1 retraining) and start. -/
  cal : Option (Nat × Nat) := none
  /-- Kinds due at the boundary that opened the tick and not completed since (R48). -/
  calDue : List Nat := []
  /-- A deferred step found no point in the last tick and runs at the first slot of this one (R49). -/
  carry : Bool := false
  /-- Refreshes issued, for each pseudo-channel and bank (key 64 × pch + bank). -/
  refreshes : AMap Nat := []
  /-- LAT bursts of each pseudo-channel and I/O bursts of the stack in the current microsecond (R301, R302). -/
  latUsed : AMap Nat := []
  ioUsed : Nat := 0
  /-- Requests held to the next microsecond by the I/O share. -/
  ioWait : List (MemReq × List Byte × Bool) := []
  /-- Requests ready and not yet served (R300): their stack calibrates, or they are background outside maintenance time. -/
  ready : List (MemReq × List Byte × Bool) := []
  /-- Which requester each pseudo-channel served last, by class (key 4 × pch + class): 1 the memory controller, 2 the Kerb
  engine (R157, R300). -/
  turn : AMap Nat := []
  deriving DecidableEq, Repr

/-- A block of a cache region (R108): its number, its set, its valid lines and its dirty bit. -/
structure CacheBlock where
  blk : Nat := 0
  set : Nat := 0
  valid : BitVec 64 := 0
  dirty : Bool := false
  /-- Lines that a prefetch brought in and no tile has used since (R439). -/
  ahead : BitVec 64 := 0
  deriving DecidableEq, Repr

/-- A write-combining entry (R116): line address / 64, byte mask, and the bytes written. -/
structure WcbEntry where
  line : Nat := 0
  mask : BitVec 64 := 0
  data : List Byte := []
  stream : Bool := false
  /-- The macro-instructions with bytes in the entry. -/
  users : List Nat := []
  poison : Bool := false
  /-- What a drain in progress has read of the line, its poison with it (R117). -/
  rest : Option (List Byte × Bool) := none
  sinceNs : Nat := 0
  deriving DecidableEq, Repr

/-- One Square (R100 to R107). Cache blocks stand in use order, most recent first. -/
structure Square where
  g : Nat := 4
  quadOn : BitVec 4 := 0xF
  blocks : List CacheBlock := []
  /-- Cached bytes by device address, and cached poisoned lines by address / 64. -/
  cdata : AMap Byte := []
  cpoison : List Nat := []
  wcb : List WcbEntry := []
  /-- Bring-up: BIST run, and quadrants that failed it (R407, R408). -/
  bist : Bool := false
  failed : BitVec 4 := 0
  deriving DecidableEq, Repr

/-- The byte store (00_scope R12, R284): bytes by canonical device address, contents the spec leaves undefined as
ranges [lo, hi) with a tag, poisoned lines (address / 64), lines without a valid check and code pages without a valid
parity (R309), and the damage of a page's slot since it was written: for a page (address / 1024) the exclusive-or mask
whose bits [10s + 9:10s] are code symbol s (R292). -/
structure Mem where
  cells : List Host.Cell := []
  undef : List (Nat × Nat × Nat) := []
  poison : List Nat := []
  noCheck : List Nat := []
  noParity : List Nat := []
  damage : AMap Nat := []
  deriving DecidableEq, Repr

/-- A line that a core's DMA engine has fetched ahead into its core buffer (R125): the core, the macro-instruction (0 for a
learned one), the storage key of the line, its bytes, its poison. Log 75 (DESIGN CHOICE). -/
structure Staged where
  core : Nat := 0
  mi : Nat := 0
  line : Nat := 0
  data : List Byte := []
  poison : Bool := false
  deriving DecidableEq, Repr

/-- A cluster: service state, bring-up result, drain bookkeeping. -/
structure Cluster where
  svc : Svc := .off
  tested : Bool := false
  passed : Bool := false
  failed : Bool := false
  bist : Bool := false
  drainNs : Nat := 0
  timeout : Bool := false
  deriving DecidableEq, Repr

/-- A tick configuration (R29). -/
structure TickCfg where
  period : Nat := 10000000
  maint : Nat := 150000
  source : Nat := 0
  tickOut : Bool := false
  inWindow : Nat := 1000
  phase : Nat := 0
  deriving DecidableEq, Repr

/-- The Tick Unit (R22 to R32). -/
structure TickUnit where
  cfg : TickCfg := {}
  pend : Option TickCfg := none
  reacq : Bool := false
  locked : Bool := true
  holdover : Bool := false
  tick : BitVec 32 := 0
  startNs : Nat := 0
  /-- The nominal end of the tick in progress. -/
  endNs : Nat := 10000000
  /-- PTP: the slave port, whether one has ever been slave, the offset from the grid in ns, the excursion flag, and
  the PTP time at `ptpAtNs`. -/
  slave : Option Nat := none
  everSlave : Bool := false
  offset : Int := 0
  excursion : Bool := false
  ptpNs : Nat := 0
  ptpAtNs : Nat := 0
  /-- Length of the last disciplined tick. -/
  rate : Nat := 10000000
  tickOutNs : Option Nat := none
  ppsNs : Option Nat := none
  deriving DecidableEq, Repr

/-- A slot-table entry (R35). -/
structure SlotEntry where
  length : Nat := 0
  owner : Nat := 0
  rt : Bool := false
  yield : Bool := false
  entry : Nat := 0
  deriving DecidableEq, Repr

/-- The slot in progress: entry, actual start, end (none: to the boundary), idle or owned, swapping, ended, overrun. -/
structure SlotRun where
  i : Nat := 0
  startNs : Nat := 0
  endNs : Option Nat := none
  idle : Bool := true
  swapping : Bool := false
  ended : Bool := false
  overrun : Bool := false
  yielding : Bool := false
  /-- The slot's own invocation has begun; clear while yielded work that resumed first still runs (R39). -/
  own : Bool := false
  deriving DecidableEq, Repr

/-- The slot unit (R33 to R42): tables, the window, the slot in progress, the resident context (R120). -/
structure Slots where
  table : List SlotEntry := []
  pend : Option (List SlotEntry) := none
  window : Bool := true
  nxt : Nat := 0
  cur : Option SlotRun := none
  resident : Nat := 0
  /-- A swap still running at the boundary (R40), for the incoming context. -/
  swapTo : Nat := 0
  swapNs : Nat := 0
  /-- A context still executing under R40 after the boundary. -/
  late : Nat := 0
  deriving DecidableEq, Repr

/-- An event kept in a mailbox (R322, R423). -/
structure EvRec where
  code : Nat := 0
  seq : BitVec 32 := 0
  lost : Nat := 0
  tick : BitVec 32 := 0
  ctx : Nat := 0
  kind : Nat := 0xFF
  unit : Nat := 0
  reason : Nat := 0
  aux : Nat := 0
  arg0 : Nat := 0
  arg1 : Nat := 0
  deriving DecidableEq, Repr

/-- A command accepted by a mailbox (R315, R317): the sender, the path it came by, its header fields and payload. -/
structure MbCmd where
  peer : Nat := 0
  link : Nat := 0
  v6 : Bool := true
  addr : BitVec 128 := 0
  mac : BitVec 48 := 0
  order : Nat := 0
  msg : Nat := 0
  seq : Nat := 0
  tag : Nat := 0
  hdr : List Byte := []
  payload : List Byte := []
  /-- Its packet's sequence number (R358); none when the space it came in has ended. -/
  psn : Option (BitVec 32) := none
  /-- Execution has begun and waits for a completion (R321). -/
  busy : Bool := false
  /-- Executed, its response held behind those of earlier commands (R317): status, detail, warning, payload. -/
  done : Option (Nat × Nat × Bool × List Byte) := none
  deriving DecidableEq, Repr

/-- A mailbox (R314 to R323). -/
structure Mbox where
  queue : List MbCmd := []
  events : List EvRec := []
  evSeq : BitVec 32 := 0
  lost : Nat := 0
  sub : Option Nat := none
  deriving DecidableEq, Repr

/-- The settings of MB_FABRIC_ID (R345) at the values R347 gives without a record. -/
structure Fabric where
  id : BitVec 16 := 0xFFFF
  port : Nat := 46510
  v6 : Bool := true
  slaac : Bool := true
  dscpData : Nat := 0
  dscpCtrl : Nat := 0
  pcpData : Nat := 3
  pcpCtrl : Nat := 6
  pfcMask : BitVec 8 := 0x48
  ptpDomain : Nat := 0
  ptpXport : Nat := 0
  vlan : Nat := 0
  mtu : Nat := 9216
  ipv4 : List (BitVec 32) := [0, 0]
  ipv6 : List (BitVec 128) := [0, 0]
  plen : List Nat := [0, 0, 0, 0]
  linkMode : BitVec 4 := 0
  macsecReq : Bool := false
  /-- Installed keys, newest first: association number, key, salt; at most two are accepted (R351). -/
  keys : List (Nat × BitVec 256 × BitVec 96) := []
  deriving DecidableEq, Repr

/-- An admitted peer (R350). -/
structure Peer where
  id : Nat := 0
  v6 : Bool := false
  bValid : Bool := false
  addrA : BitVec 128 := 0
  addrB : BitVec 128 := 0
  mac0 : BitVec 48 := 0
  mac1 : BitVec 48 := 0
  deriving DecidableEq, Repr

/-- A packet sent and not acknowledged (R357): transmissions, path (2 × link + address), time of the last one, and the
group and collective it belongs to. -/
structure TxPkt where
  pkt : Packet
  tries : Nat := 1
  path : Nat := 0
  sentNs : Nat := 0
  timeout : Nat := 64000
  /-- 0 none, 1 + group for collective data, 0x1000 trace drain. -/
  owner : Nat := 0
  /-- Source address of re-read data (R357), when the payload comes from memory. -/
  src : Option Nat := none
  deriving DecidableEq, Repr

/-- A received packet whose bytes are not yet visible (R358): its number and payload length, the window it writes and
whether it signals there (R364), the group and phase of a collective it belongs to (R371), and whether the space it came in
has ended. -/
structure Placing where
  psn : BitVec 32 := 0
  len : Nat := 0
  win : Option Nat := none
  sig : Bool := false
  coll : Option (Nat × Nat) := none
  /-- The link it came by. -/
  link : Nat := 0
  old : Bool := false
  deriving DecidableEq, Repr

/-- The two sequence spaces with a peer (R356 to R361). -/
structure Space where
  peer : Nat := 0
  /-- Where a reply goes while the peer has no admission entry (R348): link, IPv6, address, source MAC. -/
  link : Nat := 0
  v6 : Bool := true
  addr : BitVec 128 := 0
  mac : BitVec 48 := 0
  txPsn : BitVec 32 := 0
  sync : Bool := true
  unacked : List TxPkt := []
  waiting : List TxPkt := []
  /-- `ACK`, `NAK` and `PROBE` packets that no path takes yet. -/
  ctl : List Packet := []
  rxNext : BitVec 32 := 0
  /-- When the `SYNC` came that began the receive space (R361). -/
  syncNs : Nat := 0
  rxGot : List (BitVec 32) := []
  placing : List Placing := []
  /-- Signals that wait for lower packets of their window (R364): packet, window. -/
  sigs : List (BitVec 32 × Nat) := []
  toAck : Nat := 0
  firstNs : Nat := 0
  ce : Bool := false
  /-- The rate in Mb/s, none until it is first changed: the rate of the live links (R360); the last cut, and the last
  echo or step up. -/
  rate : Option Nat := none
  cutNs : Option Nat := none
  stepNs : Nat := 0
  dead : List Nat := []
  lastAckNs : AMap Nat := []
  deriving DecidableEq, Repr

/-- A memory window (R362). -/
structure Window where
  write : Bool := false
  read : Bool := false
  peer : Nat := 0
  so : Option Nat := none
  base : Nat := 0
  size : Nat := 0
  ctx : Nat := 0
  detached : Bool := false
  unmapping : Bool := false
  deriving DecidableEq, Repr

/-- A collective record (R367). -/
structure CollRec where
  cop : Nat := 0
  det : Bool := false
  max : Bool := false
  dtype : Nat := 0
  root : Nat := 0
  doneSo : Option Nat := none
  src : Nat := 0
  dst : Nat := 0
  recv : Nat := 0
  chunk : Nat := 0
  doneN : Nat := 0
  addr : Nat := 0
  deriving DecidableEq, Repr

/-- A collective in progress (R369 to R371): phase 0 reduce-scatter or the only one, 1 gather of an all-reduce. -/
structure CollRun where
  k : Nat := 0
  cr : CollRec := {}
  phase : Nat := 0
  ready : List Nat := []
  sent : List Nat := []
  /-- Bytes received from each member in the first phase (R369), and the bytes visible of each phase (R371). -/
  got : AMap Nat := []
  vis : Nat := 0
  vis2 : Nat := 0
  /-- Members sent the gathered chunk of an all-reduce, and a peer lost with packets of the collective (R372). -/
  sent2 : List Nat := []
  lost : Bool := false
  reduced : Bool := false
  kred : Option Nat := none
  deriving DecidableEq, Repr

/-- A collective group (R365, R366). -/
structure Group where
  owner : Nat := 0
  trig : Nat := 0
  list : Nat := 0
  len : Nat := 1
  epoch : BitVec 32 := 0
  members : List Nat := []
  cursor : Nat := 0
  k : Nat := 0
  run : Option CollRun := none
  aborted : Bool := false
  /-- READY received for collectives not yet begun here: member, k. -/
  early : List (Nat × Nat) := []
  deriving DecidableEq, Repr

/-- A read the part has outstanding toward a peer (R363): the PSN of the request, where the response goes. -/
structure ReadOut where
  peer : Nat := 0
  psn : Nat := 0
  base : Nat := 0
  len : Nat := 0
  deriving DecidableEq, Repr

/-- One link (R344). -/
structure Link where
  up : Bool := false
  training : Bool := false
  deriving DecidableEq, Repr

/-- A port (R342, R374). -/
structure Port where
  svc : Svc := .off
  flaps : Nat := 0
  paused : BitVec 8 := 0
  ptp : Nat := 0
  drainNs : Nat := 0
  timeout : Bool := false
  /-- IPv6 addresses formed by SLAAC (R347). -/
  slaac : List (BitVec 128) := []
  /-- Solicitations sent for duplicate address detection. -/
  dad : List (BitVec 128) := []
  deriving DecidableEq, Repr

/-- A packet put on a link: the link, the destination address and the next-hop MAC (R348, R350), the priority of its tag,
the VLAN, the DSCP and the UDP port (R345, R353), its congestion mark, 2 for ECT(0) (R360), the don't-fragment flag (R353), and
under MACsec the short channel identifier and the key's association number (R351). Log 116 (DESIGN CHOICE). -/
structure WirePkt where
  link : Nat := 0
  v6 : Bool := true
  addr : BitVec 128 := 0
  mac : BitVec 48 := 0
  pcp : Nat := 0
  vlan : Nat := 0
  dscp : Nat := 0
  port : Nat := 0
  ecn : Nat := 2
  df : Bool := false
  macsec : Option (Nat × Nat) := none
  pkt : Packet
  deriving DecidableEq, Repr

/-- The fabric: identity, ports, admission, spaces, windows, groups, what has been put on the wire.
Log 116 (DESIGN CHOICE). -/
structure Net where
  fab : Fabric := {}
  links : List Link := List.replicate 4 {}
  ports : List Port := List.replicate 2 {}
  closed : Bool := false
  peers : List Peer := []
  spaces : List Space := []
  windows : AMap Window := []
  groups : AMap Group := []
  reads : List ReadOut := []
  /-- Groups whose mismatch has been reported in this tick (R366). -/
  mismatched : List Nat := []
  rxBytes : Nat := 0
  pfcSent : Bool := false
  /-- Packets handed to the ports, newest first. -/
  wire : List WirePkt := []
  /-- Address answers sent (R348): port, target address, asker. -/
  replies : List (Nat × BitVec 128 × BitVec 48) := []
  xce : Svc := .off
  deriving DecidableEq, Repr

/-- A frame descriptor as queued (R385). -/
structure FrameDesc where
  tag : Nat := 0
  flags : Nat := 0
  roi : List (BitVec 64) := []
  slot : Nat := 0
  inp : List Nat := []
  stride : Nat := 0
  out : Nat := 0
  /-- Its display order number and whether it is a key frame, where they are fixed when it is submitted (R389). -/
  order : Nat := 0
  key : Bool := false
  deriving DecidableEq, Repr

/-- A codec stream (R382). Pool buffers are marked short-term (`refs`, newest first), long-term (`ltrs`, by slot), or
unused (R388). `enc` stands for the rest of the coder's state. -/
structure CStream where
  mbox : Nat := 0
  std : Nat := 0
  decode : Bool := false
  profile : Nat := 0
  level : Nat := 0
  tier : Nat := 0
  depth : Nat := 8
  sflags : Nat := 0
  width : Nat := 0
  height : Nat := 0
  gop : Nat := 0
  rc : Nat := 0
  qp : Nat := 0
  nbuf : Nat := 0
  keyPeriod : Nat := 0
  bitrate : Nat := 0
  vbv : Nat := 0
  fps : Nat × Nat := (0, 1)
  trig : Option Nat := none
  done : Option Nat := none
  ctx : Nat := 0
  nltr : Nat := 0
  pool : Nat := 0
  ring : Nat := 0
  ringSize : Nat := 0
  fringN : Nat := 0
  crec : Nat := 0
  crecN : Nat := 0
  queue : List FrameDesc := []
  held : List FrameDesc := []
  refs : List Nat := []
  ltrs : AMap Nat := []
  enc : Nat := 0
  wpos : Nat := 0
  cseq : Nat := 0
  cpos : Nat := 0
  fpos : Nat := 0
  /-- Frames since the last key frame, it included; the next frame must be one; a dropped picture not yet followed by
  one (R394). -/
  order : Nat := 0
  needKey : Bool := true
  /-- Under random access: a key frame was lost and its place is still owed; the submission number of the last one. -/
  owed : Bool := false
  base : Nat := 0
  broken : Bool := false
  detached : Bool := false
  closing : Option Nat := none
  deriving DecidableEq, Repr

/-- The frame an engine works on: its stream, its descriptor, whether it is a key frame, the input read (samples, or the
bytes of a bitstream), a poisoned line among it. -/
structure CodecJob where
  stream : Nat := 0
  desc : FrameDesc := {}
  key : Bool := false
  input : List Nat := []
  poison : Bool := false
  deriving DecidableEq, Repr

/-- A codec engine (R377, R387): its streams by number, the frame in progress, the index of the stream it served
last. Log 6 (DESIGN CHOICE). -/
structure Codec where
  svc : Svc := .off
  streams : AMap CStream := []
  cur : Option CodecJob := none
  last : Nat := 31
  drainNs : Nat := 0
  timeout : Bool := false
  deriving DecidableEq, Repr

/-- What MB_DOMAIN_SET (`set`) or a return to service is still doing (R430, R461): domains still to ramp, clusters and
ports (by domain) under test or training, the cap that takes effect at the response. -/
structure DomainJob where
  ramp : List Nat := []
  test : List Nat := []
  set : Bool := false
  cap : Option Nat := none
  failed : Bool := false
  deriving DecidableEq, Repr

/-- The power controller and telemetry (R457 to R465). -/
structure Power where
  on : BitVec 56 := 0
  cap : Nat := 0
  hold : Bool := false
  job : Option DomainJob := none
  sweep : Sweep := { junction := [], droop := [], slice := [], base := [], stack := [], io := [], ioDroop := [], regTemp := []
                     railMv := [], railCur := [] }
  /-- Dies above 105 °C and not yet back below 102 °C (R424). -/
  hot : List Bool := [false, false, false, false, false]
  railBad : List Nat := []
  thermtripNs : Option Nat := none
  deriving DecidableEq, Repr

/-- A profiling configuration (R440). -/
structure TraceCfg where
  tclass : BitVec 8 := 0
  tctx : Nat := 0
  cores : Bool := false
  clear : Bool := false
  mark : BitVec 32 := 0
  /-- The ring's address; none where no ring is set. -/
  ring : Option Nat := none
  size : Nat := 0
  peer : Nat := 0xFFFF
  win : Nat := 0
  span : Nat := 0
  csel : List Nat := []
  /-- `TOP` 1: profiling stops and the rest stays (R441). -/
  stop : Bool := false
  deriving DecidableEq, Repr

/-- The trace unit (R439 to R446). -/
structure Trace where
  cfg : TraceCfg := {}
  pend : Option TraceCfg := none
  wpos : Nat := 0
  rpos : Nat := 0
  sentPos : Nat := 0
  lostTotal : Nat := 0
  pendLoss : Nat := 0
  firstLost : BitVec 32 := 0
  dstate : Nat := 1
  dreason : Nat := 0
  /-- Per-core counters, key 8 × core + i (R439). -/
  core : AMap (BitVec 48) := []
  /-- What the core in hand has counted of each event, not yet added to its counters (R439). -/
  meter : AMap Nat := []
  /-- Bursts the trace unit has taken in each stack in the microsecond that begins at `usNs` (R442). -/
  used : AMap Nat := []
  usNs : Nat := 0
  /-- The header in the ring is behind these fields: the share left no room for it (R442). -/
  owed : Bool := false
  deriving DecidableEq, Repr

/-- Boot ROM and firmware loader (R399 to R417). -/
structure Boot where
  bootErr : Nat := 0
  errA : Nat := 0xFF
  errB : Nat := 0xFF
  image : Nat := 0
  trial : Bool := false
  strapBoot : Bool := false
  strapI3c : Bool := false
  /-- Images still to try, in order; the head is under check. -/
  order : List Nat := []
  fwVersion : BitVec 32 := 0
  fwRollback : Nat := 0
  fwDigest : BitVec 384 := 0
  /-- Firmware has been started, and when; it has reported running. -/
  started : Bool := false
  startNs : Nat := 0
  running : Bool := false
  deriving DecidableEq, Repr

/-- The I3C target (R416, R417). `ibi`: bytes of in-band interrupts raised, oldest first; `reads`: last bytes read. -/
structure I3c where
  addr : Option (BitVec 7) := none
  enint : Bool := false
  off : Nat := 0
  ibi : List Byte := []
  last : List Byte := []
  /-- The boundary register owns the lands (R470). -/
  mute : Bool := false
  /-- Sensor bytes 24 to 43 as last refreshed. -/
  sensors : List Byte := List.replicate 20 0
  deriving DecidableEq, Repr

/-- A firmware image slot of the boot flash (R405): the 512 octets of the header, and the body. -/
structure FwImage where
  header : List Byte := []
  body : List Byte := []
  deriving DecidableEq, Repr

/-- A selector copy (R404). -/
structure Selector where
  sseq : Nat := 0
  primary : Nat := 0
  trial : Nat := 0
  tries : Nat := 0
  deriving DecidableEq, Repr

/-- A parameter record (R403): write count, recorded strength, recorded fabric settings. -/
structure Params where
  seq : Nat := 0
  strength : Option Nat := none
  fabric : Option Fabric := none
  deriving DecidableEq, Repr

/-- The boot flash (R402 to R405): its size in bytes and whether its parameters are valid, the bytes of the two selector
copies, the parameter records (none for an invalid copy: their layout belongs to the firmware), the images, the board's own
bytes from `0x0300_0000`. Log 8 (DESIGN CHOICE). -/
structure Flash where
  present : Bool := true
  size : Nat := 2 ^ 26
  sfdp : Bool := true
  sel0 : List Byte := []
  sel1 : List Byte := []
  par0 : Option Params := none
  par1 : Option Params := none
  imgA : Option FwImage := none
  imgB : Option FwImage := none
  board : List Byte := []
  deriving DecidableEq, Repr

/-- A repair burned into a base die's fuse map (R311). -/
structure Repair where
  stack : Nat := 0
  pch : Nat := 0
  column : Bool := false
  bank : Nat := 0
  row : Nat := 0
  col : Nat := 0
  deriving DecidableEq, Repr

/-- The fuses and the one-time area (R325, R405, R412, R467). Log 7 (DESIGN CHOICE). -/
structure Otp where
  serial : BitVec 64 := 0
  mac0 : BitVec 48 := 0
  mac1 : BitVec 48 := 0
  keyHash : List (BitVec 384) := [0, 0, 0, 0]
  revoked : BitVec 4 := 0
  rollback : Nat := 0
  lock : BitVec 2 := 1
  secret : BitVec 256 := 0
  chain : List Byte := []
  repairs : List Repair := []
  deriving DecidableEq, Repr

/-- The test access port (R466 to R470). -/
structure Tap where
  ir : Byte := 0x02
  captured : Byte := 0x01
  bsr : BitVec 69 := 0
  /-- The outputs the register drives, and the train of EXTEST_TRAIN. -/
  drive : BitVec 69 := 0
  owns : Bool := false
  highz : Bool := false
  train : Bool := false
  pulses : Nat := 0
  deriving DecidableEq, Repr

/-- The pins the board drives and the output that runs from `VSTBY3V3` (R398, R419). -/
structure Pins where
  pwrOk : Bool := false
  resetN : Bool := false
  thermtrip : Bool := false
  deriving DecidableEq, Repr

/-- Memory configuration (R285, R286). -/
structure MemCfg where
  strength : Nat := 2
  strengthNext : Nat := 2
  localGib : Nat := 16
  localPend : Option Nat := none
  ioPct : Nat := 5
  ioPend : Option Nat := none
  corrWarn : Nat := 0
  spans : Bool := false
  deriving DecidableEq, Repr

/-- A range scrub or traffic test of MB_SCRUB_CONTROL that has not responded (R307 to R309): its command's acceptance
number, the fields, the stacks in which it has not ended, items done in each, a stop requested, and its results. -/
structure ScrubJob where
  order : Nat := 0
  test : Bool := false
  rewrite : Bool := false
  addr : Nat := 0
  count : Nat := 0
  chmask : Nat := 0
  pattern : Nat := 0
  dir : Nat := 0
  seed : Nat := 0
  left : List Nat := []
  pos : AMap Nat := []
  stop : List Nat := []
  read : Nat := 0
  fixed : Nat := 0
  bad : Nat := 0
  errors : Nat := 0
  first : Option Nat := none
  chans : Nat := 0
  deriving DecidableEq, Repr

/-- Everything that `COLD` loses. Log 6 (DESIGN CHOICE), 12 (DESIGN CHOICE). -/
structure Dev where
  /-- The part as built (R1): constant, kept through `COLD`. -/
  part : Part := .ovn9480
  now : Nat := 0
  /-- The model's own counter: the next free value and the next identifier. -/
  fresh : Nat := 0
  st : DevState := .cold
  fast : Bool := false
  boot : Boot := {}
  tu : TickUnit := {}
  slots : Slots := {}
  ctxs : List Ctx := List.replicate 64 {}
  mboxes : List Mbox := List.replicate 65 {}
  accepted : Nat := 0
  mem : Mem := {}
  mcfg : MemCfg := {}
  sq : List Square := List.replicate 2 {}
  stk : List Stack := List.replicate 8 {}
  kerb : List KEngine := List.replicate 8 {}
  kcmds : AMap KCmd := []
  clusters : List Cluster := List.replicate 32 {}
  mis : List InFlight := []
  /-- Lines in the operand staging of the core buffers, oldest first (R14, R125). -/
  staged : List Staged := []
  /-- Words of the Square and of core buffers whose stored bits are wrong and that nothing has read since (R127): device
  address / 8, the number of wrong bits. -/
  upsets : AMap Nat := []
  net : Net := {}
  codec : List Codec := List.replicate 2 {}
  power : Power := {}
  trace : Trace := {}
  ctr : AMap (BitVec 64) := []
  i3c : I3c := {}
  scrub : List ScrubJob := []
  /-- A fuse burn in progress (R311, R415): the repair, or the rollback target. -/
  burn : Option (Option Repair × Nat) := none
  /-- A staging in progress (R414): the image read. -/
  staging : Option FwImage := none
  /-- An image placement in progress (R331): mailbox and the bytes to place. -/
  placing : List (Nat × List (Nat × List Byte)) := []
  /-- The last line delivered by a stack to a master: address, bytes, poison (R295). -/
  delivered : List (Nat × List Byte × Bool) := []
  deriving DecidableEq, Repr

/-- The block: the waiting commands, what survives `COLD` (R398), and the rest. Log 147 (DESIGN CHOICE). -/
structure State where
  pending : List Instr
  otp : Otp
  flash : Flash
  tap : Tap
  pins : Pins
  dev : Dev
  deriving DecidableEq, Repr

/-- The machine right after reset: in `COLD`, every volatile field at its reset value, the queue empty.
Log 4 (DESIGN CHOICE), 6 (DESIGN CHOICE), 7 (DESIGN CHOICE), 8 (DESIGN CHOICE). -/
def State.reset : State :=
  { pending := [], otp := {}, flash := {}, tap := {}, pins := {}, dev := {} }

end Sys2Proof.Machine
end

