-- ==== Sys2Proof/Machine/Mem.lean ====
section
/-! DEFINITION. Sparse maps, the counts of the three parts (R1), the byte store in its canonical form, the address map
(R284, R286 to R289, R103), the raw lookup of the cache region (R108), upsets of Square words (R127), requests at a stack. -/

namespace Sys2Proof.Machine

/-- The value at a key. -/
def aget {α : Type} (m : AMap α) (k : Nat) : Option α := (m.find? (fun p => p.1 == k)).map Prod.snd

/-- The map with a key set, rising order kept. -/
def aset {α : Type} : AMap α → Nat → α → AMap α
  | [], k, v => [(k, v)]
  | p :: m, k, v => if k < p.1 then (k, v) :: p :: m else if k == p.1 then (k, v) :: m else p :: aset m k v

/-- The map without a key. -/
def adel {α : Type} (m : AMap α) (k : Nat) : AMap α := m.filter (fun p => p.1 != k)

/-- The map with the value at a key changed, from `dflt` where there is none. -/
def amod {α : Type} (m : AMap α) (k : Nat) (dflt : α) (f : α → α) : AMap α := aset m k (f ((aget m k).getD dflt))

/-- Capability word (R6, R7). -/
def Part.caps : Part → BitVec 64
  | .ovn9480 => 0xFFFFFFFF07FFFFFF#64
  | .ovn9470 => 0xFFFFFFFF07F3FFFF#64
  | .ovn9460 => 0x0000FFFF07F03C3D#64

/-- IDCODE (R5). -/
def Part.idcode : Part → BitVec 32
  | .ovn9480 => 0x19480CB5#32
  | .ovn9470 => 0x19470CB5#32
  | .ovn9460 => 0x19460CB5#32

/-- The shortest tick of a configuration (R23). -/
def TickCfg.tMin (c : TickCfg) : Nat :=
  match c.source with
  | 1 => c.period - c.period / 10000
  | 2 => c.period - c.inWindow
  | _ => c.period

/-- Length of a tick of the holdover grid of the PTP source (R24): the last disciplined rate, or exactly P where no port has
been slave or P is another one. Log 52 (DEDUCED). -/
def TickUnit.holdLen (t : TickUnit) (c : TickCfg) : Nat := if t.everSlave && t.cfg.source == 1 && t.cfg.period == c.period then t.rate else c.period

/-- The first boundary of the holdover grid at or after a moment, beyond the start of the tick (R27), from which the grid is
counted, whichever source is in force. Log 160 (DESIGN CHOICE). -/
def TickUnit.holdNext (t : TickUnit) (c : TickCfg) (ns : Nat) : Nat :=
  let l := Nat.max 1 (t.holdLen c)
  t.startNs + Nat.max 1 (cdiv (ns - t.startNs) l) * l

/-- The configuration that governs the tick in progress: a re-acquisition is governed by the one that carries it (R27).
Log 54 (DEDUCED). -/
def TickUnit.gov (t : TickUnit) : TickCfg := if t.reacq then t.pend.getD t.cfg else t.cfg

/-- PTP time at a moment. -/
def TickUnit.ptpAt (t : TickUnit) (ns : Nat) : Nat := t.ptpNs + ns - t.ptpAtNs

/-- The first grid point at or after a moment (R27). -/
def TickUnit.gridNext (t : TickUnit) (c : TickCfg) (ns : Nat) : Nat :=
  ns + ((-(((t.ptpAt ns : Int) - (c.phase : Int)) % (c.period : Int))) % (c.period : Int)).toNat

namespace Dev

/-- The clock moved to the moment an event is due, if it is not yet reached. Log 3 (DESIGN CHOICE). -/
def upTo (t : Nat) (d : Dev) : Dev := { d with now := Nat.max d.now t }

/-- The tensor clock in units of 100 MHz (R19): 1.7 GHz, or 1.2 GHz until the single step of R411; a time in tc in whole ns,
rounded up, and a time in ns in whole tc. -/
def clock (d : Dev) : Nat := if d.fast then 17 else 12
def tcNs (d : Dev) (n : Nat) : Nat := (10 * n + d.clock - 1) / d.clock
def nsTc (d : Dev) (n : Nat) : Nat := n * d.clock / 10

/-- The counts of R1. -/
def nDies (d : Dev) : Nat := match d.part with | .ovn9460 => 1 | _ => 2
def nStacks (d : Dev) : Nat := 4 * d.nDies
def nClusters (d : Dev) : Nat := 16 * d.nDies
def nCores (d : Dev) : Nat := 192 * d.nDies
def nCodec (d : Dev) : Nat := match d.part with | .ovn9480 => 2 | _ => 0

/-- The element of a list field, its default beyond the end. -/
def ctx (d : Dev) (i : Nat) : Ctx := if i == 0 then {} else d.ctxs.getD (i - 1) {}
def stack (d : Dev) (s : Nat) : Stack := d.stk.getD s {}
def square (d : Dev) (i : Nat) : Square := d.sq.getD i {}
def eng (d : Dev) (s : Nat) : KEngine := d.kerb.getD s {}
def mbox (d : Dev) (m : Nat) : Mbox := d.mboxes.getD m {}
def cluster (d : Dev) (i : Nat) : Cluster := d.clusters.getD i {}

/-- One element changed. Context numbers count from 1. -/
def setCtx (i : Nat) (f : Ctx → Ctx) (d : Dev) : Dev :=
  if i == 0 then d else { d with ctxs := d.ctxs.modify (i - 1) f }
def setStack (s : Nat) (f : Stack → Stack) (d : Dev) : Dev := { d with stk := d.stk.modify s f }
def setSq (i : Nat) (f : Square → Square) (d : Dev) : Dev := { d with sq := d.sq.modify i f }
def setEng (s : Nat) (f : KEngine → KEngine) (d : Dev) : Dev := { d with kerb := d.kerb.modify s f }
def setMbox (m : Nat) (f : Mbox → Mbox) (d : Dev) : Dev := { d with mboxes := d.mboxes.modify m f }
def setCluster (i : Nat) (f : Cluster → Cluster) (d : Dev) : Dev := { d with clusters := d.clusters.modify i f }
def setCodec (e : Nat) (f : Codec → Codec) (d : Dev) : Dev := { d with codec := d.codec.modify e f }
def setPort (p : Nat) (f : Port → Port) (d : Dev) : Dev := { d with net := { d.net with ports := d.net.ports.modify p f } }
def setMi (id : Nat) (f : InFlight → InFlight) (d : Dev) : Dev :=
  { d with mis := d.mis.map (fun m => if m.id == id then f m else m) }

/-- A fresh number of the model's own. Log 11 (DESIGN CHOICE). -/
def bump (d : Dev) : Dev := { d with fresh := d.fresh + 1 }

/-- An always-on counter raised by n, modulo 2⁶⁴ (R435, R436). -/
def cnt (group inst n : Nat) (d : Dev) : Dev :=
  { d with ctr := amod d.ctr (256 * group + inst) 0 (fun v => v + BitVec.ofNat 64 n) }

/-- A counter's value. -/
def ctrVal (d : Dev) (group inst : Nat) : BitVec 64 := (aget d.ctr (256 * group + inst)).getD 0

def entryAt (d : Dev) (i : Nat) : SlotEntry := d.slots.table.getD i {}

/-- When the next boundary falls that no edge brings (R23, R25, R27). -/
def boundaryDue (d : Dev) : Option Nat :=
  let t := d.tu
  let g := t.gov
  if g.source == 2 && (t.reacq || !t.holdover) then none
  else if t.reacq && g.source == 1 then
    let at' := Nat.max d.now (t.startNs + g.tMin)
    some (if t.slave.isSome then t.gridNext g at' else t.holdNext g at')
  else some t.endNs

/-- The latest end of the tick in progress: the boundary that is due, or, where an edge of `TICK_IN` brings it, the end of the
window in which the tick waits for one (R25, R27). -/
def tickEnd (d : Dev) : Nat :=
  d.boundaryDue.getD (if d.tu.reacq then d.tu.endNs else d.tu.endNs + d.tu.cfg.inWindow)

/-- The end of the slot in progress: its own, or the tick's (R35). -/
def slotEndNs (d : Dev) (r : SlotRun) : Nat := r.endNs.getD d.tickEnd

/-- Maintenance time (R34, R35): the window, an empty table, an idle slot of at least 8,000 ns, the remainder of a slot
whose invocation has ended; and when it ends. A stretch ends with its window or slot: what is
left of a slot and a window after it count as two, each tested alone. Log 153 (DESIGN CHOICE). -/
def maintEnd (d : Dev) : Option Nat :=
  if d.slots.table.isEmpty then some d.tickEnd
  else if d.slots.window then some (d.tu.startNs + d.tu.cfg.maint)
  else match d.slots.cur with
    | some r =>
      if r.ended || (r.idle && 8000 ≤ d.slotEndNs r - r.startNs) then some (d.slotEndNs r) else none
    | none => none

def maintTime (d : Dev) : Bool :=
  match d.maintEnd with
  | some t => d.now < t
  | none => false

/-- U in bytes (R287). -/
def usable (d : Dev) : Nat :=
  let g := match d.mcfg.strength with | 0 => 372 | 1 => 365 | 2 => 358 | 3 => 352 | _ => 346
  if d.nDies == 2 then g * 2 ^ 30 else g * 2 ^ 29

/-- Symbols corrected per page at the strength in force, and the page slot in bytes (R287). -/
def codeT (d : Dev) : Nat := 8 * d.mcfg.strength
def slotSize (d : Dev) : Nat := 1056 + 20 * d.mcfg.strength

/-- Usable bytes of one stack (R287). -/
def perStack (d : Dev) : Nat := d.usable / d.nStacks

def localBytes (d : Dev) : Nat := d.mcfg.localGib * 2 ^ 30

/-- End of the wide span (R288). -/
def wideEnd (d : Dev) : Nat := d.usable - d.nDies * d.localBytes

/-- Base of the stack view of s (R284). -/
def svBase (s : Nat) : Nat := 0x100000000000 + s * 0x1000000000

/-- Stack and local granule of a span address (R288). -/
def spanMap (d : Dev) (a : Nat) : Nat × Nat :=
  let n := d.nStacks
  let w := d.wideEnd
  if a < w then
    let g := a / 4096
    let s := if n == 8 then (g ^^^ (g / 2 ^ 3) ^^^ (g / 2 ^ 6) ^^^ (g / 2 ^ 9)) % 8
      else (g ^^^ (g / 2 ^ 2) ^^^ (g / 2 ^ 4) ^^^ (g / 2 ^ 6)) % 4
    (s, g / n)
  else
    let l := d.localBytes
    let i := (a - w) / l
    let g := (a - (w + i * l)) / 4096
    (4 * i + (g ^^^ (g / 2 ^ 2) ^^^ (g / 2 ^ 4) ^^^ (g / 2 ^ 6)) % 4, w / (4096 * n) + g / 4)

/-- A stack whose storage can be reached: in service, or lost in service (R289, R428). -/
def mapped (d : Dev) (s : Nat) : Bool := s < d.nStacks && ((d.stack s).st == 0 || (d.stack s).lost)

/-- Where the word at a Square offset lies (R100, R101): quadrant, slice, bank of the slice, row of the bank, word of the
line. -/
structure SqPlace where
  quad : Nat
  slice : Nat
  bank : Nat
  row : Nat
  word : Nat
  deriving DecidableEq, Repr

/-- The quadrant of a Square offset (R101): a quadrant has 2,621,440 lines. -/
def quadOf (o : Nat) : Nat := o / 64 / 2621440

/-- The place of a Square offset (R101). -/
def sqPlace (o : Nat) : SqPlace :=
  let x := o / 64 % 2621440
  let j := x / 8
  { quad := quadOf o, slice := 8 * quadOf o + (x ^^^ (x / 2 ^ 3) ^^^ (x / 2 ^ 6)) % 8, bank := j % 40, row := j / 40, word := o % 64 / 8 }

/-- Scratch bytes of a die (R105). -/
def scratch (d : Dev) (i : Nat) : Nat := (20 - (d.square i).g) * 2 ^ 25

def sqBase (i : Nat) : Nat := 0x200000000000 + i * 0x40000000

/-- The storage key of a device address that memory backs (R284, R69): stacked memory by its stack-view address, Square
scratch and core buffers by their own. -/
def canon (d : Dev) (a : Nat) : Option Nat :=
  if a < 0x100000000000 then
    if d.mcfg.spans && a < d.usable then
      let (s, j) := d.spanMap a
      some (svBase s + j * 4096 + a % 4096)
    else none
  else if a < 0x200000000000 then
    let s := (a - 0x100000000000) / 0x1000000000
    if d.mapped s && (a - svBase s) < d.perStack then some a else none
  else if a < 0x300000000000 then
    let i := (a - 0x200000000000) / 0x40000000
    let o := (a - 0x200000000000) % 0x40000000
    if i < d.nDies && o < d.scratch i && (d.square i).quadOn.getLsbD (quadOf o) then some a else none
  else if a < 0x7F0000000000 then
    let c := (a - 0x300000000000) / 2 ^ 20
    if c < d.nCores && a % 2 ^ 20 < 2 ^ 19 then some a else none
  else none

/-- Whether a key is stacked memory, and its stack. -/
def isStk (k : Nat) : Bool := 0x100000000000 ≤ k && k < 0x200000000000
def stkOf (k : Nat) : Nat := (k - 0x100000000000) / 0x1000000000

/-- Whether [a, a + n) lies wholly in usable stacked memory. -/
def inStacked (d : Dev) (a n : Nat) : Bool :=
  if a < 0x100000000000 then d.mcfg.spans && a + n ≤ d.usable
  else
    let s := stkOf a
    isStk a && d.mapped s && (a - svBase s) + n ≤ d.perStack

end Dev

namespace Mem

/-- The canonical form: addresses strictly rising, no byte equal to what an unlisted one reads as (0).
Log 9 (DESIGN CHOICE). -/
def wf (m : Mem) : Bool :=
  decide (m.cells.Pairwise (fun p q => p.1 < q.1)) && m.cells.all (fun p => p.2 != 0)

/-- A stored byte: free where its contents are undefined, else listed, else 0 (R129, R310).
Log 9 (DESIGN CHOICE), 10 (DESIGN CHOICE). -/
def byte (m : Mem) (k : Nat) : Byte :=
  match m.undef.find? (fun r => r.1 ≤ k && k < r.2.1) with
  | some r => Config.freeByte r.2.2 k
  | none => ((m.cells.find? (fun p => p.1 == k)).map Prod.snd).getD 0

/-- Bytes of a range, in ascending order. -/
def read (m : Mem) (k n : Nat) : List Byte :=
  let m' : Mem := { m with
    cells := m.cells.filter (fun p => k ≤ p.1 && p.1 < k + n), undef := m.undef.filter (fun r => r.1 < k + n && k < r.2.1) }
  (List.range n).map (fun i => m'.byte (k + i))

/-- The undefined ranges without [k, k + n). -/
def defined (k n : Nat) (l : List (Nat × Nat × Nat)) : List (Nat × Nat × Nat) :=
  l.flatMap (fun r =>
    [(r.1, min r.2.1 k, r.2.2), (max r.1 (k + n), r.2.1, r.2.2)].filter (fun x => x.1 < x.2.1))

/-- Non-zero bytes as cells from address k. -/
def cellsFrom : Nat → List Byte → List Host.Cell
  | _, [] => []
  | k, b :: bs => if b == 0 then cellsFrom (k + 1) bs else (k, b) :: cellsFrom (k + 1) bs

/-- The cells with [k, k + bs.length) replaced. -/
def splice (cells : List Host.Cell) (k : Nat) (bs : List Byte) : List Host.Cell :=
  cells.filter (fun p => p.1 < k) ++ cellsFrom k bs ++ cells.filter (fun p => k + bs.length ≤ p.1)

/-- A range written. -/
def write (m : Mem) (k : Nat) (bs : List Byte) : Mem :=
  { m with cells := splice m.cells k bs, undef := defined k bs.length m.undef }

/-- The contents of [k, k + n) become undefined. Log 10 (DESIGN CHOICE). -/
def undefine (m : Mem) (k n tag : Nat) : Mem :=
  { m with
    cells := m.cells.filter (fun p => p.1 < k || k + n ≤ p.1)
    undef := if n == 0 then m.undef else (k, k + n, tag) :: defined k n m.undef }

/-- The contents of [k, k + n) become undefined, under valid check bits (R106). -/
def vacate (m : Mem) (k n tag : Nat) : Mem :=
  { m.undefine k n tag with poison := m.poison.filter (fun l => l * 64 < k || k + n ≤ l * 64) }

/-- Poison and missing checks of a line set or cleared. -/
def setPoison (m : Mem) (l : Nat) (b : Bool) : Mem :=
  { m with poison := if b then m.poison.insert l else m.poison.erase l, noCheck := m.noCheck.erase l }

end Mem

namespace Dev

/-- The set of a block in a cache of G granules (R108). -/
def setOf (g blk : Nat) : Nat := ((blk % 2 ^ 16) ^^^ (blk / 2 ^ 16 % 2 ^ 16) ^^^ (blk / 2 ^ 32 % 16 * 256)) % (g * 512)

/-- The home die of a stacked-memory key (R108). -/
def homeOf (k : Nat) : Nat := stkOf k / 4

/-- The cached block of a device address on a die. -/
def cblock (d : Dev) (die a : Nat) : Option CacheBlock := (d.square die).blocks.find? (fun b => b.blk == a / 4096)

/-- Whether the line of device address a, with storage key k, is valid in its home cache. -/
def cachedLine (d : Dev) (k a : Nat) : Bool :=
  isStk k && match d.cblock (homeOf k) a with
    | some b => b.valid.getLsbD (a / 64 % 64)
    | none => false

/-- A stored line that reads as poisoned: poisoned, without a valid check (R309), or in a lost stack (R428). -/
def storedPoison (d : Dev) (k : Nat) : Bool :=
  d.mem.poison.contains (k / 64) || d.mem.noCheck.contains (k / 64) || (isStk k && (d.stack (stkOf k)).lost)

/-- A line written: no core keeps a copy that it fetched ahead (R125). Log 75 (DESIGN CHOICE). -/
def unstage (k : Nat) (d : Dev) : Dev := { d with staged := d.staged.filter (fun x => x.line != k / 64 * 64) }

/-- Bytes written under a mask of the line at `old`. -/
def merge (mask : BitVec 64) (old new : List Byte) : List Byte :=
  (List.range 64).map (fun i => if mask.getLsbD i then new.getD i 0 else old.getD i 0)

def fullMask : BitVec 64 := BitVec.allOnes 64

/-- The cached bytes of a line. -/
def cacheBytes (sq : Square) (a : Nat) : List Byte :=
  (List.range 64).map (fun i => (aget sq.cdata (a / 64 * 64 + i)).getD 0)

/-- The entry of the write-combining buffer for a line of a die. -/
def wcbEntry (d : Dev) (die a : Nat) : Option WcbEntry := (d.square die).wcb.find? (fun e => e.line == a / 64)

/-- One line as every master but a Kerb engine sees it (R109): the cached copy, else the stored line, with the bytes
that wait in the write-combining buffer; and whether it is poisoned. No counter moves. -/
def lineView (d : Dev) (a : Nat) : List Byte × Bool :=
  match d.canon (a / 64 * 64) with
  | none => (List.replicate 64 0, false)
  | some k =>
    let base : List Byte × Bool :=
      if d.cachedLine k a then
        (cacheBytes (d.square (homeOf k)) a, (d.square (homeOf k)).cpoison.contains (a / 64))
      else (d.mem.read k 64, d.storedPoison k)
    if isStk k then
      match d.wcbEntry (homeOf k) a with
      | some e => (merge e.mask base.1 e.data, base.2 || e.poison)
      | none => base
    else base

/-- A line put into the cache copy of a die. -/
def putCached (die a : Nat) (bs : List Byte) (poison : Bool) (d : Dev) : Dev :=
  d.setSq die (fun q =>
    { q with
      cdata := Mem.splice q.cdata (a / 64 * 64) bs
      cpoison := if poison then q.cpoison.insert (a / 64) else q.cpoison.erase (a / 64) })

/-- A line of the Square or of a core buffer marked poisoned: the cached copy of a stacked address, else the stored line. -/
def poisonPlace (k a : Nat) (d : Dev) : Dev :=
  if isStk k then d.setSq (homeOf k) (fun q => { q with cpoison := q.cpoison.insert (a / 64) })
  else { d with mem := d.mem.setPoison (k / 64) true }

/-- Latent upsets of words of a line taken away. -/
def clearUpsets (a : Nat) (ws : List Nat) (d : Dev) : Dev :=
  { d with upsets := ws.foldl (fun m w => adel m (a / 64 * 8 + w)) d.upsets }

/-- The Square die that a word belongs to; none for a core buffer. -/
def squareOf (k : Nat) : Option Nat :=
  if isStk k then some (homeOf k) else if k < 0x300000000000 then some ((k - 0x200000000000) / 0x40000000) else none

def countSq (group k n : Nat) (d : Dev) : Dev :=
  match squareOf k with
  | some die => if n == 0 then d else d.cnt group die n
  | none => d

/-- Words `ws` of a line as they are read in the Square, as scratch or as a cached line, or in a core buffer (R127): a single
wrong bit is corrected, a worse error poisons the line; each counts once. A poisoned line counts nothing.
Log 87 (DEDUCED). -/
def meetWords (a : Nat) (ws : List Nat) (d : Dev) : Dev :=
  if d.upsets.isEmpty then d
  else match d.canon (a / 64 * 64) with
    | none => d
    | some k =>
      if isStk k && !d.cachedLine k a then d
      else
        let hit := ws.filterMap (fun w => aget d.upsets (a / 64 * 8 + w))
        if (if isStk k then (d.square (homeOf k)).cpoison.contains (a / 64) else d.storedPoison k) then d.clearUpsets a (List.range 8)
        else
          let d := d.countSq 0x20 k (hit.filter (fun n => n ≤ 1)).length
          if hit.any (fun n => 1 < n) then ((d.countSq 0x21 k 1).poisonPlace k a).clearUpsets a (List.range 8)
          else d.clearUpsets a ws

/-- A whole line read in the Square or in a core buffer. -/
def meetLine (a : Nat) (d : Dev) : Dev := d.meetWords a (List.range 8)

/-- Bytes of a word that a mask covers. -/
def wordMask (mask : BitVec 64) (w : Nat) : Nat := bits mask.toNat (8 * w + 7) (8 * w)

/-- A masked write of a line in the Square or in a core buffer (R116, R127): the words it covers in part are read, those it
covers whole are new. -/
def meetWrite (a : Nat) (mask : BitVec 64) (d : Dev) : Dev :=
  if d.upsets.isEmpty then d
  else
    (d.meetWords a ((List.range 8).filter (fun w => wordMask mask w != 0 && wordMask mask w != 0xFF))).clearUpsets a
      ((List.range 8).filter (fun w => wordMask mask w == 0xFF))

/-- The use order of a hit (R108, R110). -/
def touch (die a : Nat) (keep : Bool) (d : Dev) : Dev :=
  if keep then d
  else match d.cblock die a with
    | some b => d.setSq die (fun q => { q with blocks := b :: q.blocks.filter (fun x => x.blk != b.blk) })
    | none => d

end Dev

/-- The mask of n bytes from offset o of a line. -/
def spanMask (o n : Nat) : BitVec 64 := BitVec.ofNat 64 ((2 ^ n - 1) * 2 ^ o)

/-- A request at a stack: its fields, the bytes of a write, and whether it writes. -/
abbrev Req := MemReq × List Byte × Bool

def reqPage (x : Req) : Nat := x.1.addr / 1024
def reqLines (rq : MemReq) : List Nat := List.range' (rq.addr % 1024 / 64) rq.lines

namespace Dev

/-- Two requests that name a line in common are served in the order they came (R303). -/
def sameLine (x y : Req) : Bool := reqPage x == reqPage y && (reqLines x.1).any (fun i => (reqLines y.1).contains i)

def stackOfPage (pg : Nat) : Nat := stkOf (1024 * pg)

end Dev

end Sys2Proof.Machine
end

