-- ==== Sys2Proof/Machine/Code.lean ====
section
/-! DEFINITION. Stacked memory as its stacks store it: the line check (R291), the page code (R292) and its decoder, the
outcome of a read (R295), the transfers of a page (R293), and what they leave to be counted, logged and reported (R296 to
R299). No event is raised here. -/

namespace Sys2Proof.Machine

/-- CRC-16 of R291. -/
def crc16Byte (c : BitVec 16) (b : Byte) : BitVec 16 :=
  (List.range 8).foldl (fun c _ => if c.getLsbD 15 then (c <<< 1) ^^^ 0x1021#16 else c <<< 1)
    (c ^^^ ((b.zeroExtend 16 : BitVec 16) <<< 8))
def crc16 (init : BitVec 16) (bs : List Byte) : BitVec 16 := bs.foldl crc16Byte init

/-- The line check of 64 bytes at a stack-view address (R291). -/
def lineCheck (k : Nat) (bs : List Byte) : BitVec 16 := crc16 0xFFFF#16 (bs ++ leBytes 6 (k / 64))

/-- Product in GF(2¹⁰) with x¹⁰ + x³ + 1 (R292). -/
def gfMul (a b : Nat) : Nat :=
  (List.range 10).foldl (fun acc i =>
    let acc := 2 * acc
    let acc := if 1024 ≤ acc then (acc ^^^ 0x409) else acc
    if bit b (9 - i) then acc ^^^ a else acc) 0

/-- Powers by squaring over `fuel` bits. -/
def gfPowAux : Nat → Nat → Nat → Nat → Nat
  | 0, _, _, acc => acc
  | f + 1, b, n, acc => gfPowAux f (gfMul b b) (n / 2) (if n % 2 == 1 then gfMul acc b else acc)
def gfPow (b n : Nat) : Nat := gfPowAux 20 b n 1
def gfInv (a : Nat) : Nat := gfPow a 1022
def alpha (n : Nat) : Nat := gfPow 2 (n % 1023)

/-- Polynomials over the field, lowest degree first. -/
def polyEval (p : List Nat) (x : Nat) : Nat := p.foldr (fun c acc => gfMul acc x ^^^ c) 0
def polyAdd : List Nat → List Nat → List Nat
  | [], q => q
  | p, [] => p
  | a :: p, b :: q => (a ^^^ b) :: polyAdd p q
def polyScale (c : Nat) (p : List Nat) : List Nat := p.map (gfMul c)
def polyMul : List Nat → List Nat → List Nat
  | [], _ => []
  | a :: p, q => polyAdd (polyScale a q) (0 :: polyMul p q)
def polyDeg (p : List Nat) : Nat := p.length - 1 - (p.reverse.takeWhile (fun c => c == 0)).length

/-- g(x) of R292 for 2t roots. -/
def rsGen (tt : Nat) : List Nat := (List.range tt).foldl (fun g i => polyMul g [alpha i, 1]) [1]

/-- Parity symbols of a message, highest degree first (R292). -/
def rsParity (tt : Nat) (msg : List Nat) : List Nat :=
  let g := ((rsGen tt).take tt).reverse
  msg.foldl (fun r m =>
    let f := r.headD 0 ^^^ m
    (List.range tt).map (fun i => (r.getD (i + 1) 0) ^^^ gfMul f (g.getD i 0))) (List.replicate tt 0)

/-- Symbol s of a slot mask (R292). -/
def symOf (mask s : Nat) : Nat := bits mask (10 * s + 9) (10 * s)

/-- Syndromes of an error given as (symbol, value), over a code of n symbols. -/
def syndromes (tt n : Nat) (e : List (Nat × Nat)) : List Nat :=
  (List.range tt).map (fun i => e.foldl (fun a p => a ^^^ gfMul p.2 (alpha (i * (n - 1 - p.1)))) 0)

/-- One round of Berlekamp–Massey: locator, previous locator, its discrepancy, length, shift. -/
def bmStep (syn : List Nat) (st : List Nat × List Nat × Nat × Nat × Nat) (r : Nat) :
    List Nat × List Nat × Nat × Nat × Nat :=
  let (c, b, bd, l, m) := st
  let dl := (List.range (l + 1)).foldl (fun a i => a ^^^ gfMul (nth c i) (nth syn (r - i))) 0
  if dl == 0 then (c, b, bd, l, m + 1)
  else
    let c' := polyAdd c (List.replicate m 0 ++ polyScale (gfMul dl (gfInv bd)) b)
    if 2 * l ≤ r then (c', c, dl, r + 1 - l, 1) else (c', b, bd, l, m + 1)

/-- The decoder (R292, R295): the error of at most t symbols that has these syndromes, none where there is none. -/
def rsDecode (t n : Nat) (syn : List Nat) : Option (List (Nat × Nat)) :=
  if syn.all (fun s => s == 0) then some []
  else
    let (c, _, _, l, _) := (List.range (2 * t)).foldl (bmStep syn) ([1], [1], 1, 0, 1)
    if t < l || polyDeg c != l then none
    else
      let pos := (List.range n).filter (fun s => polyEval c (gfInv (alpha (n - 1 - s))) == 0)
      if pos.length != l then none
      else
        let omega := (polyMul syn c).take (2 * t)
        let e := pos.map (fun s =>
          let x := alpha (n - 1 - s)
          let xi := gfInv x
          let dv := (List.range c.length).foldl (fun a i =>
            if i % 2 == 1 then a ^^^ gfMul (nth c i) (gfPow xi (i - 1)) else a) 0
          (s, gfMul x (gfMul (polyEval omega xi) (gfInv dv))))
        if syndromes (2 * t) n e == syn then some e else none

/-- The data and check bits of line i in a slot mask. -/
def lineBits (i : Nat) : Nat := (2 ^ 512 - 1) * 2 ^ (512 * i) + (2 ^ 16 - 1) * 2 ^ (8192 + 16 * i)

/-- The exclusive-or of the line's check with the CRC of its bytes that a slot mask causes. -/
def lineSyn (mask i : Nat) : BitVec 16 :=
  if mask &&& lineBits i == 0 then 0
  else crc16 0#16 (leBytes 64 (bits mask (512 * i + 511) (512 * i)) ++ leBytes 6 0) ^^^
    BitVec.ofNat 16 (bits mask (8192 + 16 * i + 15) (8192 + 16 * i))

/-- What a line turns out to be (R295). -/
inductive LineOut where
  | clean
  | corrected
  | poison
  | uncorr
  deriving DecidableEq, Repr

namespace Dev

/-- Damage of the page of a key. -/
def damageOf (d : Dev) (pg : Nat) : Nat := (aget d.mem.damage pg).getD 0

def setDamage (pg m : Nat) (d : Dev) : Dev :=
  { d with mem := { d.mem with damage := if m == 0 then adel d.mem.damage pg else aset d.mem.damage pg m } }

/-- The damaged symbols of a mask, as (symbol, value). -/
def damagedSyms (d : Dev) (mask : Nat) : List (Nat × Nat) :=
  ((List.range (845 + 2 * d.codeT)).map (fun s => (s, symOf mask s))).filter (fun p => p.2 != 0)

/-- Decoding a page (R295): the mask that remains and the symbols corrected; none when the decode fails.
Log 100 (DEDUCED). -/
def decodePage (d : Dev) (pg : Nat) : Option (Nat × Nat) :=
  let mask := d.damageOf pg
  if d.codeT == 0 || d.mem.noParity.contains pg then none
  else
    let n := 845 + 2 * d.codeT
    match rsDecode d.codeT n (syndromes (2 * d.codeT) n (d.damagedSyms mask)) with
    | none => none
    | some e => some (e.foldl (fun m p => m ^^^ (p.2 * 2 ^ (10 * p.1))) mask, e.length)

/-- The difference of a stored check from the CRC, under a mask: 0 clean, 0xFFFF the poison pattern (R298). None: the
line has no valid check (R309). -/
def checkDiff (d : Dev) (pg mask i : Nat) : Option (BitVec 16) :=
  if d.mem.noCheck.contains (16 * pg + i) then none
  else some (lineSyn mask i ^^^ (if d.mem.poison.contains (16 * pg + i) then 0xFFFF#16 else 0#16))

/-- Stored bytes of line i of a page, with the damage of a mask. -/
def lineBytes (d : Dev) (pg mask i : Nat) : List Byte :=
  let bs := d.mem.read (1024 * pg + 64 * i) 64
  if mask &&& lineBits i == 0 then bs
  else bs.zipWith (fun a b => a ^^^ b) (leBytes 64 (bits mask (512 * i + 511) (512 * i)))

/-- Pseudo-channel, slot and raw byte offset of a stacked-memory key (R288). -/
def rawOf (d : Dev) (k : Nat) : Nat × Nat :=
  let o := k - svBase (stkOf k)
  let j := o / 4096
  let grp := (j ^^^ (j / 16) ^^^ (j / 256)) % 16
  (4 * grp + o % 4096 / 1024, j / 16 * d.slotSize + o % 1024)

/-- An entry of the correction log (R299, R471), `k` the first byte of the line that failed first. -/
def logCorr (k kind syms : Nat) (d : Dev) : Dev :=
  let s := stkOf k
  let b := (d.rawOf k).2
  let e : LogEntry := { page := k / 1024 * 1024, kind := kind, syms := syms, row := b / 65536, bank := b / 1024 % 64, tick := d.tu.tick }
  let full := 512 ≤ (d.stack s).log.length
  let d := if full then d.cnt 0x16 s 1 else d
  d.setStack s (fun x => { x with log := (if full then x.log.drop 1 else x.log) ++ [e] })

/-- The outcomes of the lines of a page that a read asks for (R295): index, outcome, bytes delivered, poison; the
symbols corrected (0xFF when the decode failed). -/
def pageOutcome (d : Dev) (pg : Nat) (ls : List Nat) : List (Nat × LineOut × List Byte × Bool) × Nat :=
  let mask := d.damageOf pg
  let bad (m i : Nat) : Bool := d.checkDiff pg m i != some 0
  if !ls.any (bad mask) then (ls.map (fun i => (i, LineOut.clean, d.lineBytes pg mask i, false)), 0)
  else
    let dec := d.decodePage pg
    (ls.map (fun i =>
      if !bad mask i then (i, LineOut.clean, d.lineBytes pg mask i, false)
      else match dec with
        | some (m, _) =>
          if d.checkDiff pg m i == some 0 then (i, LineOut.corrected, d.lineBytes pg m i, false)
          else if d.checkDiff pg m i == some 0xFFFF#16 then (i, LineOut.poison, d.lineBytes pg m i, true)
          else (i, LineOut.uncorr, d.lineBytes pg mask i, true)
        | none =>
          if d.codeT == 0 && d.checkDiff pg mask i == some 0xFFFF#16 then (i, LineOut.poison, d.lineBytes pg mask i, true)
          else (i, LineOut.uncorr, d.lineBytes pg mask i, true)),
     match dec with
     | some (_, n) => n
     | none => if d.codeT == 0 then 0 else 0xFF)

/-- What an access to a page leaves to be counted, logged and reported (R296 to R298): the first line concerned, and the
symbols of the log entry. -/
inductive Note where
  | corr (k syms : Nat)
  | uncorr (k syms : Nat)
  | poison (k syms : Nat)
  deriving DecidableEq, Repr

/-- The notes of the outcomes of one page: one of each kind, for the line that failed first. An uncorrectable outcome at S0,
where nothing is decoded, has the code of a failed decode (R299). Log 97 (DESIGN CHOICE). -/
def outcomeNotes (d : Dev) (pg : Nat) (o : List (Nat × LineOut × List Byte × Bool) × Nat) : List Note :=
  let first (x : LineOut) : Option Nat := (o.1.find? (fun p => p.2.1 == x)).map (fun p => 1024 * pg + 64 * p.1)
  ((first .corrected).map (fun k => Note.corr k o.2)).toList ++ ((first .uncorr).map (fun k => Note.uncorr k (if d.codeT == 0 then 0xFF else o.2))).toList
    ++ ((first .poison).map (fun k => Note.poison k o.2)).toList

/-- The count and the log entry of a note (R296 to R299), and, for an uncorrectable outcome, that its page is known for the
tick (R297). Log 97 (DESIGN CHOICE). -/
def noted (n : Note) (d : Dev) : Dev :=
  match n with
  | .corr k syms => ((d.cnt 0x13 (stkOf k) 1).logCorr k 0 syms).setStack (stkOf k) (fun x => { x with corrTick := x.corrTick + 1 })
  | .uncorr k syms => ((d.cnt 0x14 (stkOf k) 1).logCorr k 1 syms).setStack (stkOf k)
      (fun x => { x with uncorrPages := x.uncorrPages.insert (k / 1024) })
  | .poison k syms => (d.cnt 0x15 (stkOf k) 1).logCorr k 2 syms

/-- The stack and the page whose `EV_MEM_UNCORR` a note raises: once per page per tick (R297). -/
def uncorrDue (n : Note) (d : Dev) : Option (Nat × Nat) :=
  match n with
  | .uncorr k _ => if (d.stack (stkOf k)).uncorrPages.contains (k / 1024) then none else some (stkOf k, k / 1024 * 1024)
  | _ => none

/-- Bursts taken under the `LAT` cap of a pseudo-channel (R301): at most 125 in the microsecond. -/
def noteLat (k cls n : Nat) (d : Dev) : Dev :=
  if cls == 1 then
    let pch := (d.rawOf k).1
    d.setStack (stkOf k) (fun x => { x with latUsed := amod x.latUsed pch 0 (fun u => Nat.min 125 (u + n)) })
  else d

/-- Bytes moved at a stack (R313): class 1 is `LAT`. Log 99 (DESIGN CHOICE). -/
def countRd (s cls n : Nat) (d : Dev) : Dev :=
  let d := d.cnt 0x10 s n
  if cls == 1 then d.cnt 0x12 s n else d
def countWr (s cls n : Nat) (d : Dev) : Dev :=
  let d := d.cnt 0x11 s n
  if cls == 1 then d.cnt 0x12 s n else d

/-- Lines of one code page read in one request group (R293, R295, R428): bytes and poison of each, and what is to be
noted. -/
def readPage (cls pg : Nat) (ls : List Nat) (d : Dev) : (List (List Byte × Bool) × List Note) × Dev :=
  let s := stkOf (1024 * pg)
  if (d.stack s).lost then ((ls.map (fun i => (d.mem.read (1024 * pg + 64 * i) 64, true)), []), d)
  else
    let o := d.pageOutcome pg ls
    ((o.1.map (fun p => p.2.2), d.outcomeNotes pg o), (d.countRd s cls (64 * ls.length)).noteLat (1024 * pg) cls ls.length)

/-- A whole line stored with its check, clean or in the poison pattern (R298). -/
def storeLine (k : Nat) (bs : List Byte) (poison : Bool) (d : Dev) : Dev :=
  ({ d with mem := (d.mem.write k bs).setPoison (k / 64) poison }).unstage k

def storeLines (pg : Nat) (ws : List (Nat × List Byte × Bool)) (d : Dev) : Dev :=
  ws.foldl (fun d w => d.storeLine (1024 * pg + 64 * w.1) w.2.1 w.2.2) d

/-- The damage a page keeps when some of its lines are written and the parity follows by the difference (R293). -/
def plainDamage (d : Dev) (pg : Nat) (ws : List (Nat × List Byte × Bool)) : Nat :=
  let mask := d.damageOf pg
  let gone := ws.foldl (fun a w => a ||| (mask &&& lineBits w.1)) 0
  let par := if gone == 0 || d.codeT == 0 then [] else rsParity (2 * d.codeT) ((List.range 845).map (symOf gone))
  (mask ^^^ gone) ^^^ (par.zipIdx).foldl (fun a p => a + p.1 * 2 ^ (10 * (845 + p.2))) 0

/-- Whole lines of one code page written in one request group (R293, R298, R428), and what is to be noted. -/
def writePage (cls pg : Nat) (ws : List (Nat × List Byte × Bool)) (d : Dev) : List Note × Dev :=
  let s := stkOf (1024 * pg)
  if (d.stack s).lost then ([], d)
  else
    let d := (d.countWr s cls (64 * ws.length)).noteLat (1024 * pg) cls ws.length
    if 16 ≤ ws.length then
      let d := d.storeLines pg ws
      ([], ({ d with mem := { d.mem with noParity := d.mem.noParity.erase pg } }).setDamage pg 0)
    else
      let mask := d.damageOf pg
      let plain := (d.storeLines pg ws).setDamage pg (d.plainDamage pg ws)
      match ws.filter (fun w => d.checkDiff pg mask w.1 != some 0) with
      | [] => ([], plain)
      | w0 :: bad =>
        let k0 := 1024 * pg + 64 * w0.1
        match d.decodePage pg with
        | some (m, n) => (if n == 0 then [] else [.corr k0 n],
            (d.storeLines pg ws).setDamage pg (ws.foldl (fun a w => a ^^^ (a &&& lineBits w.1)) m))
        | none =>
          (if d.codeT == 0 && (w0 :: bad).all (fun w => d.checkDiff pg mask w.1 == some 0xFFFF#16) then [] else [.uncorr k0 0xFF], plain)

end Dev

end Sys2Proof.Machine
end

