-- ==== Sys2Proof/Machine/Ops.lean ====
section
/-! DEFINITION. The shared operations: bytes poked by units that move no counter, trace records (R443 to R445), events
(R322, R423), OFT packets sent (R353 to R361), responses of the mailboxes (R315 to R320), signals (R91), context faults
(R339, R421), broken certificate conditions (R45). -/

namespace Sys2Proof

/-- CRC-32C of a byte string (R355), reflected. -/
def crc32cByte (c : BitVec 32) (b : Byte) : BitVec 32 :=
  (List.range 8).foldl (fun c _ => if c.getLsbD 0 then (c >>> 1) ^^^ 0x82F63B78#32 else c >>> 1) (c ^^^ b.zeroExtend 32)

def crc32c (bs : List Byte) : BitVec 32 := ~~~(bs.foldl crc32cByte 0xFFFFFFFF#32)

/-- The 48 header octets of a packet, in network order (R354). -/
def Packet.header (p : Packet) : List Byte :=
  [p.ver, p.otype, p.oflags, p.opath] ++ beBytes 2 p.srcId.toNat ++ beBytes 2 p.dstId.toNat ++ beBytes 4 p.psn.toNat
    ++ beBytes 4 p.apsn.toNat ++ beBytes 2 p.obj.toNat ++ beBytes 2 p.olen.toNat ++ beBytes 4 p.ocnt.toNat
    ++ beBytes 8 p.ooff.toNat ++ beBytes 16 p.poison.toNat

/-- The packet with its trailer computed (R355). -/
def Packet.seal (p : Packet) : Packet := { p with crc := crc32c (p.header ++ p.payload) }

/-- A packet with only its type and payload set. -/
def Packet.mk0 (otype : Nat) (payload : List Byte) : Packet :=
  { ver := 1, otype := BitVec.ofNat 8 otype, oflags := 0, opath := 0, srcId := 0, dstId := 0, psn := 0, apsn := 0, obj := 0,
    olen := BitVec.ofNat 16 payload.length, ocnt := 0, ooff := 0, poison := 0, payload := payload, crc := 0 }

end Sys2Proof

namespace Sys2Proof.Machine

/-- `FCLASS` (R337). -/
def FClass.code : FClass → Nat
  | .address => 1
  | .shape => 2
  | .overflow => 3
  | .poison => 4
  | .illegal => 5
  | .kerb => 6

namespace Dev

/-- Bytes cut at line boundaries: address and piece. -/
def pieces : Nat → Nat → List Byte → List (Nat × List Byte)
  | 0, _, _ => []
  | fuel + 1, a, bs =>
    if bs.isEmpty then []
    else
      let n := 64 - a % 64
      (a, bs.take n) :: pieces fuel (a + n) (bs.drop n)

/-- Bytes of a range as `lineView` shows them, and the first poisoned line touched. -/
def peek (d : Dev) (a n : Nat) : List Byte × Option Nat :=
  let l0 := a / 64
  let lines := (List.range ((a + n + 63) / 64 - l0)).map (fun i => (l0 + i, d.lineView ((l0 + i) * 64)))
  let bs := lines.flatMap (fun p => p.2.1)
  (((bs.drop (a % 64)).take n), (lines.find? (fun p => p.2.2)).map (fun p => p.1 * 64))

/-- Profiling (R441). -/
def profiling (d : Dev) : Bool := d.trace.cfg.tclass != 0 || d.trace.cfg.cores

/-- The ring header of R443. -/
def traceHeader (t : Trace) : List Byte :=
  leBytes 8 t.wpos ++ leBytes 8 t.rpos ++ leBytes 8 t.lostTotal ++ leBytes 1 t.dstate ++ leBytes 1 t.dreason ++ leBytes 38 0

def setTrace (t : Trace) (d : Dev) : Dev := { d with trace := t }

/-- The message header of R315. -/
def msgHeader (kind mbox msg seq len status rflags tag evseq lost tick detail : Nat) : List Byte :=
  leBytes 2 1 ++ leBytes 1 kind ++ leBytes 1 mbox ++ leBytes 2 msg ++ leBytes 2 seq ++ leBytes 2 len ++ leBytes 2 status
    ++ leBytes 2 rflags ++ leBytes 2 0 ++ leBytes 8 tag ++ leBytes 4 evseq ++ leBytes 4 lost ++ leBytes 4 tick
    ++ leBytes 4 detail ++ leBytes 24 0

/-- The sequence spaces with a peer, in their starting state where none has been used (R361). -/
def space (d : Dev) (peer : Nat) : Space :=
  (d.net.spaces.find? (fun s => s.peer == peer)).getD { peer := peer }

def setSpace (s : Space) (d : Dev) : Dev :=
  { d with net := { d.net with
      spaces := if d.net.spaces.any (fun x => x.peer == s.peer) then
          d.net.spaces.map (fun x => if x.peer == s.peer then s else x)
        else d.net.spaces ++ [s] } }

def peerEntry (d : Dev) (peer : Nat) : Option Peer := d.net.peers.find? (fun p => p.id == peer)

/-- Whether a path's port transmits what is new (R431). -/
def portOpen (d : Dev) (path : Nat) : Bool := (d.net.ports.getD (path / 4) {}).svc == .inService

/-- Live paths to a peer (R359): 2 × link + address for each link up and each address, dead ones and those of a draining
port (R431) left out. A peer without an entry is answered on the link it came by (R348), or, while its port takes nothing new,
on a link of the other. Log 122 (DEDUCED). -/
def livePaths (d : Dev) (peer : Nat) : List Nat :=
  let s := d.space peer
  match d.peerEntry peer with
  | none => ((s.link :: List.range 4).filter (fun l => (d.net.links.getD l {}).up && d.portOpen (2 * l)
      && (l == s.link || !d.portOpen (2 * s.link)))).head?.toList.map (fun l => 2 * l)
  | some p =>
    (List.range 8).filter (fun x =>
      (d.net.links.getD (x / 2) {}).up && (x % 2 == 0 || p.bValid) && !s.dead.contains x && d.portOpen x)

/-- The priority of a packet (R345): data, or mailbox, acknowledgement and control. -/
def prioOf (d : Dev) (p : Packet) : Nat :=
  if p.otype ∈ [2, 4, 7] then d.net.fab.pcpData else d.net.fab.pcpCtrl

/-- Its DSCP (R345). -/
def dscpOf (d : Dev) (p : Packet) : Nat :=
  if p.otype ∈ [2, 4, 7] then d.net.fab.dscpData else d.net.fab.dscpCtrl

/-- What MACsec adds to a packet on a link: the channel identifier and the newest key (R351). Log 111 (DEDUCED). -/
def secTag (d : Dev) (link : Nat) : Option (Nat × Nat) :=
  if d.net.fab.macsecReq then (d.net.fab.keys.head?).map (fun k => (4 * d.net.fab.id.toNat + link, k.1)) else none

/-- A sealed packet put on a path's link, with the peer's address and next hop (R350, R354), over the IP version in force
(R353). Log 122 (DEDUCED). -/
def emit (peer path : Nat) (p : Packet) (d : Dev) : Dev :=
  let s := d.space peer
  let link := path / 2
  let p := ({ p with opath := BitVec.ofNat 8 link, srcId := d.net.fab.id, dstId := BitVec.ofNat 16 peer }).seal
  let w : WirePkt := match d.peerEntry peer with
    | some e => { link := link, v6 := d.net.fab.v6, addr := if path % 2 == 0 then e.addrA else e.addrB,
                  mac := if link < 2 then e.mac0 else e.mac1, pkt := p }
    | none => { link := s.link, v6 := s.v6, addr := s.addr, mac := s.mac, pkt := p }
  let w := { w with pcp := d.prioOf p, vlan := d.net.fab.vlan, dscp := d.dscpOf p, port := d.net.fab.port, df := !w.v6, macsec := d.secTag w.link }
  let d := d.cnt 0x30 (link / 2) 1
  { d with net := { d.net with wire := w :: d.net.wire } }

/-- Whether PFC holds a packet back on a path's port (R360). -/
def pausedOn (d : Dev) (path : Nat) (p : Packet) : Bool :=
  (d.net.ports.getD (path / 4) {}).paused.getLsbD (d.prioOf p)

/-- The first `ACK` or `NAK` that waits goes, on the first live path that is not paused (R356, R360). Log 117 (DEDUCED). -/
def pumpCtl1 (peer : Nat) (d : Dev) : Dev :=
  match (d.space peer).ctl with
  | [] => d
  | p :: rest =>
    match (d.livePaths peer).find? (fun x => !d.pausedOn x p) with
    | none => d
    | some x => (d.setSpace { d.space peer with ctl := rest }).emit peer x p

def pumpCtl (peer : Nat) (d : Dev) : Dev := (d.space peer).ctl.foldl (fun d _ => d.pumpCtl1 peer) d

/-- An `ACK` or `NAK`: no sequence number of its own (R356). It waits while no path takes it. Log 117 (DEDUCED). -/
def sendCtl (peer : Nat) (p : Packet) (d : Dev) : Dev :=
  (d.setSpace { d.space peer with ctl := (d.space peer).ctl ++ [p] }).pumpCtl peer

/-- A waiting packet as it is first sent: with the next sequence number, and `SYNC` on the first of the space (R356,
R361). -/
def launched (s : Space) (t : TxPkt) : Packet :=
  { t.pkt with psn := if s.sync then 0#32 else s.txPsn, oflags := if s.sync then t.pkt.oflags ||| 1 else t.pkt.oflags }

/-- The space after the first of its waiting packets was sent on a path. -/
def afterLaunch (s : Space) (t : TxPkt) (rest : List TxPkt) (path now : Nat) : Space :=
  { s with waiting := rest, sync := false, txPsn := (launched s t).psn + 1
           unacked := s.unacked ++ [{ t with pkt := launched s t, path := path, sentNs := now, tries := 1, timeout := 64000 }]
           lastAckNs := if (aget s.lastAckNs path).isSome then s.lastAckNs else aset s.lastAckNs path now }

/-- The waiting packet that may go now, and its path: while fewer than 256 are unacknowledged, a path is live and its port
is not paused (R357, R359 to R361). Log 117 (DEDUCED). -/
def nextOut (d : Dev) (peer : Nat) : Option (TxPkt × Nat) :=
  let s := d.space peer
  match s.waiting with
  | [] => none
  | t :: _ =>
    let live := d.livePaths peer
    let p := launched s t
    let path := live.getD (p.psn.toNat % live.length) 0
    if live.isEmpty || 256 ≤ s.unacked.length || d.pausedOn path p then none else some (t, path)

/-- The first waiting packet, as `t` gives it, sent on a path with the next sequence number. -/
def launch (peer path : Nat) (t : TxPkt) (d : Dev) : Dev :=
  (d.setSpace (afterLaunch (d.space peer) t ((d.space peer).waiting.drop 1) path d.now)).emit peer path (launched (d.space peer) t)

/-- One waiting packet that carries its own bytes sent; one whose data is read when it is sent waits for `pumpAll` (R363). -/
def pump1 (peer : Nat) (d : Dev) : Dev :=
  match d.nextOut peer with
  | some (t, path) => if t.src.isNone then d.launch peer path t else d
  | none => d

def pump (peer : Nat) (d : Dev) : Dev := (d.space peer).waiting.foldl (fun d _ => d.pump1 peer) d

/-- A packet with its own bytes handed to the transport for a peer (R356, R357). Log 117 (DEDUCED). -/
def sendPkt (peer : Nat) (p : Packet) (owner : Nat) (src : Option Nat) (d : Dev) : Dev :=
  let s := d.space peer
  (d.setSpace { s with waiting := s.waiting ++ [{ pkt := p, owner := owner, src := src }] }).pump peer

/-- A mailbox message travels as one `MBOX` packet (R354). -/
def sendMsg (peer : Nat) (bs : List Byte) (d : Dev) : Dev := d.sendPkt peer (Packet.mk0 1 bs) 0 none

/-- Octets of an event (R315, R423). -/
def eventBytes (mb : Nat) (e : EvRec) : List Byte :=
  msgHeader 2 mb e.code 0 32 0 0 0 e.seq.toNat e.lost e.tick.toNat 0
    ++ leBytes 1 e.ctx ++ leBytes 1 e.kind ++ leBytes 2 e.unit ++ leBytes 2 e.reason ++ leBytes 2 e.aux ++ leBytes 8 e.arg0
    ++ leBytes 8 e.arg1 ++ leBytes 8 0

/-- An event as a mailbox numbers it (R322). -/
def stamped (d : Dev) (mb : Nat) (e : EvRec) : EvRec :=
  { e with seq := (d.mbox mb).evSeq + 1, lost := (d.mbox mb).lost, tick := d.tu.tick }

/-- A mailbox with one event more. Log 40 (DEDUCED). -/
def boxKeep (e : EvRec) (m : Mbox) : Mbox := { m with events := m.events ++ [e], evSeq := m.evSeq + 1, lost := 0 }

/-- An event kept by one mailbox, or dropped and counted where 64 wait (R322). Log 40 (DEDUCED). -/
def keepEvent (mb : Nat) (e : EvRec) (d : Dev) : Dev :=
  if mb != 0 && (d.ctx mb).st == .unclaimed then d
  else if 64 ≤ (d.mbox mb).events.length then d.setMbox mb (fun m => { m with lost := m.lost + 1 })
  else
    let t := d.setMbox mb (boxKeep (d.stamped mb e))
    match (d.mbox mb).sub with
    | some p => t.sendMsg p (eventBytes mb (d.stamped mb e))
    | none => t

/-- An event put before mailbox 0 and the mailboxes named (R322). -/
def announce (mbs : List Nat) (e : EvRec) (d : Dev) : Dev :=
  (mbs.filter (fun m => m != 0)).foldl (fun d m => d.keepEvent m e) (d.keepEvent 0 e)

/-- `EV_MEM_UNCORR` of a page (R297, R423). -/
def uncorrEvent (s page : Nat) : EvRec := { code := 0x800B, kind := 5, unit := s, arg0 := page }

/-- A write put behind what its page holds back (R294, R300, R303): the lock of the page, an earlier request for its line, or a
calibration step of the stack; none where it may be served now. -/
def behind (x : Req) (k : Stack) : Option Stack :=
  if k.locks.any (fun l => l.page == reqPage x) then
    some { k with locks := k.locks.map (fun l => if l.page == reqPage x then { l with waiting := l.waiting ++ [x] } else l) }
  else if k.ioWait.any (sameLine x) then some { k with ioWait := k.ioWait ++ [x] }
  else if k.cal.isSome || k.ready.any (sameLine x) then some { k with ready := k.ready ++ [x] }
  else none

/-- A line of the trace ring, or a part of one, sent to its stack (R293, R294, R303, R442); what is not written is read first. -/
def ringDown (k : Nat) (mask : BitVec 64) (new : List Byte) (d : Dev) : List Note × Dev :=
  let rq : MemReq := { addr := k, lines := 1, cls := 0, io := false, kerb := false, core := false, chint := 1, mask := mask,
                       poison := false, damage := [] }
  match behind (rq, new, true) (d.stack (stkOf k)) with
  | some s => ([], d.setStack (stkOf k) (fun _ => s))
  | none =>
    if mask == fullMask then d.writePage 0 (k / 1024) [(k % 1024 / 64, new, false)]
    else
      let (r, d) := d.readPage 0 (k / 1024) [k % 1024 / 64]
      let old := r.1.headD ([], false)
      let (ns, d) := d.writePage 0 (k / 1024) [(k % 1024 / 64, merge mask old.1 new, old.2)]
      (r.2 ++ ns, d)

/-- A line of the trace ring, or a part of one, written to the cached copy of its home Square, which moves to the
most-recently-used place (R108, R109, R116, R127, R128). -/
def ringHit (k a : Nat) (mask : BitVec 64) (new : List Byte) (d : Dev) : Dev :=
  let die := homeOf k
  let d := d.meetWrite a mask
  let q := d.square die
  (((d.putCached die a (merge mask (cacheBytes q a) new) (mask != fullMask && q.cpoison.contains (a / 64))).setSq die
    (fun q => { q with blocks := q.blocks.map (fun b => if b.blk == a / 4096 then { b with dirty := true } else b) })).touch die a false)

/-- The entries of a write-combining buffer with bytes of the trace ring added to the one for their line. -/
def ringEntry (a : Nat) (mask : BitVec 64) (new : List Byte) (now : Nat) (l : List WcbEntry) : List WcbEntry :=
  l.map (fun e => if e.line == a / 64 then
    { e with mask := e.mask ||| mask, data := merge mask e.data new, stream := true, users := e.users.insert 0, sinceNs := now } else e)

/-- Bytes of the trace ring within one line, as the trace unit writes them, in `BULK` and without allocation (R109, R116,
R442): to the write-combining entry of the line, which goes down when it is full, to the cached copy, or, a whole line, to
memory; another partial line opens an entry, and goes to memory where all 512 are in use. Log 150 (DESIGN CHOICE). -/
def ringLine (a : Nat) (bs : List Byte) (d : Dev) : List Note × Dev :=
  match d.canon a with
  | none => ([], d)
  | some k =>
    let die := homeOf k
    let mask := spanMask (a % 64) bs.length
    let new := List.replicate (a % 64) 0 ++ bs
    let put (mask : BitVec 64) (new : List Byte) (d : Dev) : List Note × Dev :=
      if d.cachedLine k a then ([], d.ringHit k a mask new) else d.ringDown (k / 64 * 64) mask new
    let d := d.unstage k
    match (d.square die).wcb.find? (fun e => e.line == a / 64) with
    | some e =>
      if e.mask ||| mask == fullMask && (mask == fullMask || !e.poison) then
        put fullMask (merge mask e.data new) (d.setSq die (fun q => { q with wcb := q.wcb.filter (fun x => x.line != a / 64) }))
      else ([], d.setSq die (fun q => { q with wcb := ringEntry a mask new d.now q.wcb }))
    | none =>
      if mask == fullMask || d.cachedLine k a || 512 ≤ (d.square die).wcb.length then put mask new d
      else ([], d.setSq die (fun q => { q with
        wcb := ringEntry a mask new d.now (q.wcb ++ [({ line := a / 64, stream := true } : WcbEntry)]) }))

/-- Bytes written to the trace ring; `rec` records the events that the write raises. -/
def ringPut (rec : EvRec → Dev → Dev) (a : Nat) (bs : List Byte) (d : Dev) : Dev :=
  (pieces bs.length a bs).foldl (fun d p =>
    let (ns, d) := d.ringLine p.1 p.2
    ns.foldl (fun d n =>
      let due := d.uncorrDue n
      let d := d.noted n
      match due with
      | some (s, pg) => (rec (uncorrEvent s pg) d).announce [] (uncorrEvent s pg)
      | none => d) d) d

/-- The start of the microsecond in progress, counted from the tick boundary (R301, R442). -/
def winNs (d : Dev) : Nat := d.tu.startNs + (d.now - d.tu.startNs) / 1000 * 1000

/-- Bursts the trace unit may take of each stack in a microsecond (R283, R442): 3 % of 64 × 625. -/
def traceShare : Nat := 1200

/-- Bursts that a write of the trace unit takes of its stack: of a whole line one, where it is not cached; of a part that opens a
write-combining entry two, the read and the write of its drain. Log 146 (DESIGN CHOICE). -/
def ringCost (d : Dev) (a n : Nat) : Option (Nat × Nat) :=
  (d.canon a).map (fun k => (stkOf k,
    if d.cachedLine k a then 0 else if n == 64 then 1 else if (d.wcbEntry (homeOf k) a).isSome then 0 else 2))

/-- The trace unit takes the bursts of the writes named, by address and length, where every stack's share has room for them
(R442). -/
def takeShare (ws : List (Nat × Nat)) (d : Dev) : Option Dev :=
  let u := if d.trace.usNs == d.winNs then d.trace.used else []
  let u' := (ws.filterMap (fun w => d.ringCost w.1 w.2)).foldl (fun u c => amod u c.1 0 (· + c.2)) u
  if u'.all (fun p => p.2 ≤ traceShare) then some (d.setTrace { d.trace with used := u', usNs := d.winNs }) else none

/-- Ring address of a position of the stream (R443). -/
def ringAt (t : Trace) (p : Nat) : Nat := t.cfg.ring.getD 0 + 64 + p % (t.cfg.size - 64)

/-- The ring header written as it stands (R443). -/
def ringHead (rec : EvRec → Dev → Dev) (d : Dev) : Dev :=
  match d.trace.cfg.ring with
  | some a => (d.setTrace { d.trace with owed := false }).ringPut rec a (traceHeader d.trace)
  | none => d

/-- The ring header written where the share has room for it, else when the next microsecond begins (R442, R443).
Log 150 (DESIGN CHOICE). -/
def headNow (rec : EvRec → Dev → Dev) (d : Dev) : Dev :=
  match d.takeShare ((d.trace.cfg.ring.map (fun a => (a, 64))).toList) with
  | some d => d.ringHead rec
  | none => d.setTrace { d.trace with owed := true }

/-- One 32-byte record placed at the next free place (R443, R444). -/
def tracePut (rec : EvRec → Dev → Dev) (bs : List Byte) (d : Dev) : Dev :=
  let a := ringAt d.trace d.trace.wpos
  ((d.setTrace { d.trace with wpos := d.trace.wpos + 32 }).ringPut rec a bs).ringHead rec

def traceBytes (d : Dev) (rtype ctx src : Nat) (mark : BitVec 32) (a0 a1 : Nat) (tick : BitVec 32) : List Byte :=
  leBytes 1 rtype ++ leBytes 1 ctx ++ leBytes 2 src ++ leBytes 4 tick.toNat ++ leBytes 4 (d.now - d.tu.startNs)
    ++ leBytes 4 mark.toNat ++ leBytes 8 a0 ++ leBytes 8 a1

/-- Free bytes of the ring (R443). -/
def traceRoom (t : Trace) : Nat := (t.cfg.size - 64) - (t.wpos - t.rpos)

/-- The LOSS record of the records dropped so far, where there are any (R445). -/
def traceLoss (rec : EvRec → Dev → Dev) (d : Dev) : Dev :=
  if d.trace.pendLoss == 0 then d
  else
    let bs := d.traceBytes 0xFF 0 0x300 0 d.trace.pendLoss d.trace.firstLost.toNat d.tu.tick
    (d.setTrace { d.trace with pendLoss := 0 }).tracePut rec bs

/-- The trace unit with one record more lost. -/
def lossy (d : Dev) : Trace :=
  { d.trace with lostTotal := d.trace.lostTotal + 1, pendLoss := d.trace.pendLoss + 1
                 firstLost := if d.trace.pendLoss == 0 then d.tu.tick else d.trace.firstLost }

/-- A record dropped and counted (R445); the header follows. -/
def traceDrop (rec : EvRec → Dev → Dev) (d : Dev) : Dev := ((d.cnt 0x40 9 1).setTrace d.lossy).headNow rec

/-- Whether an occurrence of a class is recorded (R441, R444). -/
def traced (d : Dev) (cls ctx : Nat) : Bool :=
  d.trace.cfg.tclass.getLsbD cls && !(d.trace.cfg.tctx != 0 && cls < 3 && d.trace.cfg.tctx != ctx)

/-- Bytes that the next record takes, a LOSS record before it included. -/
def traceNeed (t : Trace) : Nat := if t.pendLoss == 0 then 32 else 64

/-- The writes of the next record, by address and length: its own, a pending LOSS record's, the header's. -/
def traceLines (t : Trace) : List (Nat × Nat) :=
  (if t.pendLoss == 0 then [] else [(ringAt t (t.wpos + 32), 32)]) ++ [(ringAt t t.wpos, 32)] ++ (t.cfg.ring.map (fun a => (a, 64))).toList

/-- A traced occurrence (R442, R444, R445): placed, with a pending LOSS record before it, or dropped and counted where the
ring has no room or the stack share none. Log 146 (DESIGN CHOICE). -/
def traceWith (rec : EvRec → Dev → Dev) (cls rtype ctx src : Nat) (mark : BitVec 32) (a0 a1 : Nat) (d : Dev) : Dev :=
  if !d.traced cls ctx then d
  else match (if traceNeed d.trace ≤ traceRoom d.trace then d.takeShare (traceLines d.trace) else none) with
    | some d =>
      let bs := d.traceBytes rtype ctx src mark a0 a1 d.tu.tick
      (d.traceLoss rec).tracePut rec bs
    | none => d.traceDrop rec

/-- The record of an event (R444), to a depth: a ring write may itself find a page uncorrectable. Each page reports once a
tick, and one record touches at most four. -/
def eventRec : Nat → EvRec → Dev → Dev
  | 0, _, d => d
  | n + 1, e, d => d.traceWith (eventRec n) 4 0x40 e.ctx 0x300 0 e.code e.arg0

def traceRec (cls rtype ctx src : Nat) (mark : BitVec 32) (a0 a1 : Nat) (d : Dev) : Dev :=
  d.traceWith (eventRec 4) cls rtype ctx src mark a0 a1

/-- The ring header written on its own: at a setting or a stop, as the collector acknowledges, or at last (R441, R443). -/
def traceHead (d : Dev) : Dev := d.headNow (eventRec 4)

/-- An event raised to mailbox 0 and to the mailboxes named (R322), and traced (R444). -/
def raise (mbs : List Nat) (e : EvRec) (d : Dev) : Dev := (eventRec 5 e d).announce mbs e

/-- What an access to a page left, counted, logged and reported (R296 to R299). -/
def noteAll (ns : List Note) (d : Dev) : Dev :=
  ns.foldl (fun d n =>
    let due := d.uncorrDue n
    let d := d.noted n
    match due with
    | some (s, pg) => d.raise [] (uncorrEvent s pg)
    | none => d) d

/-- Octets of a response (R315, R319). -/
def responseBytes (mb : Nat) (c : MbCmd) (status detail : Nat) (warn : Bool) (payload : List Byte) (tick : BitVec 32) :
    List Byte :=
  msgHeader 1 mb c.msg c.seq payload.length status (b2n warn) c.tag 0 0 tick.toNat detail ++ payload

/-- Where a peer without an entry is answered (R348). -/
def answerTo (c : MbCmd) (d : Dev) : Dev :=
  if (d.peerEntry c.peer).isSome then d
  else d.setSpace { d.space c.peer with link := c.link, v6 := c.v6, addr := c.addr, mac := c.mac }

/-- Whether a packet handed over for a peer goes at once. -/
def goesAtOnce (d : Dev) (peer : Nat) (p : Packet) : Bool :=
  (d.space peer).waiting.isEmpty && ((d.setSpace { d.space peer with waiting := [{ pkt := p }] }).nextOut peer).isSome

/-- Whether a response to a command would be on the wire at once: nothing of its mailbox is answered before it, and nothing holds
its packet (R317, R346, R415). -/
def canAnswer (mb : Nat) (c : MbCmd) (d : Dev) : Bool :=
  ((d.mbox mb).queue.head?.map (fun x => x.order)) == some c.order && (d.answerTo c).goesAtOnce c.peer (Packet.mk0 1 [])

/-- A response sent to the sender of a command. -/
def sendResponse (mb : Nat) (c : MbCmd) (status detail : Nat) (warn : Bool) (payload : List Byte) (d : Dev) : Dev :=
  (d.answerTo c).sendMsg c.peer (responseBytes mb c status detail warn payload d.tu.tick)

/-- Responses leave in acceptance order (R317): every completed command at the head of the queue is answered.
Log 35 (DEDUCED). -/
def flush (mb : Nat) (d : Dev) : Dev :=
  (d.mbox mb).queue.foldl (fun d _ =>
    match (d.mbox mb).queue with
    | c :: rest =>
      match c.done with
      | some (st, det, w, pl) => (d.setMbox mb (fun m => { m with queue := rest })).sendResponse mb c st det w pl
      | none => d
    | [] => d) d

/-- The command accepted as number `order` completes (R317, R319). -/
def complete (mb order status detail : Nat) (warn : Bool) (payload : List Byte) (d : Dev) : Dev :=
  (d.setMbox mb (fun m => { m with
    queue := m.queue.map (fun c =>
      if c.order == order && c.done.isNone then { c with busy := false, done := some (status, detail, warn, payload) }
      else c) })).flush mb

/-- Message codes of R324, and those of R320. -/
def knownMsg (m : Nat) : Bool :=
  m ∈ [0x01, 0x02, 0x10, 0x11, 0x12, 0x13, 0x14, 0x15, 0x20, 0x21, 0x30, 0x40, 0x50, 0x51, 0x60, 0x61, 0x62, 0x70, 0x71, 0x72,
    0x80, 0x81, 0x82, 0x90, 0x91, 0xA0, 0xB0, 0xB1, 0xC0, 0xC1, 0xC2]
def serialMsg (m : Nat) : Bool := m ∈ [0x11, 0x14, 0x20, 0x21, 0x40, 0x50, 0x70, 0x80, 0x81, 0x82]

/-- Messages whose execution goes on for a time: while one executes, its mailbox executes nothing else (R317, R414, R461). Those
left out only wait: a stop, a destroy, a bound write, an unmap, a scrub, a close. Log 35 (DEDUCED). -/
def blockingMsg (m : Nat) : Bool := m ∈ [0x11, 0x80, 0x81, 0x90, 0xB0, 0xB1]

/-- The next command of a mailbox to execute: the first that is neither executing nor completed. -/
def headCmd (d : Dev) (mb : Nat) : Option MbCmd :=
  if (d.mbox mb).queue.any (fun c => c.busy && blockingMsg c.msg) then none
  else (d.mbox mb).queue.find? (fun c => !c.busy && c.done.isNone)

/-- Whether every packet of the sender with a lower number is visible (R358); of an ended space, every packet accepted.
Log 113 (DEDUCED). -/
def visibleBelow (d : Dev) (peer : Nat) (psn : Option (BitVec 32)) : Bool :=
  let s := d.space peer
  match psn with
  | some n => (s.rxNext - n).toNat < 2 ^ 31
  | none => s.placing.all (fun x => !x.old)

/-- Whether a command may execute: its sender's earlier packets are visible, and no R320 command accepted before an R320
command is still outstanding. Log 35 (DEDUCED). -/
def mayRun (d : Dev) (c : MbCmd) : Bool :=
  d.visibleBelow c.peer c.psn
    && !(serialMsg c.msg && d.mboxes.any (fun m => m.queue.any (fun x => x.order < c.order && serialMsg x.msg && x.done.isNone)))

/-- Unknown messages at the head of a mailbox complete with `BAD_ARGUMENT` at their turn (R318). -/
def settle (mb : Nat) (d : Dev) : Dev :=
  (d.mbox mb).queue.foldl (fun d _ =>
    match d.headCmd mb with
    | some c => if !knownMsg c.msg && d.mayRun c then d.complete mb c.order 8 4 false [] else d
    | none => d) d

/-- Whether a context holds a loaded program (R44). -/
def holds (c : Ctx) : Bool := c.st == .loaded || c.st == .ready || c.st == .running || c.st == .parked

/-- Slot programs with a certificate (R43). -/
def certified (c : Ctx) : List Nat :=
  match c.prog with
  | some p => (List.range p.nProg).filter (fun i => (p.certs.getD i {}).wcetNs != 0xFFFFFFFF)
  | none => []

/-- The bits of a list of small numbers. -/
def maskOf (l : List Nat) : Nat := l.foldl (fun a i => a ||| 2 ^ i) 0

/-- The slot programs for which a condition is broken become those `f` gives; the event names those for which it was not
broken before (R45). Conditions are coded as `E_REASON` of EV_WCET_VOID (R424). Log 48 (DESIGN CHOICE). -/
def setBroken (cond : Nat) (f : Nat → Ctx → List Nat) (quiet : Bool) (i : Nat) (d : Dev) : Dev :=
  let c := d.ctx i
  if !holds c then d
  else
    let now := (certified c).filter (fun p => (f i c).contains p)
    let fresh := now.filter (fun p => !c.void.contains (p, cond))
    let d := d.setCtx i (fun c => { c with
      void := c.void.filter (fun v => v.2 != cond) ++ now.map (fun p => (p, cond)) })
    if fresh.isEmpty || quiet then d else d.raise [i] { code := 0x8004, ctx := i, reason := cond, arg0 := maskOf fresh }

def ctxIds : List Nat := List.range' 1 64

def setBrokenAll (cond : Nat) (f : Nat → Ctx → List Nat) (d : Dev) : Dev :=
  ctxIds.foldl (fun d i => d.setBroken cond f false i) d

/-- Conditions power, profiling and I/O share as they stand (R45). -/
def brokenPower (d : Dev) (_ : Nat) (c : Ctx) : List Nat :=
  match c.prog with
  | some p => (List.range p.nProg).filter (fun i => d.power.cap != 0 && d.power.cap < (p.certs.getD i {}).powerW)
  | none => []
def brokenProf (d : Dev) (_ : Nat) (c : Ctx) : List Nat :=
  if d.profiling then List.range ((c.prog.map (fun p => p.nProg)).getD 0) else []
def brokenIo (d : Dev) (_ : Nat) (c : Ctx) : List Nat :=
  match c.prog with
  | some p => (List.range p.nProg).filter (fun i => (p.certs.getD i {}).ioPct < d.mcfg.ioPct)
  | none => []

/-- Whether a loaded program names a unit that is not in service (R45): a cluster by a stream base, a Kerb engine by a
queue claim, a port by a group its context owns; a lost stack breaks every program. -/
def brokenUnits (d : Dev) (i : Nat) (c : Ctx) : List Nat :=
  match c.prog with
  | some p =>
    let bad := (List.range 32).any (fun k => (d.cluster k).svc != .inService
        && (List.range p.nProg).any (fun e => (p.streams.getD (32 * e + k) none).isSome))
      || (List.range 8).any (fun s => (d.eng s).svc != .inService && p.kqEntries.getD s 0 != 0)
      || (List.range 2).any (fun q => (d.net.ports.getD q {}).svc != .inService && d.net.groups.any (fun g => g.2.owner == i))
      || d.stk.any (fun s => s.lost)
    if bad then List.range p.nProg else []
  | none => []

def recheckUnits (d : Dev) : Dev := d.setBrokenAll 3 d.brokenUnits

/-- The control packet of a group (R354, R369, R372); the epoch travels in `APSN`
(DEDUCED: the header names no field for it). -/
def collCtl (group k : Nat) (epoch : BitVec 32) (abort : Bool) : Packet :=
  { Packet.mk0 8 [] with obj := BitVec.ofNat 16 group, ocnt := BitVec.ofNat 32 k, apsn := epoch,
                         oflags := if abort then 0x20 else 0 }

/-- The collectives of a faulting owner stop, with `ABORT` to every member (R372). Log 125 (DEDUCED). -/
def abortGroups (ctx : Nat) (d : Dev) : Dev :=
  d.net.groups.foldl (fun d p =>
    if p.2.owner != ctx || p.2.run.isNone then d
    else
      let d : Dev := { d with net := { d.net with spaces := d.net.spaces.map (fun (s : Space) =>
        { s with waiting := s.waiting.filter (fun t => t.owner != 1 + p.1) }) } }
      let d := p.2.members.foldl (fun d m =>
        if m == d.net.fab.id.toNat then d else d.sendPkt m (collCtl p.1 p.2.k p.2.epoch true) (1 + p.1) none) d
      { d with net := { d.net with groups := amod d.net.groups p.1 {} (fun g => { g with run := none, aborted := true }) } }) d

/-- Messages that still execute for a faulted context (R328, R340). -/
def exemptMsg (m : Nat) : Bool := m == 0x15 || m == 0x14 || m == 0x72

/-- The commands outstanding on a faulting context's mailbox complete with `BAD_STATE` and `FAULTED` (R335, R336,
R340). Log 40 (DEDUCED). -/
def failOutstanding (ctx : Nat) (d : Dev) : Dev :=
  ((d.setMbox ctx (fun m => { m with
    queue := m.queue.map (fun c =>
      if c.done.isNone && !exemptMsg c.msg then { c with busy := false, done := some (7, 5, false, []) } else c) })).flush
      ctx).setCtx ctx (fun c => { c with pendBounds := [], stopMode := none })

/-- The Kerb commands of a faulting context (R161): those still in a queue are discarded, the running ones stop. -/
def discardKerb (ctx : Nat) (d : Dev) : Dev :=
  let mine : List Nat := (d.kcmds.filter (fun p => p.2.ctx == ctx)).map (fun p => p.1)
  { d with kerb := d.kerb.map (fun (e : KEngine) => { e with
      queue := (e.queue.filter (fun q => q.running || !mine.contains q.cmd)).map (fun q =>
        if mine.contains q.cmd then { q with stopped := true } else q) }) }

/-- A context faults (R339, R421, R422): only the first fault is recorded; a consumed poison counts before teardown
(R425). `stream` is 0xFF for a Kerb engine and 0xFE for the transport and collective engine. -/
def faultCtx (ctx : Nat) (cls : FClass) (stream cmd off info : Nat) (d : Dev) : Dev :=
  let d := if cls == .poison then d.cnt 0x66 ctx 1 else d
  if !holds (d.ctx ctx) then d
  else
    let d := d.setCtx ctx (fun c => { c with
      st := .tearingDown, faultNs := d.now
      fault := { cls := some cls, stream := stream, cmd := cmd, offset := off, info := info, tick := d.tu.tick } })
    let d := d.raise [ctx] { code := 0x8006, ctx := ctx, reason := cls.code, unit := stream, aux := cmd, arg0 := off, arg1 := info }
    ((d.discardKerb ctx).failOutstanding ctx).abortGroups ctx

/-- n added to an object of a context (R91): a sum past the word faults the signalling context with ILLEGAL, or with
KERB when a Kerb command signals. A context that is torn down takes no signal. -/
def signal (ctx obj n : Nat) (kerb : Bool) (stream cmd off info : Nat) (d : Dev) : Dev :=
  let c := d.ctx ctx
  if !holds c then d
  else
    let v := ((aget c.objs obj).getD 0).toNat + n
    if 0xFFFFFFFF < v then
      if kerb then d.faultCtx ctx .kerb stream cmd off info else d.faultCtx ctx .illegal stream cmd off (if stream == 0xFE then info else 0)
    else d.setCtx ctx (fun c => { c with objs := aset c.objs obj (BitVec.ofNat 32 v) })

/-- n added to an object of a context by a window or a codec stream, which no context signals (R364, R392, R394): a sum past the
word faults none, and what it leaves is open. Log 158 (DESIGN CHOICE). -/
def post (ctx obj n : Nat) (d : Dev) : Dev :=
  if !holds (d.ctx ctx) then d
  else
    let v := ((aget (d.ctx ctx).objs obj).getD 0).toNat + n
    let set (v : Nat) (d : Dev) : Dev := d.setCtx ctx (fun c => { c with objs := aset c.objs obj (BitVec.ofNat 32 v) })
    if 0xFFFFFFFF < v then (set (Config.freeNat d.fresh) d).bump else set v d

/-- The value of an object. -/
def objVal (d : Dev) (ctx obj : Nat) : Nat := (((aget (d.ctx ctx).objs obj).getD 0)).toNat

/-- A bound register written (R71). -/
def setBound (ctx reg v : Nat) (d : Dev) : Dev :=
  d.setCtx ctx (fun c => { c with bounds := c.bounds.set reg (BitVec.ofNat 32 v) })

def boundVal (d : Dev) (ctx reg : Nat) : Nat := ((d.ctx ctx).bounds.getD reg 0).toNat

/-- Progress of a context in the tick (R434). -/
def progressed (ctx : Nat) (d : Dev) : Dev := d.setCtx ctx (fun c => { c with progress := true })

/-- Innermost open marker of a stream (R444, R447). -/
def markOf (d : Dev) (ctx st : Nat) : BitVec 32 := (((d.ctx ctx).streams.getD st {}).marks.head?).getD 0

end Dev

end Sys2Proof.Machine
end

