-- ==== Sys2Proof/Machine/Lines.lean ====
section
/-! DEFINITION. Lines as masters reach them: requests held at a page and served before an access (R48, R294, R303), the cache
region (R108 to R115), reads and writes in request groups (R124, R293), the
write-combining buffer (R116), Kerb engines beneath the cache (R113). -/

namespace Sys2Proof.Machine

/-- How a master reads or writes: it may allocate (R109), its hint (R110), its class (R126), whether it is an I/O die master
(R302), and the core whose operand staging serves it, counted from 1 (R125). -/
structure Access where
  alloc : Bool
  chint : Nat
  cls : Nat
  ioDie : Bool := false
  core : Nat := 0
  deriving DecidableEq, Repr

/-- The firmware, the transport engine, the codecs: no allocation, in `BULK`, within the I/O share (R109, R302). A hit of
theirs moves its block: only a descriptor's `STREAM` hint keeps one where it is (R108, R110). -/
def Access.io : Access := { alloc := false, chint := 1, cls := 0, ioDie := true }

/-- The trace drain: background (R34, R300). -/
def Access.bkg : Access := { alloc := false, chint := 1, cls := 2 }

/-- The lines of [a, a + n) within one 4 KiB block at a time: a DMA transfer moves at most 4 KiB and crosses no 4 KiB
boundary (R124). -/
def transfers (a n : Nat) : List (List Nat) :=
  if n == 0 then []
  else
    let l0 := a / 64
    let l1 := (a + n + 63) / 64
    (List.range' (l0 / 64) ((l1 - 1) / 64 + 1 - l0 / 64)).map (fun b =>
      let lo := Nat.max l0 (64 * b)
      (List.range' lo (Nat.min l1 (64 * b + 64) - lo)).map (fun l => 64 * l))

/-- The lines of a transfer by code page: each is one request group (R293). -/
def groups (as : List Nat) : List (List Nat) :=
  as.foldr (fun a acc => match acc with
    | (b :: g) :: r => if a / 1024 == b / 1024 then (a :: b :: g) :: r else [a] :: (b :: g) :: r
    | r => [a] :: r) []

namespace Dev

/-- Length of a calibration step by kind (R48): 0 ZQ, 1 retraining. -/
def calLength (kind : Nat) : Nat := if kind == 0 then 2000 else 18000

/-- Kinds of calibration due at a stack (R48): 0 ZQ every 32 ms, 1 retraining every 1,024 ms. -/
def calPeriod (kind : Nat) : Nat := if kind == 0 then 32000000 else 1024000000
def calIsDue (d : Dev) (s kind : Nat) : Bool :=
  let k := d.stack s
  k.st == 0 && !k.lost && kind < 2
    && (if kind == 0 then k.zqNs else k.trNs) / calPeriod kind < (d.now - k.serviceNs) / calPeriod kind

/-- A step due at a stack that fits the maintenance time that remains (R48). -/
def calFits (d : Dev) (kind : Nat) : Bool := d.maintEnd.any (fun t => d.now + calLength kind ≤ t)

/-- Whether calibration has a stack before scrub and trace drain have it (R46): a step runs, or one is due that can start. -/
def calFirst (d : Dev) (s : Nat) : Bool := (d.stack s).cal.isSome || (List.range 2).any (fun x => d.calIsDue s x && d.calFits x)

/-- Whether calibration has a stack that holds some of [a, a + n) before scrub and trace drain have it (R46). -/
def calAhead (d : Dev) (a n : Nat) : Bool :=
  (List.range' (a / 4096) ((a + n + 4095) / 4096 - a / 4096)).any (fun b =>
    (d.canon (4096 * b)).any (fun k => isStk k && d.calFirst (stkOf k)))

/-- A calibration step in progress ends (R48): it serves every due point before its start and clears the count. -/
def calDone (s : Nat) (d : Dev) : Dev :=
  match (d.stack s).cal with
  | none => d
  | some (kind, t) =>
    (d.upTo (t + calLength kind)).setStack s (fun k =>
      let at' := t - k.serviceNs
      { k with cal := none, defer := 0, carry := false, calDue := k.calDue.erase kind,
               zqNs := if kind == 0 then at' else k.zqNs, trNs := if kind == 0 then k.trNs else at' })

/-- The bytes waiting in the write-combining buffer laid over a line. -/
def overlay (d : Dev) (k a : Nat) (v : List Byte × Bool) : List Byte × Bool :=
  if isStk k then
    match d.wcbEntry (homeOf k) a with
    | some e => (merge e.mask v.1 e.data, v.2 || e.poison)
    | none => v
  else v

/-- A line that hits in the home cache (R109, R127). -/
def hitLine (keep : Bool) (k a : Nat) (d : Dev) : (List Byte × Bool) × Dev :=
  let d := d.meetLine a
  let q := d.square (homeOf k)
  ((cacheBytes q a, q.cpoison.contains (a / 64)), d.touch (homeOf k) a keep)

/-- A read served (R109, R293, R295): a Kerb engine's beneath every cache; another master's lines from the home cache where
they are valid there, the rest in one request group. -/
def rawRead (rq : MemReq) (d : Dev) : List (List Byte × Bool) × Dev :=
  let a (i : Nat) : Nat := rq.addr / 1024 * 1024 + 64 * i
  let (hits, miss) := (reqLines rq).partition (fun i => !rq.kerb && d.cachedLine rq.addr (a i))
  let (got, d) := hits.foldl (fun (st : AMap (List Byte × Bool) × Dev) i =>
    let (v, d) := st.2.hitLine (rq.core && rq.chint == 0) rq.addr (a i)
    ((i, v) :: st.1, d)) ([], d)
  let (r, d) := if miss.isEmpty then (([], []), d) else d.readPage rq.cls (rq.addr / 1024) miss
  let d := d.noteAll r.2
  let got := got ++ miss.zip r.1
  ((reqLines rq).map (fun i =>
    let v := (aget got i).getD ([], false)
    if rq.kerb then v else d.overlay rq.addr (a i) v), d)

/-- A write served beneath every cache (R293). A masked write of a Kerb engine reads its line first. -/
def rawWrite (rq : MemReq) (data : List Byte) (d : Dev) : Dev :=
  let pg := rq.addr / 1024
  if rq.lines == 1 && rq.mask != fullMask then
    let (r, d) := d.readPage rq.cls pg (reqLines rq)
    let old := r.1.headD ([], false)
    let (ns, d) := (d.noteAll r.2).writePage rq.cls pg [(rq.addr % 1024 / 64, merge rq.mask old.1 data, old.2 || rq.poison)]
    d.noteAll ns
  else
    let (ns, d) := d.writePage rq.cls pg ((reqLines rq).zipIdx.map (fun l => (l.1, (data.drop (64 * l.2)).take 64, rq.poison)))
    d.noteAll ns

/-- A freed decoder takes the next correction that waits for one (R294). -/
def nextDecode (s : Nat) (kerb : Bool) (d : Dev) : Dev :=
  match (d.stack s).locks.find? (fun l => l.phase == 0 && l.rq.kerb == kerb) with
  | none => d
  | some x => d.setStack s (fun k => { k with
      locks := k.locks.map (fun l => if l.page == x.page then { l with phase := 1 } else l) })

/-- What a page holds back, in the order it is served (R294, R303): the request that took its lock, if it is not answered,
the requests that wait on the lock, those ready, those held by the I/O share. -/
def heldAt (k : Stack) (pg : Nat) : List Req :=
  (k.locks.filter (fun l => l.page == pg)).flatMap (fun l => (if l.phase == 2 then [] else [(l.rq, l.data, l.write)]) ++ l.waiting)
    ++ k.ready.filter (fun x => reqPage x == pg) ++ k.ioWait.filter (fun x => reqPage x == pg)

/-- Whether nothing holds a page back. -/
def clearAt (k : Stack) (pg : Nat) : Bool :=
  k.cal.isNone && k.locks.all (fun l => l.page != pg) && k.ready.all (fun x => reqPage x != pg)
    && k.ioWait.all (fun x => reqPage x != pg)

/-- Before an access made in one step reaches a page, what holds that page back is brought forward: a calibration step that
blocks the stack ends (R48), a correction or partial write completes and its lock goes, and every request held at the page
is served (R294, R303). Answers each read served, with what it delivers; one that a
later request overwrites fills no cache. Log 151 (DESIGN CHOICE). -/
def settleRaw (pg : Nat) (d : Dev) : List (MemReq × List (List Byte × Bool)) × Dev :=
  let s := stackOfPage pg
  let k := d.stack s
  if clearAt k pg then ([], d)
  else
    let d := (d.calDone s).setStack s (fun k => { k with
      locks := k.locks.filter (fun l => l.page != pg), ready := k.ready.filter (fun x => reqPage x != pg)
      ioWait := k.ioWait.filter (fun x => reqPage x != pg) })
    let d := (k.locks.filter (fun l => l.page == pg && l.phase == 1)).foldl (fun d l => d.nextDecode s l.rq.kerb) d
    (heldAt k pg).foldl (fun (st : List (MemReq × List (List Byte × Bool)) × Dev) x =>
      if x.2.2 then (st.1.map (fun r => ({ r.1 with core := false }, r.2)), st.2.rawWrite x.1 x.2.1)
      else
        let (vs, d) := st.2.rawRead x.1
        (st.1 ++ [(x.1, vs)], d)) ([], d)

/-- Lines delivered to a master. -/
def give (rq : MemReq) (vs : List (List Byte × Bool)) (d : Dev) : Dev :=
  { d with delivered := ((reqLines rq).zip vs).map (fun x => (rq.addr / 1024 * 1024 + 64 * x.1, x.2.1, x.2.2)) }

/-- The same before the write-back that an eviction makes: reads served on the way are delivered and fill no cache.
Log 151 (DESIGN CHOICE). -/
def settleEvict (pg : Nat) (d : Dev) : Dev :=
  let r := d.settleRaw pg
  r.1.foldl (fun d x => d.give x.1 x.2) r.2

/-- A block written back (R115): every valid line, in `BULK`; the block's cached copy stays. -/
def writeBack (die : Nat) (b : CacheBlock) (d : Dev) : Dev :=
  if !b.dirty then d
  else
    let valid (i : Nat) : Bool := b.valid.getLsbD i
    let d := ((List.range 64).filter valid).foldl (fun d i => d.meetLine (4096 * b.blk + 64 * i)) d
    let q := d.square die
    (List.range 4).foldl (fun d pgi =>
      let ls := (List.range 16).filter (fun i => valid (16 * pgi + i))
      if ls.isEmpty then d
      else match d.canon (4096 * b.blk + 1024 * pgi) with
        | none => d
        | some k =>
          let (ns, d) := (d.settleEvict (k / 1024)).writePage 0 (k / 1024) (ls.map (fun i =>
            let a := 4096 * b.blk + 1024 * pgi + 64 * i
            (i, cacheBytes q a, q.cpoison.contains (a / 64))))
          d.noteAll ns) d

/-- A block dropped from its cache. -/
def dropBlock (die blk : Nat) (d : Dev) : Dev :=
  let d := if d.upsets.isEmpty then d else { d with upsets := d.upsets.filter (fun p => p.1 / 512 != blk) }
  d.setSq die (fun q => { q with
    blocks := q.blocks.filter (fun b => b.blk != blk)
    cdata := q.cdata.filter (fun p => p.1 / 4096 != blk)
    cpoison := q.cpoison.filter (fun l => l / 64 != blk) })

/-- A block written back if dirty, then invalidated (R111, R113). -/
def flushBlock (die : Nat) (b : CacheBlock) (d : Dev) : Dev := (d.writeBack die b).dropBlock die b.blk

/-- Every block of a die written back and the cache emptied (R106). -/
def emptyCache (die : Nat) (d : Dev) : Dev := (d.square die).blocks.foldl (fun d b => d.flushBlock die b) d

/-- A line installed in the home cache (R108, R110, R115): a set of 16 gives up its least recently used block; `front`
puts the block at the most-recently-used place, else it goes to the LRU place, or stays where it is. -/
def install (die a : Nat) (bs : List Byte) (poison dirty front : Bool) (d : Dev) : Dev :=
  let g := (d.square die).g
  let blk := a / 4096
  let li := a / 64 % 64
  let bitOf (v : BitVec 64) : BitVec 64 := v ||| ((1#64) <<< li)
  match d.cblock die a with
  | some b =>
    let b' := { b with valid := bitOf b.valid, dirty := b.dirty || dirty }
    (d.setSq die (fun q => { q with
      blocks := if front then b' :: q.blocks.filter (fun x => x.blk != blk)
        else q.blocks.map (fun x => if x.blk == blk then b' else x) })).putCached die a bs poison
  | none =>
    let st := setOf g blk
    let same := (d.square die).blocks.filter (fun b => b.set == st)
    let d := if 16 ≤ same.length then
        match same.getLast? with
        | some b => d.flushBlock die b
        | none => d
      else d
    let b' : CacheBlock := { blk := blk, set := st, valid := bitOf 0, dirty := dirty }
    (d.setSq die (fun q => { q with blocks := if front then b' :: q.blocks else q.blocks ++ [b'] })).putCached die a bs poison

/-- Lines delivered to the master; a core's read fills its home cache (R109, R110). -/
def handOver (rq : MemReq) (vs : List (List Byte × Bool)) (d : Dev) : Dev :=
  let d := d.give rq vs
  if !rq.core || rq.kerb then d
  else ((reqLines rq).zip vs).foldl (fun d x =>
    let a := rq.addr / 1024 * 1024 + 64 * x.1
    if (d.square (homeOf a)).g == 0 || d.cachedLine a a then d
    else d.install (homeOf a) a x.2.1 x.2.2 false (rq.chint != 0)) d

/-- What holds a page back brought forward before an access of one step. Log 151 (DESIGN CHOICE). -/
def settlePage (pg : Nat) (d : Dev) : Dev :=
  if clearAt (d.stack (stackOfPage pg)) pg then d
  else
    let r := d.settleRaw pg
    r.1.foldl (fun d x => d.handOver x.1 x.2) r.2

/-- Lines of one code page read in one request group, counted, logged and reported (R293 to R299). -/
def dramReadPage (cls pg : Nat) (ls : List Nat) (d : Dev) : List (List Byte × Bool) × Dev :=
  let (r, d) := (d.settlePage pg).readPage cls pg ls
  (r.1, d.noteAll r.2)

/-- Whole lines of one code page written in one request group. -/
def dramWritePage (cls pg : Nat) (ws : List (Nat × List Byte × Bool)) (d : Dev) : Dev :=
  let (ns, d) := (d.settlePage pg).writePage cls pg ws
  d.noteAll ns

/-- One stacked-memory line read, by its key. -/
def dramRead (cls k : Nat) (d : Dev) : (List Byte × Bool) × Dev :=
  let r := d.dramReadPage cls (k / 1024) [k % 1024 / 64]
  (r.1.headD (List.replicate 64 0, false), r.2)

def dramWrite (cls k : Nat) (bs : List Byte) (poison : Bool) (d : Dev) : Dev :=
  d.dramWritePage cls (k / 1024) [(k % 1024 / 64, bs, poison)]

/-- Bursts of an I/O die master charged to the share of its stack (R302). A transfer made in one step may run past the
share: what is beyond it is charged to the microseconds that follow. Log 103 (DEDUCED). -/
def chargeIo (acc : Access) (s n : Nat) (d : Dev) : Dev :=
  if acc.ioDie then d.setStack s (fun k => { k with ioUsed := k.ioUsed + n }) else d

/-- Counts of a core's events while per-core counters are on (R439): 7 and 8 bytes read from and written to the Square, 9 DMA
transfers, 10 prefetched lines used, 11 and 12 line reads that hit and miss the cache region. Log 85 (DESIGN CHOICE). -/
def metered (core ev n : Nat) (d : Dev) : Dev :=
  if core == 0 || n == 0 || !d.trace.cfg.cores then d
  else { d with trace := { d.trace with meter := amod d.trace.meter ev 0 (fun x => x + n) } }

/-- Whether a key lies in scratch. -/
def inSquare (k : Nat) : Bool := 0x200000000000 ≤ k && k < 0x300000000000

/-- Lines of one page in a cache block noted as prefetched, or as used by a tile (R439). -/
def setAhead (die : Nat) (as : List Nat) (v : Bool) (d : Dev) : Dev :=
  if as.isEmpty then d
  else
    let ls := as.foldl (fun (w : BitVec 64) a => w ||| ((1#64) <<< (a / 64 % 64))) 0
    d.setSq die (fun q => { q with blocks := q.blocks.map (fun b =>
      if b.blk == as.headD 0 / 4096 then { b with ahead := if v then b.ahead ||| ls else b.ahead &&& ~~~ls } else b) })

/-- The lines among `as` that a prefetch brought into the cache and no tile has used. -/
def aheadOf (d : Dev) (die : Nat) (as : List Nat) : List Nat :=
  as.filter (fun a => (d.cblock die a).any (fun b => b.ahead.getLsbD (a / 64 % 64)))

/-- Lines of one code page read by a master other than a Kerb engine (R109, R110, R293): hits from the home cache, all misses
in one request group. `as` holds line addresses, rising. -/
def fetchLines (acc : Access) (as : List Nat) (d : Dev) : List (List Byte × Bool) × Dev :=
  match d.canon (as.headD 0) with
  | none => (as.map (fun _ => (List.replicate 64 0, false)), d)
  | some k0 =>
    let a0 := as.headD 0
    if !isStk k0 then
      let d := (as.foldl (fun d a => d.meetLine a) d).metered acc.core 7 (if inSquare k0 then 64 * as.length else 0)
      let bs := d.mem.read k0 (as.getLastD a0 + 64 - a0)
      (as.map (fun a => ((bs.drop (a - a0)).take 64, d.storedPoison (k0 + (a - a0)))), d)
    else
      let die := homeOf k0
      let (hits, miss) := as.partition (fun a => d.cachedLine k0 a)
      let used := if acc.core == 0 then [] else d.aheadOf die hits
      let d := if (d.square die).g == 0 then d
        else (((d.metered acc.core 7 (64 * hits.length)).metered acc.core 11 hits.length).metered acc.core 12 miss.length).metered
          acc.core 10 used.length
      let d := d.setAhead die used false
      let (got, d) := hits.foldl (fun (st : AMap (List Byte × Bool) × Dev) a =>
        let (v, d) := st.2.hitLine (acc.chint == 0) k0 a
        ((a, v) :: st.1, d)) ([], d)
      let (got, d) := if miss.isEmpty then (got, d)
        else
          let (vs, d) := (d.chargeIo acc (stkOf k0) miss.length).dramReadPage acc.cls (k0 / 1024) (miss.map (fun a => a % 1024 / 64))
          let new := miss.zip vs
          (got ++ new, if acc.alloc && (d.square die).g != 0 then
              new.foldl (fun d x => d.install die x.1 x.2.1 x.2.2 false (acc.chint != 0)) d
            else d)
      (as.map (fun a => d.overlay k0 a ((aget got a).getD ([], false))), d)

/-- The same, with the lines that the core's operand staging holds served from there and used up (R125). -/
def fetchStaged (acc : Access) (as : List Nat) (d : Dev) : List (List Byte × Bool) × Dev :=
  let mine (x : Staged) (a : Nat) : Bool := x.core + 1 == acc.core && d.canon a == some x.line
  if acc.core == 0 || !d.staged.any (fun x => as.any (mine x)) then d.fetchLines acc as
  else
    let held := as.filterMap (fun a => (d.staged.find? (fun x => mine x a)).map (fun x => (a, x.data, x.poison)))
    let rest := as.filter (fun a => !held.any (fun h => h.1 == a))
    let d := ({ d with staged := d.staged.filter (fun x => !as.any (mine x)) }).metered acc.core 10 held.length
    let (vs, d) := if rest.isEmpty then ([], d) else d.fetchLines acc rest
    let got : AMap (List Byte × Bool) := held ++ rest.zip vs
    (as.map (fun a => (aget got a).getD ([], false)), d)

/-- Bytes of a range, transfer by transfer (R124), with the addresses of its poisoned lines in ascending order. -/
def fetch (acc : Access) (a n : Nat) (d : Dev) : (List Byte × List Nat) × Dev :=
  let r := ((transfers a n).flatMap groups).foldl
    (fun (st : List Byte × List Nat × Dev) as =>
      let (vs, d) := st.2.2.fetchStaged acc as
      (st.1 ++ vs.flatMap Prod.fst, st.2.1 ++ ((as.zip vs).filter (fun p => p.2.2)).map Prod.fst, d))
    ([], [], d.metered acc.core 9 (transfers a n).length)
  ((((r.1.drop (a % 64)).take n), r.2.1), r.2.2)

/-- The first address of a range that no memory backs (R69). -/
def unbacked (d : Dev) (a n : Nat) : Option Nat :=
  let l0 := a / 64
  ((List.range ((a + n + 63) / 64 - l0)).find? (fun i => (d.canon ((l0 + i) * 64)).isNone)).map
    (fun i => Nat.max a ((l0 + i) * 64))

/-- Whether scratch offset o of a die lies in an unpinned, non-transient partition of a context (R120). -/
def swappable (c : Ctx) (die o : Nat) : Bool :=
  match c.prog with
  | some p => p.parts.any (fun x => x.die == die && !x.granted && !x.transient && x.off ≤ o && o < x.off + x.size)
  | none => false

/-- The granules of the resident context that a scratch write makes valid and dirty (R120). -/
def noteScratch (k : Nat) (d : Dev) : Dev :=
  if 0x200000000000 ≤ k && k < 0x300000000000 then
    let c := d.slots.resident
    if swappable (d.ctx c) ((k - 0x200000000000) / 0x40000000) ((k - 0x200000000000) % 0x40000000) then
      d.setCtx c (fun x => { x with valid := x.valid.insert (k / 4096), dirty := x.dirty.insert (k / 4096) })
    else d
  else d

/-- A masked write merged in scratch or in a core buffer (R116, R127, R128). -/
def storeMasked (k a : Nat) (mask : BitVec 64) (bs : List Byte) (poison : Bool) (d : Dev) : Dev :=
  let d := d.meetWrite a mask
  let whole := mask == fullMask
  (d.storeLine k (if whole then bs else merge mask (d.mem.read k 64) bs) ((!whole && d.storedPoison k) || poison)).noteScratch k

/-- A masked write merged in a valid line of the home cache (R110, R115, R116, R128): the block is dirty, but for a whole line
under `STREAM`, which goes to memory too. -/
def cacheMasked (acc : Access) (k a : Nat) (mask : BitVec 64) (bs : List Byte) (poison : Bool) (d : Dev) : Dev :=
  let d := d.meetWrite a mask
  let q := d.square (homeOf k)
  let whole := mask == fullMask
  d.install (homeOf k) a (if whole then bs else merge mask (cacheBytes q a) bs) ((!whole && q.cpoison.contains (a / 64)) || poison)
    (!whole || acc.chint != 0) (acc.chint != 0)

/-- Whether a whole line of a master goes straight to memory (R109, R110): stacked memory, not cached, nothing of it in the
write-combining buffer, and no allocation. -/
def direct (d : Dev) (acc : Access) (a : Nat) : Bool :=
  match d.canon a with
  | none => false
  | some k => isStk k && !d.cachedLine k a && (d.wcbEntry (homeOf k) a).isNone
      && !(acc.alloc && acc.chint != 0 && (d.square (homeOf k)).g != 0)

/-- A whole line written by a master other than a Kerb engine (R109, R110): under `STREAM` it goes to memory and a cached copy is
updated; else a hit updates the cached copy alone. Log 98 (DEDUCED). -/
def writeLine (acc : Access) (a : Nat) (bs : List Byte) (poison : Bool) (d : Dev) : Dev :=
  match d.canon a with
  | none => d
  | some k =>
    if !isStk k then d.storeMasked k a fullMask bs poison
    else if d.cachedLine k a then
      let d := d.cacheMasked acc k a fullMask bs poison
      if acc.chint == 0 then (d.chargeIo acc (stkOf k) 1).dramWrite acc.cls k bs poison else d
    else if acc.alloc && acc.chint != 0 && (d.square (homeOf k)).g != 0 then d.install (homeOf k) a bs poison true true
    else (d.chargeIo acc (stkOf k) 1).dramWrite acc.cls k bs poison

/-- What a drain reads of a line: its backing copy (R116, R127). -/
def restOf (die k a : Nat) (d : Dev) : (List Byte × Bool) × Dev :=
  let d := d.meetLine a
  if d.cachedLine k a then ((cacheBytes (d.square die) a, (d.square die).cpoison.contains (a / 64)), d) else d.dramRead 0 k

/-- The read of a drain (R116, R117): what Kerb engines write to the line from now on is lost when the drain writes it. -/
def readWcb (die : Nat) (e : WcbEntry) (d : Dev) : Dev :=
  match d.canon (e.line * 64) with
  | none => d
  | some k =>
    let (v, d) := d.restOf die k (e.line * 64)
    d.setSq die (fun q => { q with wcb := q.wcb.map (fun x => if x.line == e.line then { x with rest := some v } else x) })

/-- An entry of the write-combining buffer drained (R116): the rest of the line read from its backing memory, unless the drain has
read it before, merged and written whole; poison stays unless every byte is replaced (R128). The merged line is written as a
whole line of the entry's hint would be: installed dirty in the cache under `KEEP` and `DROP_AFTER_USE`, to memory under
`STREAM`. Log 98 (DEDUCED), 152 (DESIGN CHOICE). -/
def drainWcb (die : Nat) (e : WcbEntry) (d : Dev) : Dev :=
  let a := e.line * 64
  let d := d.setSq die (fun q => { q with wcb := q.wcb.filter (fun x => x.line != e.line) })
  let acc : Access := { alloc := !e.stream, chint := if e.stream then 0 else 1, cls := 0 }
  match d.canon a with
  | none => d
  | some k =>
    if e.mask == fullMask then d.writeLine acc a e.data e.poison
    else
      let (v, d) := match e.rest with
        | some v => (v, d)
        | none => d.restOf die k a
      d.writeLine acc a (merge e.mask v.1 e.data) (v.2 || e.poison)

/-- A partial line put into the write-combining buffer (R116). The entry has the hint of its latest writer.
Log 98 (DEDUCED), 152 (DESIGN CHOICE). -/
def toWcb (acc : Access) (user die a : Nat) (mask : BitVec 64) (bs : List Byte) (poison : Bool) (d : Dev) : Dev :=
  let stream := !acc.alloc || acc.chint == 0
  let d := d.unstage ((d.canon a).getD 0)
  let d : Dev := match d.wcbEntry die a with
    | some _ => d
    | none =>
      let d : Dev := if 512 ≤ (d.square die).wcb.length then
          match (d.square die).wcb.head? with
          | some e => d.drainWcb die e
          | none => d
        else d
      d.setSq die (fun q => { q with wcb := q.wcb ++ [({ line := a / 64, stream := stream, sinceNs := d.now } : WcbEntry)] })
  let upd (e : WcbEntry) : WcbEntry :=
    { e with mask := e.mask ||| mask, data := merge mask e.data bs, stream := stream, users := e.users.insert user,
             poison := (e.poison && mask != fullMask) || poison, sinceNs := d.now }
  let d := d.setSq die (fun q => { q with wcb := q.wcb.map (fun e => if e.line == a / 64 then upd e else e) })
  match d.wcbEntry die a with
  | some e => if e.mask == fullMask then d.drainWcb die e else d
  | none => d

/-- A masked write of one line (R116, R128): merged in scratch, in a core buffer or in a valid cache line; any other
partial line goes to the write-combining buffer, and so does a write to a line that has an entry there. `bs` has 64
bytes; `user` is the macro-instruction, 0 for none. -/
def writeMasked (acc : Access) (user a : Nat) (mask : BitVec 64) (bs : List Byte) (poison : Bool) (d : Dev) : Dev :=
  let a := a / 64 * 64
  if mask == 0 then d
  else match d.canon a with
    | none => d
    | some k =>
      if isStk k && (d.wcbEntry (homeOf k) a).isSome then d.toWcb acc user (homeOf k) a mask bs poison
      else if mask == fullMask then d.writeLine acc a bs poison
      else if !isStk k then d.storeMasked k a mask bs poison
      else if d.cachedLine k a then d.cacheMasked acc k a mask bs poison
      else (d.chargeIo acc (stkOf k) 1).toWcb acc user (homeOf k) a mask bs poison

/-- Pieces of one code page together. -/
def pagePieces (l : List (Nat × List Byte)) : List (List (Nat × List Byte)) :=
  l.foldr (fun p acc => match acc with
    | (q :: g) :: r => if p.1 / 1024 == q.1 / 1024 then (p :: q :: g) :: r else [p] :: (q :: g) :: r
    | r => [p] :: r) []

/-- Bytes of pieces that go to scratch or to the cache: to a line that is there, or to one that the write allocates (R110). -/
def squareBytes (d : Dev) (acc : Access) (l : List (Nat × List Byte)) : Nat :=
  (l.filter (fun p => (d.canon (p.1 / 64 * 64)).any (fun k => inSquare k || (isStk k && (d.cachedLine k p.1
    || (p.2.length == 64 && acc.alloc && acc.chint != 0 && (d.square (homeOf k)).g != 0)))))).foldl
    (fun n p => n + p.2.length) 0

/-- A run of bytes written, cut at lines; poison per line. Whole lines of one page that go to memory are one request group
(R293). -/
def store (acc : Access) (user a : Nat) (bs : List Byte) (poison : Nat → Bool) (d : Dev) : Dev :=
  let ps := pieces bs.length a bs
  let d := if acc.core == 0 then d else (d.metered acc.core 9 (transfers a bs.length).length).metered acc.core 8 (d.squareBytes acc ps)
  (pagePieces ps).foldl (fun d ps =>
    let (whole, rest) := ps.partition (fun p => p.2.length == 64 && d.direct acc p.1)
    let d := rest.foldl (fun d p =>
      d.writeMasked acc user p.1 (spanMask (p.1 % 64) p.2.length) (List.replicate (p.1 % 64) 0 ++ p.2) (poison (p.1 / 64))) d
    match whole, d.canon ((whole.headD (0, [])).1) with
    | [], _ => d
    | _, none => d
    | _, some k => (d.chargeIo acc (stkOf k) whole.length).dramWritePage acc.cls (k / 1024)
        (whole.map (fun p => (p.1 % 1024 / 64, p.2, poison (p.1 / 64))))) d

/-- Lines of one code page read by a Kerb engine: beneath the cache (R113), scratch direct. -/
def kerbLines (cls : Nat) (as : List Nat) (d : Dev) : List (List Byte × Bool) × Dev :=
  match d.canon (as.headD 0) with
  | none => (as.map (fun _ => (List.replicate 64 0, false)), d)
  | some k0 =>
    if isStk k0 then d.dramReadPage cls (k0 / 1024) (as.map (fun a => a % 1024 / 64))
    else
      let a0 := as.headD 0
      let d := as.foldl (fun d a => d.meetLine a) d
      let bs := d.mem.read k0 (as.getLastD a0 + 64 - a0)
      (as.map (fun a => ((bs.drop (a - a0)).take 64, d.storedPoison (k0 + (a - a0)))), d)

/-- One line read by a Kerb engine. -/
def kerbLine (cls a : Nat) (d : Dev) : (List Byte × Bool) × Dev :=
  let r := d.kerbLines cls [a / 64 * 64]
  (r.1.headD (List.replicate 64 0, false), r.2)

/-- Bytes of a range read by a Kerb engine, with the addresses of its poisoned lines. -/
def kerbFetch (cls a n : Nat) (d : Dev) : (List Byte × List Nat) × Dev :=
  let r := ((transfers a n).flatMap groups).foldl
    (fun (st : List Byte × List Nat × Dev) as =>
      let (vs, d) := st.2.2.kerbLines cls as
      (st.1 ++ vs.flatMap Prod.fst, st.2.1 ++ ((as.zip vs).filter (fun p => p.2.2)).map Prod.fst, d)) ([], [], d)
  ((((r.1.drop (a % 64)).take n), r.2.1), r.2.2)

/-- Pieces of one code page written by a Kerb engine in one request group (R117, R128, R293): the rest of a line that is
written in part is read first and kept. -/
def kerbWrite (cls : Nat) (ps : List (Nat × List Byte)) (poison : Nat → Bool) (d : Dev) : Dev :=
  match ps, d.canon ((ps.headD (0, [])).1 / 64 * 64) with
  | [], _ => d
  | _, none => d
  | p0 :: _, some k0 =>
    if !isStk k0 then
      ps.foldl (fun d p => d.storeMasked (k0 + p.1 / 64 * 64 - p0.1 / 64 * 64) p.1 (spanMask (p.1 % 64) p.2.length)
        (List.replicate (p.1 % 64) 0 ++ p.2) (poison (p.1 / 64))) d
    else
      let part := (ps.filter (fun p => p.2.length != 64)).map (fun p => p.1 % 1024 / 64)
      let (vs, d) := if part.isEmpty then ([], d) else d.dramReadPage cls (k0 / 1024) part
      let old : AMap (List Byte × Bool) := part.zip vs
      d.dramWritePage cls (k0 / 1024) (ps.map (fun p =>
        let i := p.1 % 1024 / 64
        match aget old i with
        | some v => (i, merge (spanMask (p.1 % 64) p.2.length) v.1 (List.replicate (p.1 % 64) 0 ++ p.2), v.2 || poison (p.1 / 64))
        | none => (i, p.2, poison (p.1 / 64))))

def kerbStore (cls a : Nat) (bs : List Byte) (poison : Nat → Bool) (d : Dev) : Dev :=
  (pagePieces (pieces bs.length a bs)).foldl (fun d ps => d.kerbWrite cls ps poison) d

/-- The clean of R113: dirty blocks of the ranges read written back; blocks of the ranges written invalidated, dirty
ones written back first. Ranges are sets of 4 KiB device blocks. -/
def kerbClean (reads writes : List Nat) (d : Dev) : Dev :=
  (List.range 2).foldl (fun d die =>
    (d.square die).blocks.foldl (fun d b =>
      if writes.contains b.blk then d.flushBlock die b
      else if reads.contains b.blk && b.dirty then
        (d.writeBack die b).setSq die (fun q => { q with
          blocks := q.blocks.map (fun x => if x.blk == b.blk then { x with dirty := false } else x) })
      else d) d) d

/-- The entries of a macro-instruction drained at its completion (R116). -/
def drainUser (user : Nat) (d : Dev) : Dev :=
  (List.range 2).foldl (fun d die =>
    (d.square die).wcb.foldl (fun d e => if e.users.contains user then d.drainWcb die e else d) d) d

/-- Lines that a core's operand staging holds at most: 384 KiB (R14). -/
def stagingLines : Nat := 6144

/-- Lines of one page fetched ahead for a core (R109, R110, R125): stacked memory is looked up in the home cache as a read
under the hint is and fills it; with no cache, and for scratch, lines go to the core's operand staging while it has room.
Nothing unbacked is fetched, and nothing of a core buffer. Log 75 (DESIGN CHOICE). -/
def prefetchLines (acc : Access) (core mi : Nat) (as : List Nat) (d : Dev) : Dev :=
  match d.canon (as.headD 0) with
  | none => d
  | some k0 =>
    if isStk k0 && (d.square (homeOf k0)).g != 0 then
      let (hits, new) := as.partition (fun a => d.cachedLine k0 a)
      (((d.fetchLines { acc with alloc := true, core := 0 } as).2.setAhead (homeOf k0) new true)).metered (core + 1) 7 (64 * hits.length)
    else if 0x300000000000 ≤ k0 then d
    else
      let own := d.staged.filter (fun x => x.core == core)
      let new := (as.filter (fun a => !own.any (fun x => some x.line == d.canon a))).take (stagingLines - own.length)
      if new.isEmpty then d
      else
        let (vs, d) := (d.metered (core + 1) 7 (if inSquare k0 then 64 * new.length else 0)).fetchLines
          { acc with alloc := false, core := 0 } new
        { d with staged := d.staged ++ (new.zip vs).map (fun p =>
            { core := core, mi := mi, line := (d.canon p.1).getD 0, data := p.2.1, poison := p.2.2 }) }

end Dev

end Sys2Proof.Machine
end

