-- ==== Sys2Proof/Machine/Num.lean ====
section
/-! DEFINITION. Number formats and exact arithmetic (06): extended reals in exact form, decoding and encoding of every
element format (R165 to R167), roundings (R181 to R183), the counter-based generator (R184), the fixed reduction tree
(R178), block encoding (R180) and the count reciprocal (R214). -/

namespace Sys2Proof.Machine

/-- An exact value: NaN, an infinity, or (−1)^neg · m · 2^e. -/
inductive FV where
  | nan
  | inf (neg : Bool)
  | fin (neg : Bool) (m : Nat) (e : Int)
  deriving DecidableEq, Repr

/-- A floating-point encoding with `eb` exponent bits, `mb` mantissa bits and bias (R165); `special` 0 follows IEEE 754,
1 has a NaN at the all-ones code only (E4M3), 2 has neither infinity nor NaN. -/
structure Fmt where
  eb : Nat
  mb : Nat
  bias : Nat
  special : Nat
  deriving DecidableEq, Repr

def Fmt.fp32 : Fmt := ⟨8, 23, 127, 0⟩
def Fmt.bf16 : Fmt := ⟨8, 7, 127, 0⟩
def Fmt.fp16 : Fmt := ⟨5, 10, 15, 0⟩
def Fmt.e5m2 : Fmt := ⟨5, 2, 15, 0⟩
def Fmt.e4m3 : Fmt := ⟨4, 3, 7, 1⟩
def Fmt.e3m2 : Fmt := ⟨3, 2, 3, 2⟩
def Fmt.e2m3 : Fmt := ⟨2, 3, 1, 2⟩
def Fmt.e2m1 : Fmt := ⟨2, 1, 1, 2⟩

namespace FV

def zero : FV := .fin false 0 0
def one : FV := .fin false 1 0

def ofNat (n : Nat) : FV := .fin false n 0
def ofInt (i : Int) : FV := .fin (i < 0) i.natAbs 0

def isNan : FV → Bool
  | .nan => true
  | _ => false

def isFin : FV → Bool
  | .fin _ _ _ => true
  | _ => false

def isZero : FV → Bool
  | .fin _ m _ => m == 0
  | _ => false

def neg : FV → FV
  | .nan => .nan
  | .inf s => .inf (!s)
  | .fin s m e => .fin (!s) m e

def abs : FV → FV
  | .nan => .nan
  | .inf _ => .inf false
  | .fin _ m e => .fin false m e

/-- The signed integer a finite value is, at scale 2^e0 with e0 at or below its exponent. -/
def at0 (s : Bool) (m : Nat) (e e0 : Int) : Int :=
  let v : Int := ((m * 2 ^ (e - e0).toNat : Nat) : Int)
  if s then -v else v

/-- Exact sum (R167): an exact zero is −0 only when both terms are negative. -/
def add : FV → FV → FV
  | .nan, _ => .nan
  | _, .nan => .nan
  | .inf s, .inf t => if s == t then .inf s else .nan
  | .inf s, _ => .inf s
  | _, .inf t => .inf t
  | .fin s m e, .fin t n f =>
    let e0 := min e f
    let v := at0 s m e e0 + at0 t n f e0
    if v == 0 then .fin (s && t) 0 0 else .fin (v < 0) v.natAbs e0

def sub (a b : FV) : FV := add a b.neg

/-- Exact product (R167). -/
def mul : FV → FV → FV
  | .nan, _ => .nan
  | _, .nan => .nan
  | .inf s, .inf t => .inf (s != t)
  | .inf s, .fin t n _ => if n == 0 then .nan else .inf (s != t)
  | .fin s m _, .inf t => if m == 0 then .nan else .inf (s != t)
  | .fin s m e, .fin t n f => .fin (s != t) (m * n) (e + f)

/-- Multiplication by a power of two, exact. -/
def scale (k : Int) : FV → FV
  | .fin s m e => .fin s m (e + k)
  | v => v

/-- Three-way comparison of values that are not NaN: −1, 0 or 1, with −0 equal to +0. -/
def cmp : FV → FV → Int
  | .nan, _ => 0
  | _, .nan => 0
  | .inf s, .inf t => if s == t then 0 else if s then -1 else 1
  | .inf s, _ => if s then -1 else 1
  | _, .inf t => if t then 1 else -1
  | .fin s m e, .fin t n f =>
    let e0 := min e f
    let v := at0 s m e e0 - at0 t n f e0
    if v == 0 then 0 else if v < 0 then -1 else 1

/-- a < b, false when either is NaN. -/
def lt (a b : FV) : Bool := !a.isNan && !b.isNan && cmp a b == -1

/-- a ≤ b, false when either is NaN. -/
def le (a b : FV) : Bool := !a.isNan && !b.isNan && cmp a b != 1

def negSign : FV → Bool
  | .nan => false
  | .inf s => s
  | .fin s _ _ => s

/-- Maximum of R178: NaN if either is, and +0 over −0. -/
def max (a b : FV) : FV :=
  if a.isNan || b.isNan then .nan
  else if cmp a b == 0 then (if a.negSign then b else a)
  else if cmp a b == -1 then b else a

/-- Minimum of R178: NaN if either is, and −0 under +0. -/
def min (a b : FV) : FV :=
  if a.isNan || b.isNan then .nan
  else if cmp a b == 0 then (if a.negSign then a else b)
  else if cmp a b == -1 then a else b

end FV

/-- Position of the highest set bit; 0 for 0. -/
def ilog2 (m : Nat) : Nat := Nat.log2 m

/-- The exponent of the grid spacing of format `f` at magnitude m · 2^e, m not 0 (R183: subnormal spacing below the
smallest normal). -/
def Fmt.grid (f : Fmt) (m : Nat) (e : Int) : Int :=
  max ((ilog2 m : Int) + e - (f.mb : Int)) (1 - (f.bias : Int) - (f.mb : Int))

/-- The exponent of the smallest spacing. -/
def Fmt.qmin (f : Fmt) : Int := 1 - (f.bias : Int) - (f.mb : Int)

/-- The largest grid multiple not above m · 2^e at spacing 2^q, and the remainder out of `2^k`. -/
def splitGrid (m : Nat) (e q : Int) : Nat × Nat × Nat :=
  if q ≤ e then (m * 2 ^ (e - q).toNat, 0, 0)
  else
    let k := (q - e).toNat
    (m / 2 ^ k, m % 2 ^ k, k)

/-- How a result is rounded: to nearest even, or stochastically with a 16-bit random number (R182, R183). -/
inductive Rnd where
  | ne
  | sr (r : Nat)
  deriving DecidableEq, Repr

/-- The grid multiple that m · 2^e rounds to at spacing 2^q. -/
def roundGrid (rnd : Rnd) (m : Nat) (e q : Int) : Nat :=
  let (lo, rem, k) := splitGrid m e q
  match rnd with
  | .ne => if 2 ^ k < 2 * rem || (2 * rem == 2 ^ k && k != 0 && lo % 2 == 1) then lo + 1 else lo
  | .sr r => if 65536 ≤ rem * 65536 / 2 ^ k + r then lo + 1 else lo

/-- The magnitude code of infinity: exponent all ones, mantissa 0. -/
def Fmt.infCode (f : Fmt) : Nat := (2 ^ f.eb - 1) * 2 ^ f.mb

/-- The code of the largest finite magnitude (R165). -/
def Fmt.maxCode (f : Fmt) : Nat :=
  if f.special == 0 then f.infCode - 1 else if f.special == 1 then 2 ^ (f.eb + f.mb) - 2 else 2 ^ (f.eb + f.mb) - 1

/-- Magnitude code of the nearest grid value, before any overflow rule: exponent and mantissa fields together. -/
def Fmt.magCode (f : Fmt) (rnd : Rnd) (m : Nat) (e : Int) : Nat :=
  if m == 0 then 0
  else
    let q := f.grid m e
    (q - f.qmin).toNat * 2 ^ f.mb + roundGrid rnd m e q

/-- The canonical NaN code (R167). -/
def Fmt.nanCode (f : Fmt) : Nat :=
  if f.special == 1 then 2 ^ (f.eb + f.mb) - 1
  else if f.eb == 5 && f.mb == 2 then 0x7F
  else f.infCode + 2 ^ (f.mb - 1)

/-- The code of a value in a format, with the overflow rule of R181 for formats with infinities and of R180 for the
others. -/
def Fmt.encode (f : Fmt) (rnd : Rnd) : FV → Nat
  | .nan => f.nanCode
  | .inf s => b2n s * 2 ^ (f.eb + f.mb) + (if f.special == 0 then f.infCode else f.maxCode)
  | .fin s m e =>
    let c := f.magCode rnd m e
    let c := if f.special == 0 then Nat.min c f.infCode else Nat.min c f.maxCode
    b2n s * 2 ^ (f.eb + f.mb) + c

/-- The exact value of a code (R165). -/
def Fmt.decode (f : Fmt) (c : Nat) : FV :=
  let s := bit c (f.eb + f.mb)
  let x := (c / 2 ^ f.mb) % 2 ^ f.eb
  let m := c % 2 ^ f.mb
  if f.special == 0 && x == 2 ^ f.eb - 1 then (if m == 0 then .inf s else .nan)
  else if f.special == 1 && x == 2 ^ f.eb - 1 && m == 2 ^ f.mb - 1 then .nan
  else if x == 0 then .fin s m f.qmin
  else .fin s (m + 2 ^ f.mb) (f.qmin + (x : Int) - 1)

/-- Round to FP32, to nearest even (R197). -/
def rne32 (v : FV) : FV :=
  match v with
  | .fin s m e => Fmt.fp32.decode (Fmt.fp32.encode .ne (.fin s m e))
  | v => v

/-- The FP32 word of a value. -/
def f32bits (v : FV) : BitVec 32 := BitVec.ofNat 32 (Fmt.fp32.encode .ne v)

/-- The value of an FP32 word. -/
def f32 (w : BitVec 32) : FV := Fmt.fp32.decode w.toNat

/-- The value of an FP32 word given as a number. -/
def f32n (n : Nat) : FV := Fmt.fp32.decode n

def addr32 (a b : FV) : FV := rne32 (a.add b)
def subr32 (a b : FV) : FV := rne32 (a.sub b)
def mulr32 (a b : FV) : FV := rne32 (a.mul b)

/-- a × b + c with one rounding. -/
def fma32 (a b c : FV) : FV := rne32 ((a.mul b).add c)

/-- num / den in exact-enough dyadic form: the quotient truncated to at least 64 bits with a sticky bit, which rounds as
the quotient itself does to any format of the part. -/
def ratio (neg : Bool) (num den : Nat) : FV :=
  if num == 0 then .fin neg 0 0
  else
    let sh := 72 + ilog2 den
    let q := num * 2 ^ sh / den
    let st := if num * 2 ^ sh % den == 0 then 0 else 1
    .fin neg (2 * q + st) (-(sh : Int) - 1)

/-- The exact quotient of two finite values, in the form of `ratio`. -/
def divx : FV → FV → FV
  | .fin s m e, .fin t n f => if n == 0 then .nan else (ratio (s != t) m n).scale (e - f)
  | _, _ => .nan

/-- crecip: 1/n rounded once to FP32 (R214); the part never asks for 1/0, which is given the value NaN of a record with
n = 0 (R218). -/
def crecip (n : Nat) : FV := if n == 0 then .nan else rne32 (ratio false 1 n)

/-- Adjacent elements combined: one level of the fixed tree (R178). -/
def pairUp (op : FV → FV → FV) : List FV → List FV
  | a :: b :: t => op a b :: pairUp op t
  | l => l

/-- The fixed tree of R178 over `2^k` leaves. -/
def treeRed (op : FV → FV → FV) : Nat → List FV → FV
  | 0, l => l.headD FV.zero
  | k + 1, l => treeRed op k (pairUp op l)

/-- A list cut or filled to exactly `n` leaves. -/
def padTo (n : Nat) (v : FV) (l : List FV) : List FV := l.take n ++ List.replicate (n - l.length) v

/-- The tree sum over 512 leaves, out-of-bound leaves at 0 (R178, R215). -/
def treeSum512 (l : List FV) : FV := treeRed addr32 9 (padTo 512 FV.zero l)

/-- The tree sum and maximum over 256 leaves (R224, R232). -/
def treeSum256 (l : List FV) : FV := treeRed addr32 8 (padTo 256 FV.zero l)
def treeMax256 (l : List FV) : FV := treeRed FV.max 8 (padTo 256 (.inf true) l)

/-- A list cut into runs of `n`. -/
def chunksAux {α : Type} (n : Nat) : Nat → List α → List (List α)
  | 0, _ => []
  | k + 1, l => if l.isEmpty then [] else l.take n :: chunksAux n k (l.drop n)

def chunks {α : Type} (n : Nat) (l : List α) : List (List α) := chunksAux n l.length l

/-- Fold of a non-empty list from its first element. -/
def fold1 {α : Type} (op : α → α → α) (dflt : α) : List α → α
  | [] => dflt
  | a :: t => t.foldl op a

/-- The mixing function of the generator (R184), on unsigned 32-bit values. -/
def mix (x : BitVec 32) : BitVec 32 :=
  let x := x ^^^ (x >>> 16)
  let x := x * 0x6c8e9cf5#32
  let x := x ^^^ (x >>> 15)
  let x := x * 0x9a3b4d27#32
  x ^^^ (x >>> 15)

/-- sr_word (R184): coordinates counted from 0, 0 at and above the rank. -/
def srWord (seed : BitVec 64) (salt : BitVec 32) (c : List Nat) : BitVec 32 :=
  let h := mix (seed.truncate 32 ^^^ salt)
  let h := mix (h ^^^ (seed >>> 32).truncate 32)
  (List.range 6).foldl (fun h d => mix (h ^^^ BitVec.ofNat 32 (nth c d) ^^^ BitVec.ofNat 32 (d * 2 ^ 24))) h

/-- The rounding of an element: `RND` 1 draws r from the generator (R182, R184). -/
def rndOf (sr : Bool) (seed : BitVec 64) (salt : BitVec 32) (c : List Nat) : Rnd :=
  if sr then .sr ((srWord seed salt c).toNat / 2 ^ 16) else .ne

/-- Element width in bits (R67, R168). -/
def DType.bits : DType → Nat
  | .fp32 => 32
  | .bf16 => 16
  | .fp16 => 16
  | .e4m3 => 8
  | .e5m2 => 8
  | .e2m3 => 6
  | .e3m2 => 6
  | .mxfp4 => 4
  | .mxint8 => 8
  | .ov4o => 4
  | .int32 => 32
  | .uint32 => 32
  | .uint16 => 16
  | .uint8 => 8

/-- Formats held in 32-element blocks (R166, R472). -/
def DType.isMx : DType → Bool
  | .e4m3 | .e5m2 | .e2m3 | .e3m2 | .mxfp4 | .mxint8 | .ov4o => true
  | _ => false

/-- FP32, BF16, FP16. -/
def DType.isFp : DType → Bool
  | .fp32 | .bf16 | .fp16 => true
  | _ => false

/-- BF16 or FP16. -/
def DType.isHalf : DType → Bool
  | .bf16 | .fp16 => true
  | _ => false

/-- The element encoding of a format. -/
def DType.fmt : DType → Fmt
  | .bf16 => .bf16
  | .fp16 => .fp16
  | .e4m3 => .e4m3
  | .e5m2 => .e5m2
  | .e2m3 => .e2m3
  | .e3m2 => .e3m2
  | .mxfp4 => .e2m1
  | .ov4o => .e2m1
  | _ => .fp32

/-- The cost factor c of R172. -/
def DType.cost : DType → Nat
  | .mxfp4 | .ov4o => 1
  | .bf16 | .fp16 => 4
  | .fp32 => 4
  | _ => 2

/-- The code table of R67. -/
def DType.ofCode : Nat → Option DType
  | 0x01 => some .fp32
  | 0x02 => some .bf16
  | 0x03 => some .fp16
  | 0x04 => some .e4m3
  | 0x05 => some .e5m2
  | 0x06 => some .e2m3
  | 0x07 => some .e3m2
  | 0x08 => some .mxfp4
  | 0x09 => some .mxint8
  | 0x0A => some .ov4o
  | 0x10 => some .int32
  | 0x11 => some .uint32
  | 0x12 => some .uint16
  | 0x13 => some .uint8
  | _ => none

/-- The element value of a code, without any block scale (R165, R166); integers by value. -/
def DType.elem (d : DType) (c : Nat) : FV :=
  match d with
  | .mxint8 => (FV.ofInt (sgn 8 c)).scale (-6)
  | .int32 => FV.ofInt (sgn 32 c)
  | .uint32 | .uint16 | .uint8 => FV.ofNat c
  | d => d.fmt.decode c

/-- The exponent of an E8M0 scale code, none for NaN (R166). -/
def e8m0 (c : Nat) : Option Int := if c == 0xFF then none else some ((c : Int) - 127)

/-- An element decoded with its block scale (R166). -/
def DType.scaled (d : DType) (c sc : Nat) : FV :=
  match e8m0 sc with
  | none => .nan
  | some e => (d.elem c).scale e

/-- Exactly decoded to FP32: values beyond its range become infinity of their sign (R178). -/
def toF32 (v : FV) : FV := rne32 v

/-- emax of R180: the exponent of the largest finite element value. -/
def DType.emax : DType → Int
  | .e3m2 => 4
  | .e4m3 => 8
  | .e5m2 => 15
  | .mxint8 => 0
  | _ => 2

/-- floor(log2 |v|) of a finite value that is not zero. -/
def FV.expo : FV → Int
  | .fin _ m e => (ilog2 m : Int) + e
  | _ => 0

/-- The element code of x / 2^e under the selected mode, clamped to the largest finite value (R180, step 4). -/
def DType.elemCode (d : DType) (rnd : Rnd) (v : FV) (e : Int) : Nat :=
  match d, v with
  | .mxint8, .fin s m x =>
    let g := Nat.min (roundGrid rnd m (x - e) (-6)) 127
    if s then (256 - g) % 256 else g
  | d, .fin s m x =>
    let f := d.fmt
    b2n s * 2 ^ (f.eb + f.mb) + Nat.min (f.magCode rnd m (x - e)) f.maxCode
  | _, _ => 0

/-- The largest magnitude of a block of finite values. -/
def amaxOf (l : List FV) : FV := l.foldl (fun a v => if FV.lt a v.abs then v.abs else a) FV.zero

/-- The scale exponent of a block from the values that set it: none when one is NaN or infinite, and `some none` when
all are zero (R180, steps 1 to 3). -/
def DType.blockExp (d : DType) (vs : List FV) : Option (Option Int) :=
  if vs.any (fun v => !v.isFin) then none
  else
    let a := amaxOf vs
    if a.isZero then some none else some (some (max (-127) (min 127 (a.expo - d.emax))))

/-- A block written to an MX format or MXINT8 (R180): scale code and element codes. -/
def DType.encodeBlock (d : DType) (vs : List (FV × Rnd)) : Nat × List Nat :=
  match d.blockExp (vs.map Prod.fst) with
  | none => (0xFF, vs.map (fun _ => 0))
  | some none => (0, vs.map (fun _ => 0))
  | some (some e) => ((e + 127).toNat, vs.map (fun p => d.elemCode p.2 p.1 e))

/-- A scalar code written under R181 (FP32, BF16, FP16); other formats by their integer value. -/
def DType.encodeScalar (d : DType) (rnd : Rnd) (v : FV) : Nat := d.fmt.encode rnd v

/-- The exact sum of a list of products (R173, step 1). -/
def sumx (l : List FV) : FV := l.foldl FV.add FV.zero

end Sys2Proof.Machine
end

