-- ==== Sys2Proof/Machine/Sfn.lean ====
section
/-! DEFINITION. The special functions (07): the tables by their generating rules (R198), the iterations on a fixed-point
grid (R197 to R201), the parameters of the compatibility mode (R205), the composite activations (R204), the special
inputs (R195) and the programmable lookup (R206, R207). -/

namespace Sys2Proof.Machine

/-- Ties-to-even quotient of an integer by 2^k. -/
def rneShift (n : Int) (k : Nat) : Int :=
  let d : Int := ((2 ^ k : Nat) : Int)
  let lo := n / d
  let r := n % d
  if d < 2 * r || (2 * r == d && lo % 2 == 1) then lo + 1 else lo

/-- Parameters of the unit (R205): fx grid, seed width, segment counts, Newton steps, first k of each recurrence, and
the small-argument exponent. -/
structure SfnP where
  g : Nat
  w : Nat
  nRecip : Nat
  newton : Nat
  nRsqrt : Nat
  nExp : Nat
  kExp : Nat
  nLog : Nat
  kLog : Nat
  nTrig : Nat
  kTrig : Nat
  small : Nat
  deriving DecidableEq, Repr

def SfnP.native : SfnP := ⟨64, 16, 128, 3, 64, 64, 8, 64, 7, 32, 6, 20⟩
def SfnP.compat : SfnP := ⟨32, 12, 64, 2, 32, 32, 7, 32, 6, 16, 5, 12⟩

namespace SfnP

/-- Working precision of the table generator, in bits. -/
def wp : Nat := 192

/-- Nearest integer of a / b. -/
def near (a b : Nat) : Nat := (2 * a + b) / (2 * b)

/-- Σ (p/q)^(2j+1) / (2j+1) at `wp` bits, with alternating signs when `alt`. -/
def series (alt : Bool) (p q : Nat) : Nat → Nat → Nat → Int → Int
  | 0, _, _, acc => acc
  | n + 1, j, z, acc =>
    let t : Int := ((z / (2 * j + 1) : Nat) : Int)
    series alt p q n (j + 1) (z * p * p / (q * q)) (if alt && j % 2 == 1 then acc - t else acc + t)

def atanhR (p q : Nat) : Nat := (series false p q 100 0 (2 ^ wp * p / q) 0).toNat
def atanR (p q : Nat) : Nat := (series true p q 100 0 (2 ^ wp * p / q) 0).toNat

def ln2 : Nat := 2 * atanhR 1 3
def piW : Nat := 16 * atanR 1 5 - 4 * atanR 1 239

/-- log₂(a/b) at grid 2^−g, for a ≥ b. -/
def logQ (g a b : Nat) : Nat := near (2 * atanhR (a - b) (a + b) * 2 ^ g) ln2

/-- Largest N below 2^bits with `ok N`, for a downward closed `ok`. -/
def bisect (ok : Nat → Bool) : Nat → Nat → Nat
  | 0, r => r
  | b + 1, r => bisect ok b (if ok (r + 2 ^ b) then r + 2 ^ b else r)

def half (n : Nat) : Nat := (n + 1) / 2

/-- Terms of sin and cos of x / 2^wp. -/
def sinT (x : Nat) : Nat → Nat → Nat → Int → Int
  | 0, _, _, acc => acc
  | n + 1, j, t, acc =>
    let t' := t * x / 2 ^ wp * x / 2 ^ wp / ((2 * j + 2) * (2 * j + 3))
    sinT x n (j + 1) t' (if j % 2 == 1 then acc - t else acc + t)

def cosT (x : Nat) : Nat → Nat → Nat → Int → Int
  | 0, _, _, acc => acc
  | n + 1, j, t, acc =>
    let t' := t * x / 2 ^ wp * x / 2 ^ wp / ((2 * j + 1) * (2 * j + 2))
    cosT x n (j + 1) t' (if j % 2 == 1 then acc - t else acc + t)

/-- The tables of R198, each entry by its generating rule. -/
def tRecip (p : SfnP) (i : Nat) : Nat := near (2 * p.nRecip * 2 ^ p.w) (2 * p.nRecip + 2 * i + 1)

def tRsqrt (p : SfnP) (i : Nat) : Nat :=
  let (num, den) := if i < p.nRsqrt then (2 * p.nRsqrt + 2 * i + 1, 2 * p.nRsqrt)
    else (2 * p.nRsqrt + 2 * (i - p.nRsqrt) + 1, p.nRsqrt)
  half (bisect (fun n => n * n * num ≤ 4 * 2 ^ (2 * p.w) * den) (p.w + 2) 0)

def tExp2 (p : SfnP) (i : Nat) : Nat :=
  half (bisect (fun n => n ^ (2 * p.nExp) ≤ 2 ^ ((p.g + 1) * (2 * p.nExp) + 2 * i + 1)) (p.g + 2) 0)

def tLog2 (p : SfnP) (i : Nat) : Nat := logQ p.g (2 * p.nLog + 2 * i + 1) (2 * p.nLog)

def ang (p : SfnP) (i : Nat) : Nat := piW * (2 * i + 1) / (4 * p.nTrig)

def tSin (p : SfnP) (i : Nat) : Nat := near ((sinT (ang p i) 40 0 (ang p i) 0).toNat * 2 ^ p.g) (2 ^ wp)
def tCos (p : SfnP) (i : Nat) : Nat := near ((cosT (ang p i) 40 0 (2 ^ wp) 0).toNat * 2 ^ p.g) (2 ^ wp)

def lp (p : SfnP) (k : Nat) : Int := (logQ p.g (2 ^ k + 1) (2 ^ k) : Nat)
def lm (p : SfnP) (k : Nat) : Int := -((logQ p.g (2 ^ k) (2 ^ k - 1) : Nat) : Int)
def atk (p : SfnP) (k : Nat) : Int := (near (atanR 1 (2 ^ k) * 2 ^ p.g) (2 ^ wp) : Nat)
def pio2 (p : SfnP) : Int := (near (piW * 2 ^ p.g) (2 ^ (wp + 1)) : Nat)
def twopi (p : SfnP) : Int := (near (piW * 2 ^ (p.g + 1)) (2 ^ wp) : Nat)

def ks (p : SfnP) (k0 : Nat) : List Nat := List.range' k0 (p.g + 1 - k0)

def kinv (p : SfnP) : Int :=
  let l := p.ks p.kTrig
  let num := 2 ^ (l.foldl (fun a k => a + 2 * k) 0)
  let den := l.foldl (fun a k => a * (2 ^ (2 * k) + 1)) 1
  (half (bisect (fun n => n * n * den ≤ 4 * 2 ^ (2 * p.g) * num) (p.g + 2) 0) : Nat)

/-- fx of a / 2^k, as a multiple of 2^−g (R197). -/
def fxQ (p : SfnP) (a : Int) (k : Nat) : Int := rneShift (a * ((2 ^ p.g : Nat) : Int)) k

/-- fx of a product of two grid values. -/
def fxM (p : SfnP) (a b : Int) : Int := rneShift (a * b) p.g

/-- The FP32 value nearest a grid value times 2^e. -/
def out (p : SfnP) (a e : Int) : FV := rne32 (.fin (a < 0) a.natAbs (e - (p.g : Int)))

/-- frac_exp (R197): the mantissa on the grid and the exponent. -/
def fracExp (p : SfnP) (m : Nat) (e : Int) : Int × Int :=
  let k := ilog2 m
  (((m * 2 ^ p.g / 2 ^ k : Nat) : Int), e + (k : Int))

def grid1 (p : SfnP) : Int := ((2 ^ p.g : Nat) : Int)

def recipCore (p : SfnP) (m : Int) : Int :=
  let i := ((m - p.grid1) * (p.nRecip : Int) / p.grid1).toNat
  let y0 : Int := ((p.tRecip i * 2 ^ (p.g - p.w) : Nat) : Int)
  (List.range p.newton).foldl (fun y _ => p.fxM y (2 * p.grid1 - p.fxM m y)) y0

def rsqrtCore (p : SfnP) (m : Int) : Int :=
  let i := if m < 2 * p.grid1 then ((m - p.grid1) * (p.nRsqrt : Int) / p.grid1).toNat
    else p.nRsqrt + ((m - 2 * p.grid1) * ((p.nRsqrt / 2 : Nat) : Int) / p.grid1).toNat
  let y0 : Int := ((p.tRsqrt i * 2 ^ (p.g - p.w) : Nat) : Int)
  (List.range p.newton).foldl
    (fun y _ => rneShift (p.fxM y (3 * p.grid1 - p.fxM m (p.fxM y y))) 1) y0

/-- even (R199): the exponent made even. -/
def even (p : SfnP) (m : Nat) (e : Int) : Int × Int :=
  let (f, x) := p.fracExp m e
  if x % 2 != 0 then (2 * f, x - 1) else (f, x)

def recip (p : SfnP) : FV → FV
  | .nan => .nan
  | .inf s => .fin s 0 0
  | .fin s m e =>
    if m == 0 then .inf s
    else
      let (f, x) := p.fracExp m e
      let v := p.out (p.recipCore f) (-x)
      if s then v.neg else v

def rsqrt (p : SfnP) : FV → FV
  | .nan => .nan
  | .inf s => if s then .nan else .zero
  | .fin s m e =>
    if m == 0 then .inf s
    else if s then .nan
    else
      let (f, x) := p.even m e
      p.out (p.rsqrtCore f) (-(x / 2))

def sqrt (p : SfnP) : FV → FV
  | .nan => .nan
  | .inf s => if s then .nan else .inf false
  | .fin s m e =>
    if m == 0 then .fin s 0 0
    else if s then .nan
    else
      let (f, x) := p.even m e
      let y := p.rsqrtCore f
      let s0 := p.fxM f y
      let s1 := s0 + rneShift (p.fxM y (f - p.fxM s0 s0)) 1
      p.out s1 (x / 2)

/-- One step of the exp2 recurrence (R200). -/
def exp2Step (p : SfnP) (st : Int × Int) (k : Nat) : Int × Int :=
  let (pr, r) := st
  if p.lp k ≤ 2 * r then (rneShift (pr * ((2 ^ k + 1 : Nat) : Int)) k, r - p.lp k)
  else if 2 * r ≤ p.lm k then (rneShift (pr * ((2 ^ k - 1 : Nat) : Int)) k, r - p.lm k)
  else (pr, r)

def exp2 (p : SfnP) : FV → FV
  | .nan => .nan
  | .inf s => if s then .zero else .inf false
  | .fin s m e =>
    if m == 0 then .one
    else if FV.le (.fin s m e) (.fin true 150 0) then .zero
    else if FV.le (.fin false 128 0) (.fin s m e) then .inf false
    else
      let k := if 0 ≤ e then 0 else (-e).toNat
      let v := FV.at0 s m e (-(k : Int))
      let d : Int := ((2 ^ k : Nat) : Int)
      let n := v / d
      let f := v % d
      let i := (f * (p.nExp : Int) / d).toNat
      let r := p.fxQ (f * ((2 * p.nExp : Nat) : Int) - ((2 * i + 1 : Nat) : Int) * d) (k + 1 + ilog2 p.nExp)
      let pr := ((p.ks p.kExp).foldl p.exp2Step (((p.tExp2 i : Nat) : Int), r)).1
      p.out pr n

/-- One step of the log2 recurrence (R200). -/
def log2Step (p : SfnP) (c : Int) (st : Int × Int) (k : Nat) : Int × Int :=
  let (w, a) := st
  let up := rneShift (w * ((2 ^ k + 1 : Nat) : Int)) k
  let dn := rneShift (w * ((2 ^ k - 1 : Nat) : Int)) k
  if w < c && up ≤ c then (up, a - p.lp k)
  else if c < w && c ≤ dn then (dn, a - p.lm k)
  else (w, a)

def log2 (p : SfnP) : FV → FV
  | .nan => .nan
  | .inf s => if s then .nan else .inf false
  | .fin s m e =>
    if m == 0 then .inf true
    else if s then .nan
    else
      let (f, x) := p.fracExp m e
      if f == p.grid1 then FV.ofInt x
      else
        let i := ((f - p.grid1) * (p.nLog : Int) / p.grid1).toNat
        let c := p.grid1 + ((2 * i + 1 : Nat) : Int) * p.grid1 / ((2 * p.nLog : Nat) : Int)
        let a := ((p.ks p.kLog).foldl (p.log2Step c) (f, ((p.tLog2 i : Nat) : Int))).2
        p.out (x * p.grid1 + a) 0

/-- One rotation (R201): xs, ys and the residual angle. -/
def rotStep (p : SfnP) (st : Int × Int × Int) (k : Nat) : Int × Int × Int :=
  let (x, y, z) := st
  let d : Int := if 0 ≤ z then 1 else -1
  let two : Int := ((2 ^ k : Nat) : Int)
  (rneShift (x * two - d * y) k, rneShift (y * two + d * x) k, z - d * p.atk k)

/-- sincos (R201), with the special inputs of R195. -/
def sincos (p : SfnP) : FV → FV × FV
  | .nan => (.nan, .nan)
  | .inf _ => (.nan, .nan)
  | .fin s m e =>
    if m == 0 then (.fin s 0 0, .one)
    else if FV.lt (.fin false m e) (.fin false 1 (-(p.small : Int))) then
      (rne32 (.fin s (m * p.twopi.toNat) (e - (p.g : Int))), .one)
    else
      let e4 := e + 2
      let k := if 0 ≤ e4 then 0 else (-e4).toNat
      let u := m * 2 ^ (e4 + (k : Int)).toNat
      let q := u / 2 ^ k % 4
      let r := u % 2 ^ k
      let (sq, cq) : Int × Int :=
        if r == 0 then (0, p.grid1)
        else
          let i := r * p.nTrig / 2 ^ k
          let num := ((r * (2 * p.nTrig) : Nat) : Int) - (((2 * i + 1) * 2 ^ k : Nat) : Int)
          let z := rneShift (num * p.pio2) (k + 1 + ilog2 p.nTrig)
          let (xs, ys, _) := (p.ks p.kTrig).foldl p.rotStep (((p.tCos i : Nat) : Int), ((p.tSin i : Nat) : Int), z)
          (p.fxM ys p.kinv, p.fxM xs p.kinv)
      let (a, b) := if q == 0 then (sq, cq) else if q == 1 then (cq, -sq) else if q == 2 then (-sq, -cq) else (-cq, sq)
      (p.out (if s then -a else a) 0, p.out b 0)

/-- log2e, √(2/π), 0.044715 and 1/(2π), each the nearest FP32 value (R204, R211). -/
def log2e : FV := f32n 0x3FB8AA3B
def gG : FV := f32n 0x3F4C422A
def gH : FV := f32n 0x3D372713
def inv2pi : FV := f32n 0x3E22F983

def sigmoid (p : SfnP) : FV → FV
  | .nan => .nan
  | .inf s => if s then .zero else .one
  | x => if x.isZero then .fin false 1 (-1) else p.recip (addr32 .one (p.exp2 (mulr32 x log2e).neg))

def tanh (p : SfnP) : FV → FV
  | .nan => .nan
  | .inf s => .fin s 1 0
  | x =>
    if FV.lt x.abs (.fin false 1 (-12)) then x
    else
      let q := p.recip (addr32 .one (p.exp2 (rne32 ((x.abs.scale 1).mul log2e))))
      let v := subr32 .one (rne32 (q.scale 1))
      if x.negSign then v.neg else v

def silu (p : SfnP) : FV → FV
  | .nan => .nan
  | .inf s => if s then .fin true 0 0 else .inf false
  | x => if x.isZero then x else mulr32 x (p.sigmoid x)

def gelu (p : SfnP) : FV → FV
  | .nan => .nan
  | .inf s => if s then .fin true 0 0 else .inf false
  | x =>
    if x.isZero then x
    else
      let c := mulr32 gH (mulr32 x (mulr32 x x))
      mulr32 (rne32 (x.scale (-1))) (addr32 .one (p.tanh (mulr32 gG (addr32 x c))))

end SfnP

/-- A lookup table as read from its 1,088 bytes (R206). -/
structure Lut where
  lo : FV
  scale : FV
  tails : Nat
  pass : Bool
  e : List FV
  deriving DecidableEq, Repr

def Lut.ofBytes (b : List Byte) : Lut :=
  { lo := f32n (fld b 0 4), scale := f32n (fld b 4 4), tails := fld b 8 1, pass := bit (fld b 9 1) 0,
    e := (List.range 256).map (fun i => f32n (fld b (64 + 4 * i) 4)) }

/-- The tail of R207. -/
def Lut.tail (t : Lut) (mode j nb : Nat) (x u : FV) : FV :=
  let ej := t.e.getD j .zero
  if mode == 1 then x
  else if mode == 2 then
    let sl := subr32 ej (t.e.getD nb .zero)
    fma32 (subr32 u (.ofNat j)) (if j == 255 then sl else sl.neg) ej
  else ej

/-- floor of a finite value that is not negative. -/
def FV.floorNat : FV → Nat
  | .fin false m e => if 0 ≤ e then m * 2 ^ e.toNat else m / 2 ^ (-e).toNat
  | _ => 0

/-- floor of a finite value. -/
def FV.floorInt : FV → Int
  | .fin s m e =>
    let k := if 0 ≤ e then 0 else (-e).toNat
    FV.at0 s m e (-(k : Int)) / ((2 ^ k : Nat) : Int)
  | _ => 0

/-- lookup (R207). A NaN index, which only an infinite or NaN table field gives, is the NaN that its arithmetic makes. -/
def Lut.eval (t : Lut) (x : FV) : FV :=
  if t.pass then x
  else if x.isNan then .nan
  else
    let u := mulr32 (subr32 x t.lo) t.scale
    if u.isNan then .nan
    else if FV.lt u .zero then t.tail (t.tails % 4) 0 1 x u
    else if FV.le (.ofNat 255) u then t.tail (t.tails / 4 % 4) 255 254 x u
    else
      let i := u.floorNat
      let ei := t.e.getD i .zero
      fma32 (rne32 (u.sub (.ofNat i))) (subr32 (t.e.getD (i + 1) .zero) ei) ei

/-- The function of a `FUNC` code on a prescaled input (R195, R204, R207). -/
def sfnFunc (p : SfnP) (func : Nat) (lut : Lut) (x : FV) : FV :=
  match func with
  | 0 => p.recip x
  | 1 => p.rsqrt x
  | 2 => p.sqrt x
  | 3 => p.exp2 x
  | 4 => p.log2 x
  | 5 => (p.sincos x).1
  | 6 => (p.sincos x).2
  | 7 => p.sigmoid x
  | 8 => p.tanh x
  | 9 => p.silu x
  | 10 => p.gelu x
  | _ => lut.eval x

end Sys2Proof.Machine
end

