-- ==== Sys2Proof/Machine/Operands.lean ====
section
/-! DEFINITION. Operands: macro-instructions and their malformed forms (R54 to R65, R94 to R99), tensor descriptors and
their bounds (R66 to R71), rows and their compression (R168, R169, R187 to R189, R258 to R273), elements read and
written under the formats of 06 (R165 to R167, R180 to R184). -/

namespace Sys2Proof.Machine

/-- Why an issue or a Kerb command stops: the fault class and `FINFO`. -/
inductive Err where
  | fault (cls : FClass) (info : Nat)
  deriving DecidableEq, Repr

/-- A computation that reads memory and may end in a fault. -/
abbrev M := ExceptT Err (StateM Dev)

def M.fail {α : Type} (cls : FClass) (info : Nat) : M α := throw (.fault cls info)
def M.need (b : Bool) (cls : FClass) : M Unit := if b then pure () else M.fail cls 0

/-- An address field or `BASE` (R64, R66): absolute, or an offset in a region. -/
def Program.addr (p : Program) (f : Nat) : Nat :=
  if bit f 47 then f % 2 ^ 47 else p.rbase.getD (bits f 46 41) 0 + f % 2 ^ 41

/-- Address of the descriptor table (R53, R329). -/
def Program.table (p : Program) : Nat := p.rbase.getD ((p.parts.getD p.descPart {}).region) 0

/-- Address of the lookup directory (R208), of the compression directory and of a bank (R269). -/
def Program.lutDir (p : Program) : Nat := p.table + 64 * p.nDesc
def Program.ctDir (p : Program) : Nat := p.rbase.getD ((p.parts.getD p.tablePart {}).region) 0
def Program.ctBank (p : Program) (slot bank : Nat) : Nat := p.ctDir + 8192 + 2048 * slot + 1024 * bank

/-- A tensor descriptor as stored (R66). -/
structure Desc where
  base : Nat
  dtype : DType
  rank : Nat
  comp : Nat
  chint : Nat
  dim : List Nat
  stride : List Nat
  src : List (Nat × Nat)
  ctab : Nat
  deriving DecidableEq, Repr

/-- Bits an element takes in a row (R168, R261): CB4 and CB6 code their elements. -/
def elBits (dt : DType) (comp : Nat) : Nat := if comp == 1 then 4 else if comp == 2 then 6 else dt.bits

/-- Whether a row has a scale area (R169). -/
def hasScale (dt : DType) (comp : Nat) : Bool := dt.isMx || comp == 1 || comp == 2

/-- The values area of a row, and the whole row, in bytes (R169). -/
def valBytes (dt : DType) (comp a0 : Nat) : Nat := cdiv (a0 * elBits dt comp) 512 * 64
def rowBytes (dt : DType) (comp a0 : Nat) : Nat :=
  valBytes dt comp a0 + (if hasScale dt comp then cdiv a0 2048 * 64 else 0)

/-- A descriptor read from its 64 bytes, none when it is malformed (R13, R67, R68, R170, R258). -/
def Desc.parse (b : List Byte) (hasBlock : Bool) : Option Desc :=
  let fmt := fld b 6 2
  let strides := fld b 26 27
  let dim := (List.range 6).map (fun i => fld b (8 + 3 * i) 3)
  let stride := (List.range 6).map (fun i => bits strides (36 * i + 35) (36 * i))
  let src := (List.range 6).map (fun i => (fld b (53 + i) 1 / 64, fld b (53 + i) 1 % 64))
  let rank := bits fmt 8 6
  let comp := bits fmt 11 9
  let ctab := fld b 59 2
  match DType.ofCode (bits fmt 5 0) with
  | none => none
  | some dt =>
    let ok := 1 ≤ rank && rank ≤ 6 && comp ≤ 3 && bits fmt 13 12 ≤ 2 && fmt / 2 ^ 14 == 0 && ctab / 2 ^ 10 == 0
      && zeros b 61 3 && fld b 0 6 % 64 == 0 && stride.getD 0 0 == 0 && stride.all (fun s => s % 64 == 0)
      && src.all (fun s => s.1 ≤ 2 && (s.1 != 0 || s.2 == 0) && (s.1 != 2 || hasBlock))
      && (List.range 6).all (fun i => i < rank || (dim.getD i 0 == 0 && stride.getD i 0 == 0 && src.getD i (0, 0) == (0, 0)))
      && (!(hasScale dt comp) || dim.getD 0 0 % 32 == 0)
      && (comp == 0 || (if comp == 3 then dt != .ov4o else dt.isFp))
    if ok then some { base := fld b 0 6, dtype := dt, rank := rank, comp := comp, chint := bits fmt 13 12, dim := dim,
                      stride := stride, src := src, ctab := ctab }
    else none

/-- Allocations with 1 above the rank. -/
def Desc.allocs (x : Desc) : List Nat := (List.range 6).map (fun i => if i < x.rank then x.dim.getD i 0 else 1)

/-- Rows of a tensor by its allocations. -/
def prodFrom1 (l : List Nat) : Nat := (l.drop 1).foldl (fun a b => a * b) 1

/-- Blocks of a compressed row (R258). -/
def rowBlocks (dt : DType) (comp a0 : Nat) : Nat := if comp == 3 then cdiv (rowBytes dt comp a0) 4096 else 1

/-- The dispatcher's own reads: no allocation, in `BULK`. -/
def Access.plain : Access := { alloc := false, chint := 1, cls := 0 }

/-- A few bytes read as a control value: an unbacked address faults, and poison is consumed (R69, R425). -/
def readCtl (a n : Nat) : M (List Byte) := do
  match (← get).unbacked a n with
  | some x => M.fail .address x
  | none =>
    let (r, d) := (← get).fetch Access.plain a n
    set d
    match r.2.head? with
    | some l => M.fail .poison l
    | none => pure r.1

/-- A descriptor read from the table; malformed is a fault of class `cls` (ILLEGAL at issue, KERB for a Kerb command).
Log 75 (DESIGN CHOICE). -/
def readDesc (p : Program) (cls : FClass) (i : Nat) : M Desc := do
  if p.nDesc ≤ i then M.fail cls 0
  else
    let b ← readCtl (p.table + 64 * i) 64
    match Desc.parse b p.boundBlock.isSome with
    | some x => pure x
    | none => M.fail cls 0

/-- An extent, as its source gives it at issue (R70, R73). -/
def readExt (ctx : Nat) (p : Program) (x : Desc) (i : Nat) : M Nat := do
  if x.rank ≤ i then pure 1
  else
    let (s, r) := x.src.getD i (0, 0)
    if s == 0 then pure (x.dim.getD i 0)
    else if s == 1 then pure ((← get).boundVal ctx r)
    else
      let b ← readCtl ((p.boundBlock.getD 0) + 4 * r) 4
      pure (leNat b)

/-- Tiles of 128 × 128 by allocations, as R187 counts slots. -/
def sideTiles (a : List Nat) : Nat :=
  cdiv (nth a 0) 128 * cdiv (nth a 1) 128 * nth a 2 * nth a 3 * nth a 4 * nth a 5

/-- A descriptor that an issue names, as the table holds it, and the companion or side list that follows it. -/
structure Named where
  i : Nat
  x : Desc
  y : Option Desc

/-- Whether the descriptor after another serves as its side list (R187) or as its companion (R258), its own `COMP` aside. -/
def auxOk (x y : Desc) : Bool :=
  if x.dtype == .ov4o then
    x.comp == 0 && y.rank == 2 && y.dtype == .uint8 && nth y.dim 0 % 64 == 0 && 64 ≤ nth y.dim 0
      && nth y.dim 0 ≤ 4160 && sideTiles x.allocs ≤ nth y.dim 1
  else y.rank == 1 && y.dtype == .uint32 && 2 * rowBlocks x.dtype x.comp (nth x.allocs 0) * prodFrom1 x.allocs ≤ nth y.dim 0

/-- A descriptor field read from the table with all that must be well formed in it (R13, R58, R187, R258). -/
def readNamed (p : Program) (cls : FClass) (i : Nat) : M Named := do
  let x ← readDesc p cls i
  let y ← (if x.comp == 0 && x.dtype != .ov4o then pure none
    else do
      let y ← readDesc p cls (i + 1)
      M.need (auxOk x y) cls
      pure (some y) : M (Option Desc))
  M.need (x.comp == 0 || x.ctab < p.ctSlots) cls
  pure ⟨i, x, y⟩

/-- Its bounds read (R70, R73), its `BASE` with the advances of the loops (R96). A sum below 0 is address 0; a step that is no
multiple of 64 leaves the base where it falls. Log 154 (DESIGN CHOICE). -/
def bindNamed (ctx : Nat) (p : Program) (adv : Nat → Int) (n : Named) : M Tensor := do
  let (x, i) := (n.x, n.i)
  let ext ← (List.range 6).mapM (readExt ctx p x)
  let shift (a : Nat) (j : Nat) : Nat := ((a : Int) + adv j).toNat
  pure { idx := i, base := shift (p.addr x.base) i, dtype := x.dtype, rank := x.rank, comp := x.comp, chint := x.chint,
         ext := ext, alloc := x.allocs, stride := x.stride, ctab := x.ctab, imm := x.src.map (fun s => s.1 == 0),
         aux := (n.y.map (fun y => shift (p.addr y.base) (i + 1))).getD 0,
         auxSize := (n.y.map (fun y => if x.dtype == .ov4o then nth y.dim 0 else nth y.stride 1)).getD 0,
         auxStride := (n.y.map (fun y => nth y.stride 1)).getD 0
         auxChint := (n.y.map (fun y => y.chint)).getD 0 }

/-- What its shape must satisfy wherever it is used: MX rows of whole blocks as bounded (R170), a companion or a side list that
is not compressed, else `SHAPE` (R187, R258, R260). Log 165 (DEDUCED). -/
def namedOk (n : Named) (t : Tensor) : Bool := (!t.dtype.isMx || nth t.ext 0 % 32 == 0) && n.y.all (fun y => y.comp == 0)

/-- A descriptor field of a Kerb command resolved (R137, R159). -/
def resolve (ctx : Nat) (p : Program) (adv : Nat → Int) (cls : FClass) (i : Nat) : M Tensor := do
  let n ← readNamed p cls i
  let t ← bindNamed ctx p adv n
  M.need (namedOk n t) cls
  pure t

namespace Tensor

def e (t : Tensor) (i : Nat) : Nat := nth t.ext i
def a (t : Tensor) (i : Nat) : Nat := nth t.alloc i

/-- Bits of an element, values area and row in bytes. -/
def eb (t : Tensor) : Nat := elBits t.dtype t.comp
def vb (t : Tensor) : Nat := valBytes t.dtype t.comp (t.a 0)
def rb (t : Tensor) : Nat := rowBytes t.dtype t.comp (t.a 0)
def scaled (t : Tensor) : Bool := hasScale t.dtype t.comp

/-- Address of the row at coordinates c of dims 1 to 5. -/
def row (t : Tensor) (c : List Nat) : Nat :=
  t.base + (List.range 5).foldl (fun s i => s + nth c i * nth t.stride (i + 1)) 0

/-- Index of a row by allocations (R187, R259). -/
def rowIdx (t : Tensor) (c : List Nat) : Nat :=
  (List.range 5).foldr (fun i acc => nth c i + t.a (i + 1) * acc) 0

/-- The byte runs of elements [lo, hi) of a row: values, then scales (R169). -/
def runs (t : Tensor) (c : List Nat) (lo hi : Nat) : List (Nat × Nat) :=
  if hi ≤ lo then []
  else
    let r := t.row c
    let v0 := lo * t.eb / 8
    let v := (r + v0, cdiv (hi * t.eb) 8 - v0)
    if t.scaled then [v, (r + t.vb + lo / 32, (hi - 1) / 32 + 1 - lo / 32)] else [v]

end Tensor

/-- All coordinates below the given extents, first one fastest. -/
def coordsOf : List Nat → List (List Nat)
  | [] => [[]]
  | n :: ns => (coordsOf ns).flatMap (fun r => (List.range n).map (fun i => i :: r))

/-- Whether a byte belongs to an in-bound element of a tensor: its values or its scales. -/
def Tensor.holdsByte (t : Tensor) (x : Nat) : Bool :=
  let span := (List.range 5).foldl (fun s i => s + (t.e (i + 1) - 1) * nth t.stride (i + 1)) 0
  t.base ≤ x && x < t.base + span + t.rb
    && (coordsOf (t.ext.drop 1)).any (fun c => (t.runs c 0 (t.e 0)).any (fun r => r.1 ≤ x && x < r.1 + r.2))

/-- An element: its value, and the poisoned line that holds it. -/
structure El where
  v : FV
  p : Option Nat
  deriving DecidableEq, Repr

/-- What a load needs: the context charged, how lines are fetched, the compression slots taken. -/
structure Ld where
  ctx : Nat
  acc : Access
  tabs : List CTab
  deriving DecidableEq, Repr

/-- Bytes with the poisoned line each comes from. -/
abbrev Ab := List (Byte × Option Nat)

def annotate (a : Nat) (bs : List Byte) (bad : List Nat) : Ab :=
  if bad.isEmpty then bs.map (fun b => (b, none))
  else bs.zipIdx.map (fun p => (p.1, bad.find? (fun l => l == (a + p.2) / 64 * 64)))

/-- Codes of b bits packed little-endian (R168), each with the poison of the bytes that hold it. -/
def unpackAux (b : Nat) : Nat → Ab → List (Nat × Option Nat)
  | 0, _ => []
  | n + 1, bs =>
    if bs.isEmpty then []
    else if 8 ≤ b then
      let k := b / 8
      (leNat ((bs.take k).map Prod.fst), (bs.take k).findSome? Prod.snd) :: unpackAux b n (bs.drop k)
    else
      let k := if b == 4 then 1 else 3
      let v := leNat ((bs.take k).map Prod.fst)
      let p (i : Nat) : Option Nat := ((bs.take ((b * i + b - 1) / 8 + 1)).drop (b * i / 8)).findSome? Prod.snd
      (List.range (8 * k / b)).map (fun i => (v / 2 ^ (b * i) % 2 ^ b, p i)) ++ unpackAux b n (bs.drop k)

def unpack (b : Nat) (bs : Ab) : List (Nat × Option Nat) := unpackAux b bs.length bs

/-- Bytes of codes of b bits. -/
def packAux (b : Nat) : Nat → List Nat → List Byte
  | 0, _ => []
  | n + 1, cs =>
    if cs.isEmpty then []
    else if 8 ≤ b then leBytes (b / 8) (cs.headD 0) ++ packAux b n (cs.drop 1)
    else
      let k := if b == 4 then 2 else 4
      leBytes (b * k / 8) ((cs.take k).zipIdx.foldl (fun a p => a + p.1 * 2 ^ (b * p.2)) 0) ++ packAux b n (cs.drop k)

def pack (b : Nat) (cs : List Nat) : List Byte := packAux b cs.length cs

/-- A block header (R259). -/
structure BlkHdr where
  len : Nat
  raw : Bool
  gen : Nat
  slot : Nat
  deriving DecidableEq, Repr

def BlkHdr.ofNat (n : Nat) : BlkHdr := ⟨bits n 12 0, bit n 13, bits n 31 16, bits n 41 32⟩
def BlkHdr.toNat (h : BlkHdr) : Nat := h.len + b2n h.raw * 2 ^ 13 + h.gen * 2 ^ 16 + h.slot * 2 ^ 32

/-- Fields of a bank (R270). -/
def bankKind (b : List Byte) : Nat := fld b 0 1
def bankGen (b : List Byte) : Nat := fld b 2 2

/-- The bank a header's generation names (R273, R281): none when the header does not fit the table. -/
def CTab.bankFor (x : CTab) (h : BlkHdr) (mode ctab : Nat) : Option (List Byte) :=
  let b := if x.act == 0 then [x.b0, x.b1] else [x.b1, x.b0]
  match b.find? (fun k => bankGen k == h.gen) with
  | some k => if h.slot == ctab && (bankKind k == 0 || bankKind k == mode) then some k else none
  | none => none

def CTab.active (x : CTab) : List Byte := if x.act == 0 then x.b0 else x.b1

/-- The levels of a codebook (R261, R270, R271). -/
def cbLevels (bank : List Byte) (mode : Nat) : List FV :=
  let n := if mode == 1 then 16 else 64
  if bankKind bank == 0 then
    (List.range n).map (fun k => ((if mode == 1 then Fmt.e2m1 else Fmt.e2m3).decode k).scale (-2))
  else (List.range n).map (fun k => f32n (fld bank (64 + 4 * k) 4))

/-- Code lengths of a plane (R270), and its canonical codes: symbol, length, code. -/
def lzpLens (bank : List Byte) (pl : Nat) : List Nat :=
  (List.range 256).map (fun v => let x := fld bank (64 + 128 * pl + v / 2) 1; if v % 2 == 0 then x % 16 else x / 16)

def lzpCodes (lens : List Nat) : List (Nat × Nat × Nat) :=
  let order := (List.range' 1 15).flatMap (fun l => (List.range 256).filterMap (fun v => if nth lens v == l then some (v, l) else none))
  (order.foldl (fun (st : List (Nat × Nat × Nat) × Nat × Nat) s =>
    let (acc, code, len) := st
    let c := if acc.isEmpty then 0 else (code + 1) * 2 ^ (s.2 - len)
    (acc ++ [(s.1, s.2, c)], c, s.2)) ([], 0, 0)).1

/-- Bits of a stream, each byte from bit 0 upward (R264). -/
def streamBits (bs : List Byte) : List Bool := bs.flatMap (fun b => (List.range 8).map (fun i => b.getLsbD i))

/-- One symbol taken from a bit stream, code bits most significant first. -/
def takeSym (codes : List (Nat × Nat × Nat)) : Nat → Nat → Nat → List Bool → Option (Nat × List Bool)
  | 0, _, _, _ => none
  | _ + 1, _, _, [] => none
  | f + 1, len, v, b :: rest =>
    let v := 2 * v + b2n b
    match codes.find? (fun c => c.2.1 == len + 1 && c.2.2 == v) with
    | some c => some (c.1, rest)
    | none => takeSym codes f (len + 1) v rest

def takeSyms (codes : List (Nat × Nat × Nat)) : Nat → List Bool → Option (List Nat × List Bool)
  | 0, bs => some ([], bs)
  | n + 1, bs =>
    match takeSym codes 15 0 0 bs with
    | some (s, rest) => (takeSyms codes n rest).map (fun r => (s :: r.1, r.2))
    | none => none

/-- Planes of a format (R263). -/
def planes (dt : DType) : Nat :=
  match dt with
  | .fp32 | .int32 | .uint32 => 4
  | .bf16 | .fp16 | .uint16 => 2
  | _ => 1

/-- A coded block decoded to its Z bytes, none where the stream does not yield exactly Z bytes (R264, R281): nor where it leaves
whole bytes of `LEN`, or padding that is not zero. Log 170 (DEDUCED). -/
def lzpDecode (bank : List Byte) (w z : Nat) (bs : List Byte) : Option (List Byte) :=
  let r := (List.range w).foldl (fun (st : Option (List (List Nat) × List Bool)) pl =>
    match st with
    | none => none
    | some (acc, rest) =>
      (takeSyms (lzpCodes (lzpLens bank pl)) ((z - pl + w - 1) / w) rest).map (fun x => (acc ++ [x.1], x.2)))
    (some ([], streamBits bs))
  match r with
  | some (pls, rest) =>
    if 8 ≤ rest.length || rest.any id then none
    else some ((List.range z).map (fun o => BitVec.ofNat 8 (nth (pls.getD (o % w) []) (o / w))))
  | none => none

/-- A block encoded (R264): the bytes and whether they are raw. An identity table stores every block raw (R271). A plane that the
bank has no code for emits nothing. Log 166 (DESIGN CHOICE). -/
def lzpEncode (bank : List Byte) (w : Nat) (bs : List Byte) : List Byte × Bool :=
  let z := bs.length
  if bankKind bank == 0 then (bs, true)
  else
    let bitsOut := (List.range w).flatMap (fun pl =>
      let codes := lzpCodes (lzpLens bank pl)
      (bs.zipIdx.filter (fun p => p.2 % w == pl)).flatMap (fun p =>
        match codes.find? (fun c => c.1 == p.1.toNat) with
        | some c => (List.range c.2.1).map (fun i => bit c.2.2 (c.2.1 - 1 - i))
        | none => []))
    let len := cdiv bitsOut.length 8
    if 7 * z / 8 < len then (bs, true)
    else ((chunks 8 bitsOut).map (fun g => BitVec.ofNat 8 (g.zipIdx.foldl (fun a p => a + b2n p.1 * 2 ^ p.2) 0)), false)

/-- A tensor as its companion or side list is accessed: under the hint of that descriptor (R110, R187, R258). -/
def Tensor.side (t : Tensor) : Tensor := { t with chint := t.auxChint }

/-- Address of a block header (R259). -/
def Tensor.hdrAddr (t : Tensor) (c : List Nat) (j : Nat) : Nat :=
  t.aux + 8 * (rowBlocks t.dtype t.comp (t.a 0) * t.rowIdx c + j)

/-- A load of the companion or side list of a tensor (R110). -/
def Ld.side (l : Ld) (t : Tensor) : Ld := { l with acc := { l.acc with chint := t.auxChint } }

namespace Dev

/-- A load: the bytes, the expander time in 1/128 tc (R280), the first unbacked address, and the ranges read, each with the hint
it was read under. -/
structure Loaded where
  ab : Ab
  exp : Nat
  bad : Option Nat
  rd : List (Nat × Nat × Nat) := []

/-- Plain bytes. -/
def loadPlain (ld : Ld) (a n : Nat) (d : Dev) : Loaded × Dev :=
  match d.unbacked a n with
  | some x => (⟨List.replicate n (0, none), 0, some x, []⟩, d)
  | none =>
    let (r, d) := d.fetch ld.acc a n
    (⟨annotate a r.1 r.2, 0, none, [(ld.acc.chint, a, n)]⟩, d)

/-- What a block of z bytes takes in the expander, in 1/128 tc (R280). -/
def blockRate (h : BlkHdr) (z : Nat) : Nat := if h.raw || h.len ≤ z / 4 then z else if h.len ≤ z / 2 then 2 * z else 4 * z

/-- One LZP block decoded (R264, R265, R280, R281). A block whose header is poisoned takes the lowest rate. -/
def loadBlock (ld : Ld) (t : Tensor) (c : List Nat) (j : Nat) (d : Dev) : Loaded × Dev :=
  let z := min 4096 (t.rb - 4096 * j)
  let a := t.row c + 4096 * j
  let ha := t.hdrAddr c j
  let (h, d) := d.loadPlain (ld.side t) ha 8
  let hd := BlkHdr.ofNat (leNat (h.ab.map Prod.fst))
  let tab := (ld.tabs.find? (fun x => x.slot == t.ctab)).getD {}
  let poisoned (l : Nat) (d : Dev) : Loaded × Dev := (⟨List.replicate z (0, some l), blockRate hd z, h.bad, h.rd⟩, d)
  match h.ab.findSome? Prod.snd with
  | some l => (⟨List.replicate z (0, some l), 4 * z, h.bad, h.rd⟩, d)
  | none =>
    match tab.bankFor hd 3 t.ctab with
    | none => poisoned (a / 64 * 64) (d.cnt 0x64 ld.ctx 1)
    | some bank =>
      if (if hd.raw then hd.len != z else hd.len == 0 || 7 * z / 8 < hd.len) then poisoned (a / 64 * 64) (d.cnt 0x65 ld.ctx 1)
      else
        let (r, d) := d.loadPlain ld a hd.len
        let rd := h.rd ++ r.rd
        match r.ab.findSome? Prod.snd with
        | some l => (⟨List.replicate z (0, some l), blockRate hd z, h.bad, rd⟩, d)
        | none =>
          if hd.raw then (⟨r.ab, z, r.bad, rd⟩, d)
          else match lzpDecode bank (planes t.dtype) z (r.ab.map Prod.fst) with
            | some bs => (⟨bs.map (fun b => (b, none)), blockRate hd z, r.bad, rd⟩, d)
            | none => (⟨List.replicate z (0, some (a / 64 * 64)), blockRate hd z, h.bad, rd⟩, d.cnt 0x65 ld.ctx 1)

/-- Bytes [off, off + n) of a row in its uncompressed layout. -/
def loadRow (ld : Ld) (t : Tensor) (c : List Nat) (off n : Nat) (d : Dev) : Loaded × Dev :=
  if t.comp != 3 then d.loadPlain ld (t.row c + off) n
  else
    let j0 := off / 4096
    let j1 := (off + n + 4095) / 4096
    let r := (List.range (j1 - j0)).foldl (fun (st : Loaded × Dev) i =>
      let (b, d) := st.2.loadBlock ld t c (j0 + i)
      (⟨st.1.ab ++ b.ab, st.1.exp + b.exp, if st.1.bad.isSome then st.1.bad else b.bad, st.1.rd ++ b.rd⟩, d)) (⟨[], 0, none, []⟩, d)
    (⟨(r.1.ab.drop (off - 4096 * j0)).take n, r.1.exp, r.1.bad, r.1.rd⟩, r.2)

/-- A run of elements as a source delivers it. -/
structure Seg where
  els : List El
  exp : Nat
  bad : Option Nat
  rd : List (Nat × Nat × Nat) := []

/-- Elements [lo, hi) of a row, decoded (R165, R166, R261); OV4-O gives its MXFP4 part. -/
def loadSeg (ld : Ld) (t : Tensor) (c : List Nat) (lo hi : Nat) (d : Dev) : Seg × Dev :=
  if hi ≤ lo then (⟨[], 0, none, []⟩, d)
  else
    let b := t.eb
    let lo0 := if b < 8 then lo / 32 * 32 else lo
    let hi0 := if b < 8 then Nat.min (alignUp hi 32) (t.a 0) else hi
    let vo := lo0 * b / 8
    let vn := cdiv (hi0 * b) 8 - vo
    let so := t.vb + lo / 32
    let sn := (hi - 1) / 32 + 1 - lo / 32
    -- an LZP block that holds both values and scales is decoded once
    let joined := t.comp == 3 && t.scaled && so / 4096 < (vo + vn + 4095) / 4096
    let (v, d) := d.loadRow ld t c vo (if joined then so + sn - vo else vn)
    let codes := ((unpack b (v.ab.take vn)).drop (lo - lo0)).take (hi - lo)
    if !t.scaled then
      (⟨codes.map (fun x => ⟨t.dtype.elem x.1, x.2⟩), v.exp, v.bad, v.rd⟩, d)
    else
      let (s, d) := if joined then ((⟨v.ab.drop (so - vo), 0, none, []⟩ : Loaded), d) else d.loadRow ld t c so sn
      let sc (j : Nat) : Byte × Option Nat := s.ab.getD ((lo + j) / 32 - lo / 32) (0, none)
      let bad := if v.bad.isSome then v.bad else s.bad
      if t.comp == 1 || t.comp == 2 then
        let (h, d) := d.loadPlain (ld.side t) (t.hdrAddr c 0) 8
        let hd := BlkHdr.ofNat (leNat (h.ab.map Prod.fst))
        let rd := v.rd ++ s.rd ++ h.rd
        let bad := if bad.isSome then bad else h.bad
        let tab := (ld.tabs.find? (fun x => x.slot == t.ctab)).getD {}
        let line (j : Nat) : Nat := (t.row c + (lo + j) * b / 8) / 64 * 64
        match h.ab.findSome? Prod.snd with
        | some l => (⟨codes.map (fun _ => ⟨.nan, some l⟩), v.exp, bad, rd⟩, d)
        | none =>
          match tab.bankFor hd t.comp t.ctab with
          | none => (⟨codes.zipIdx.map (fun x => ⟨.nan, some (line x.2)⟩), v.exp, bad, rd⟩, d.cnt 0x64 ld.ctx 1)
          | some bank =>
            let lv := cbLevels bank t.comp
            let dec (k s : Nat) : FV :=
              if s == 0 then .zero else if s == 0xFF then .nan
              else t.dtype.fmt.decode (t.dtype.encodeScalar .ne ((lv.getD k .zero).scale ((s : Int) - 127)))
            (⟨codes.zipIdx.map (fun x => ⟨dec x.1.1 (sc x.2).1.toNat, if x.1.2.isSome then x.1.2 else (sc x.2).2⟩), v.exp, bad, rd⟩, d)
      else
        (⟨codes.zipIdx.map (fun x => ⟨t.dtype.scaled x.1.1 (sc x.2).1.toNat, if x.1.2.isSome then x.1.2 else (sc x.2).2⟩),
          v.exp + s.exp, bad, v.rd ++ s.rd⟩, d)

/-- What a store needs: the context and macro-instruction, how lines are written, the rounding and its generator
(R182 to R185), the compression slots, and which bytes an overlap leaves undefined (R175, R193, R247). -/
structure St where
  ctx : Nat
  user : Nat
  acc : Access
  sr : Bool
  seed : BitVec 64
  salt : BitVec 32
  tabs : List CTab
  und : Nat → Bool

/-- Stores to the companion or side list of a tensor (R110). -/
def St.side (w : St) (t : Tensor) : St := { w with acc := { w.acc with chint := t.auxChint } }

/-- Codes of b bits about to be written from byte a: one that shares a byte with an overlapped source is free, whole (R175,
R193, R247). -/
def freeCodes (w : St) (a b : Nat) (cs : List Nat) (d : Dev) : List Nat :=
  cs.zipIdx.map (fun p =>
    let o := p.2 * b / 8
    let n := (p.2 * b + b + 7) / 8 - o
    if (List.range n).any (fun i => w.und (a + o + i)) then
      leNat ((List.range n).map (fun i => Config.freeByte d.fresh (a + o + i))) / 2 ^ (p.2 * b % 8) % 2 ^ b
    else p.1)

/-- Bytes written, the undefined ones free. -/
def putBytes (w : St) (a : Nat) (bs : List Byte) (poison : Nat → Bool) (d : Dev) : Dev :=
  d.store w.acc w.user a (bs.zipIdx.map (fun p => if w.und (a + p.2) then Config.freeByte d.fresh (a + p.2) else p.1)) poison

/-- A level chosen for y (R262, steps 4 to 7). -/
def cbCode (lv : List FV) (rnd : Rnd) (y : FV) : Nat :=
  let idx := lv.zipIdx
  let best (better : FV → FV → Bool) (l : List (FV × Nat)) : Option (FV × Nat) :=
    match l with
    | [] => none
    | h :: t => some (t.foldl (fun m x => if better x.1 m.1 then x else m) h)
  let low := best (fun a b => FV.lt b a) (idx.filter (fun p => FV.le p.1 y))
  let high := best (fun a b => FV.lt a b) (idx.filter (fun p => FV.lt y p.1))
  match low, high with
  | none, none => 0
  | some l, none => l.2
  | none, some h => h.2
  | some l, some h =>
    match rnd with
    | .ne =>
      let dl := y.sub l.1
      let dh := h.1.sub y
      if FV.lt dl dh then l.2 else if FV.lt dh dl then h.2 else Nat.min l.2 h.2
    | .sr r =>
      let f := ((divx (y.sub l.1) (h.1.sub l.1)).scale 16).floorNat
      if 65536 ≤ f + r then h.2 else l.2

/-- A CB block encoded (R262): scale code and codes. -/
def cbBlock (lv : List FV) (vs : List (FV × Rnd)) : Nat × List Nat :=
  if vs.any (fun p => !p.1.isFin) then (0xFF, vs.map (fun _ => 0))
  else
    let a := amaxOf (vs.map Prod.fst)
    if a.isZero then (0, vs.map (fun _ => 0))
    else
      let e := max (-126) (min 127 a.expo)
      ((e + 127).toNat, vs.map (fun p => cbCode lv p.2 (p.1.scale (-e))))

/-- Elements [lo, …) of row c written in the tensor's format (R180 to R182, R262, R268). -/
def storeSeg (w : St) (t : Tensor) (c : List Nat) (lo : Nat) (vs : List FV) (d : Dev) : Dev :=
  if vs.isEmpty then d
  else
    let rnd (j : Nat) : Rnd := rndOf w.sr w.seed w.salt ((lo + j) :: c)
    let r := t.row c
    let a := r + lo * t.eb / 8
    let pvs := vs.zipIdx.map (fun p => (p.1, rnd p.2))
    let none' : Nat → Bool := fun _ => false
    if t.comp == 1 || t.comp == 2 then
      let tab := (w.tabs.find? (fun x => x.slot == t.ctab)).getD {}
      let blks := (chunks 32 pvs).map (cbBlock (cbLevels tab.active t.comp))
      let d := d.putBytes w a (pack t.eb (d.freeCodes w a t.eb (blks.flatMap Prod.snd))) none'
      let d := d.putBytes w (r + t.vb + lo / 32) (blks.map (fun b => BitVec.ofNat 8 b.1)) none'
      d.putBytes (w.side t) (t.hdrAddr c 0) (leBytes 8 (BlkHdr.toNat ⟨0, false, tab.gen, t.ctab⟩)) none'
    else if t.dtype.isMx then
      let blks := (chunks 32 pvs).map t.dtype.encodeBlock
      let d := d.putBytes w a (pack t.eb (d.freeCodes w a t.eb (blks.flatMap Prod.snd))) none'
      d.putBytes w (r + t.vb + lo / 32) (blks.map (fun b => BitVec.ofNat 8 b.1)) none'
    else d.putBytes w a (pack t.eb (d.freeCodes w a t.eb (pvs.map (fun p => t.dtype.encodeScalar p.2 p.1)))) none'

/-- Plain words written to elements [lo, …) of a row of an integer tensor. -/
def storeWords (w : St) (t : Tensor) (c : List Nat) (lo : Nat) (vs : List Nat) (d : Dev) : Dev :=
  d.putBytes w (t.row c + lo * t.eb / 8) (pack t.eb vs) (fun _ => false)

end Dev

/-- Whether an object is listed in the manifest (R89). -/
def Program.lists (p : Program) (o : Nat) : Bool := p.objects.contains o

/-- A descriptor field (R57): present, allowed to be none, or reserved. -/
inductive DescUse where
  | must
  | opt
  | no
  deriving DecidableEq, Repr

def descOk (p : Program) (raw : List Byte) (u : DescUse) (off : Nat) : Bool :=
  let f := fld raw off 2
  if u == .no then f == 0x8000
  else if bit f 15 then u == .opt && f == 0x8000
  else f / 2 ^ 12 == 0 && f < p.nDesc

/-- The index of a descriptor field that is not none. -/
def descIdx (raw : List Byte) (off : Nat) : Option Nat := if bit (fld raw off 2) 15 then none else some (fld raw off 2)

/-- Header fields (R54, R55). -/
def miOpc (raw : List Byte) : Nat := fld raw 0 1
def miVar (raw : List Byte) : Nat := fld raw 1 1
def waitSo (raw : List Byte) : Nat := bits (fld raw 0 8) 29 16
def waitMode (raw : List Byte) : Nat := bits (fld raw 0 8) 31 30
def sigSo (raw : List Byte) : Nat := bits (fld raw 0 8) 45 32
def sigMode (raw : List Byte) : Nat := bits (fld raw 0 8) 47 46
def miCoreset (raw : List Byte) : Nat := fld raw 6 1
def miHints (raw : List Byte) : Nat := fld raw 7 1
def waitN (raw : List Byte) : Nat := fld raw 60 2
def sigN (raw : List Byte) : Nat := fld raw 62 2

/-- Sources of a `VOP` operation (R62): whether it is defined, uses S1, uses S2. Log 71 (DEDUCED). -/
def vopUses (op : Nat) : Option (Bool × Bool) :=
  match op with
  | 0x00 | 0x08 | 0x09 | 0x0A | 0x10 | 0x11 | 0x12 => some (false, false)
  | 0x01 | 0x02 | 0x03 | 0x05 | 0x06 => some (true, false)
  | 0x04 | 0x07 => some (true, true)
  | _ => none

/-- The row of the operation table that a macro-instruction is (R56, R59 to R65): class, and the variant, function or
operation that splits it; none where no row fits. -/
def miRow (raw : List Byte) : Option (Nat × Nat) :=
  let v := miVar raw
  match miOpc raw with
  | 0x10 => if v < 8 then some (0x10, 0) else none
  | 0x11 => if v < 4 then some (0x11, 0) else none
  | 0x12 => if v < 3 then some (0x12, v) else none
  | 0x13 => if v < 3 then some (0x13, v) else none
  | 0x20 => if v == 0 && (vopUses (fld raw 16 1)).isSome then some (0x20, fld raw 16 1) else none
  | 0x21 => if v < 2 && fld raw 12 1 < 12 then some (0x21, fld raw 12 1) else none
  | 0x22 => if v < 2 then some (0x22, 0) else none
  | 0x23 => if v == 0 then some (0x23, 0) else none
  | 0x24 => if v == 0 then some (0x24, 0) else none
  | 0x25 => if v < 2 then some (0x25, 0) else none
  | 0x30 => if v < 4 then some (0x30, v) else none
  | 0x31 => if v == 0 then some (0x31, 0) else none
  | 0x40 => if v == 0 then some (0x40, 0) else none
  | 0x50 => if v < 3 then some (0x50, v) else none
  | 0x51 => if v == 0 then some (0x51, 0) else none
  | 0x52 => if v < 3 then some (0x52, v) else none
  | 0x5F => if v == 0 then some (0x5F, 0) else none
  | _ => none

/-- The entries of a `SYNC` (R94): object and count. -/
def syncEntries (raw : List Byte) : List (Nat × Nat) :=
  (List.range (fld raw 8 1)).map (fun i => (fld raw (12 + 4 * i) 2 % 2 ^ 14, fld raw (14 + 4 * i) 2))

/-- Whether the operands of a macro-instruction whose row is known are well formed (R13, R57 to R65, R94 to R98, R182,
R191, R208, R255). `lut s` says whether lookup slot s is in use. -/
def operandsOk (p : Program) (lut : Nat → Bool) (raw : List Byte) : Bool :=
  let v := miVar raw
  let b (o : Nat) : Nat := fld raw o 1
  let ds (u : DescUse) (l : List Nat) : Bool := l.all (descOk p raw u)
  let z (o n : Nat) : Bool := zeros raw o n
  let epi := b 20
  match miOpc raw with
  | 0x10 => ds .must [8, 10, 12] && ds .opt [14, 16] && descOk p raw (if bit v 2 then .must else .no) 18
      && epi % 16 ≤ 5 && epi / 64 == 0 && (if epi % 16 == 5 then b 21 < 8 && lut (b 21) else b 21 == 0)
      && b 22 ≤ 1 && z 23 1 && z 28 32
  | 0x11 => ds .must [8, 10, 12, 14, 16] && ds .opt [18] && z 24 36
  | 0x12 => ds .must [8, 10, 12] && ds .opt [14] && (List.range 9).all (fun i => 1 ≤ b (16 + i) && b (16 + i) ≤ 15)
      && b 25 / 16 == 0 && 1 ≤ fld raw 32 2 && !bit (fld raw 34 2) 14
      && (bit (fld raw 34 2) 15 || (let o := fld raw 34 2 % 2 ^ 14; p.lists o && p.lists (o + 1) && o / 512 == (o + 1) / 512))
      && b 38 % 16 ≤ 5 && b 38 / 64 == 0 && z 39 21
  | 0x13 => ds .must [8, 10] && descOk p raw (if v == 2 then .must else .opt) 12 && ds .no [14]
      && (List.range 6).all (fun i => 1 ≤ b (16 + i) && b (16 + i) ≤ 15) && [22, 23, 24].all (fun o => b o == 1) && b 25 / 16 == 0 && z 32 28
  | 0x20 =>
    let u := (vopUses (b 16)).getD (false, false)
    ds .must [8, 10] && descOk p raw (if u.1 then .must else .opt) 12 && descOk p raw (if u.2 then .must else .opt) 14
      && b 17 ≤ 1 && z 18 2 && z 32 28
  | 0x21 => ds .must [8, 10] && (if b 12 == 11 then b 13 < 8 && lut (b 13) else b 13 == 0) && z 14 2 && z 20 40
  | 0x22 => ds .must [8, 10] && z 16 44
  | 0x23 => ds .must [8, 10, 12] && ds .opt [14, 16] && z 18 2 && b 28 ≤ 5 && (b 28 != 5 || lut 0) && z 29 31
  | 0x24 => ds .must [8, 10, 12] && z 14 2 && z 19 1 && z 32 28
  | 0x25 => ds .must [8, 10] && descOk p raw (if v == 1 then .must else .no) 12
      && (if v == 1 then fld raw 14 2 ≤ 1024 else z 14 2) && b 16 ≤ 1 && z 17 3 && z 24 36
  | 0x30 =>
    (if v ≤ 1 then ds .must [8, 10] else ds .no [8, 10])
      && (if v == 1 then b 12 < 4 && fld raw 14 2 < 2 ^ 12 else z 12 1 && z 14 4)
      && (if 2 ≤ v then b 13 < 64 else z 13 1) && z 18 2
      && (if v == 2 then fld raw 20 8 < 2 ^ 48 && fld raw 20 8 % 4 == 0 else z 20 8) && (v == 3 || z 28 4) && z 32 28
  | 0x31 => ds .must [8] && z 11 1 && z 20 40
  | 0x40 => b 8 != 0 && z 9 1 && 1 ≤ fld raw 10 2 && fld raw 10 2 ≤ 64 && z 12 4 && fld raw 16 8 < 2 ^ 48
      && fld raw 16 8 % 64 == 0 && z 24 36
  | 0x50 => 1 ≤ b 8 && b 8 ≤ 8 && (if v == 0 then b 9 ≤ 1 else b 9 == 0) && z 10 2 && z 44 16
      && (List.range 8).all (fun i =>
        if i < b 8 then fld raw (12 + 4 * i) 2 < 2 ^ 14 && p.lists (fld raw (12 + 4 * i) 2) else z (12 + 4 * i) 4)
  | 0x51 => 1 ≤ fld raw 8 2 && fld raw 8 2 ≤ 1024 && b 10 ≤ 1 && b 11 < 64 && b 20 < 128 && b 21 ≤ 4 && z 22 6
      && (List.range 4).all (fun i => if i < b 21 then fld raw (28 + 8 * i) 2 < p.nDesc else z (28 + 8 * i) 8)
  | 0x52 => z 12 48
  | 0x5F => z 8 52
  | _ => false

/-- Whether a macro-instruction is well formed (R58): its row, its header, its operands. Log 71 (DEDUCED). -/
def miOk (p : Program) (lut : Nat → Bool) (raw : List Byte) : Bool :=
  (miRow raw).isSome && sigMode raw != 3 && miHints raw / 4 == 0
    && (waitMode raw == 0 || p.lists (waitSo raw)) && (sigMode raw == 0 || p.lists (sigSo raw)) && operandsOk p lut raw

/-- A lookup-directory entry (R208): banks, generation, active bank; none where the slot is not in use. -/
structure LutSlot where
  bank0 : Nat
  bank1 : Nat
  gen : Nat
  act : Nat
  deriving DecidableEq, Repr

def lutSlot (d : Dev) (p : Program) (s : Nat) : Option LutSlot :=
  let b := (d.peek (p.lutDir + 8 * s) 8).1
  if bit (fld b 0 2) 15 || bit (fld b 2 2) 15 then none
  else some ⟨fld b 0 2, fld b 2 2, fld b 4 2, fld b 6 1 % 2⟩

end Sys2Proof.Machine
end

