-- ==== Sys2Proof/Machine/Flags.lean ====
section
/-! DEFINITION. Status words and flags: Tick Unit (R32), Square (R107), Kerb engine (R164), stack (R312), units and the
device status payload (R326), port (R374), capability use (R8), `ALERT_N` (R420). -/

namespace Sys2Proof

/-- Package power of a sweep in W, the power of every board rail, the part of a watt left out (R462). Log 141 (DEDUCED). -/
def Sweep.watts (r : Sweep) : Nat := (List.range 7).foldl (fun w i => w + nth r.railMv i * nth r.railCur i) 0 / 10000

/-- The maximum of a die in the numbering of EV_THERMAL (R424, R464): tensor dies 0 and 1, Square dies 0 and 1, the I/O die. -/
def Sweep.dieMax (r : Sweep) (i : Nat) : Nat :=
  let l := match i with
    | 0 => r.junction.take 192
    | 1 => r.junction.drop 192
    | 2 => r.slice.take 32
    | 3 => r.slice.drop 32
    | _ => r.io
  l.foldl Nat.max 0

end Sys2Proof

namespace Sys2Proof.Machine

/-- Unit state code (R326). -/
def Svc.code : Svc → Nat
  | .inService => 0
  | .draining => 1
  | .disabled => 2
  | .off => 3

/-- Device state code of R400; `COLD` has none. -/
def DevState.code : DevState → Nat
  | .cold => 0
  | .rom => 1
  | .fwCheck => 2
  | .link => 3
  | .reduced => 4
  | .full => 5
  | .halted => 6

/-- Context state code (R328), 0xFF unclaimed (R319). -/
def CtxState.code : CtxState → Nat
  | .unclaimed => 0xFF
  | .empty => 0
  | .loaded => 1
  | .ready => 2
  | .running => 3
  | .parked => 4
  | .faulted => 5
  | .tearingDown => 6

def sumOf (l : List Nat) : Nat := l.foldl (fun a b => a + b) 0
def maxOf (l : List Nat) : Nat := l.foldl Nat.max 0
def minOf (dflt : Nat) (l : List Nat) : Nat := l.foldl Nat.min dflt

/-- Pinned bytes a program was granted on a die, and its unpinned bytes there (R119). -/
def pinnedOn (p : Program) (die : Nat) : Nat := sumOf ((p.parts.filter (fun x => x.die == die && x.granted)).map (fun x => x.size))
def unpinnedOn (p : Program) (die : Nat) : Nat := sumOf ((p.parts.filter (fun x => x.die == die && !x.granted)).map (fun x => x.size))

namespace Dev

/-- Programs that hold scratch: those of every context that has not been released (R122, R338). -/
def progs (d : Dev) : List Program := d.ctxs.filterMap (fun c => c.prog)

/-- Tick Unit status word (R32). -/
def tuWord (d : Dev) : Nat :=
  d.tu.cfg.source + b2n d.tu.locked * 4 + b2n d.tu.holdover * 8 + d.slots.table.length * 2 ^ 8
    + maxOf (d.stk.map (fun s => s.defer)) * 2 ^ 16 + d.tu.tick.toNat * 2 ^ 32

/-- Square status word of a die (R107); 0 where the die is absent. -/
def sqWord (d : Dev) (die : Nat) : Nat :=
  if d.nDies ≤ die then 0
  else (d.square die).g + (d.square die).quadOn.toNat * 2 ^ 4
    + cdiv (sumOf (d.progs.map (fun p => pinnedOn p die))) (2 ^ 20) * 2 ^ 16
    + cdiv (maxOf ((d.ctxs.filter holds).map (fun c => (c.prog.map (fun p => unpinnedOn p die)).getD 0))) (2 ^ 20) * 2 ^ 32

/-- Whether a lane of an engine runs a command (R131, R164). -/
def laneBusy (d : Dev) (s lane : Nat) : Bool := (d.eng s).queue.any (fun e => e.lane == lane && e.running)

/-- Queue entries of an engine that firmware commands hold (R130): those of no context. -/
def firmwareEntries (d : Dev) (s : Nat) : Nat :=
  ((d.eng s).queue.filter (fun e => (aget d.kcmds e.cmd).any (fun c => c.ctx == 0))).length

/-- Kerb status word (R164). -/
def kbWord (d : Dev) (s : Nat) : Nat :=
  if d.nStacks ≤ s then 0
  else (d.eng s).svc.code + b2n (d.laneBusy s 0) * 4 + b2n (d.laneBusy s 1) * 8 + b2n (d.laneBusy s 2) * 16
    + (d.eng s).queue.length * 2 ^ 8 + (d.eng s).done.toNat * 2 ^ 32

/-- Fewest spares of a kind left in any pseudo-channel of a stack (R311, R312). -/
def sparesLeft (o : Otp) (s pch : Nat) (column : Bool) : Nat :=
  (if column then 8 else 32) - (o.repairs.filter (fun r => r.stack == s && r.pch == pch && r.column == column)).length
def fewestSpares (o : Otp) (s : Nat) (column : Bool) : Nat :=
  minOf (if column then 8 else 32) ((List.range 64).map (fun p => sparesLeft o s p column))

/-- Whether firmware runs. -/
def fwUp (d : Dev) : Bool := d.st == .link || d.st == .reduced || d.st == .full

/-- State of a stack (R312, R407): one whose training has not begun is reported as training once firmware runs. -/
def stackCode (d : Dev) (s : Nat) : Nat := if d.fwUp && (d.stack s).st == 3 then 1 else (d.stack s).st

/-- Stack status word (R312). -/
def hbWord (d : Dev) (o : Otp) (s : Nat) : Nat :=
  if d.nStacks ≤ s then 0
  else
    let k := d.stack s
    d.stackCode s + k.refresh * 2 ^ 2 + b2n k.tempValid * 2 ^ 4 + b2n k.overLimit * 2 ^ 5 + (if k.tempValid then k.temp else 0) * 2 ^ 8
      + k.defer * 2 ^ 16 + d.mcfg.strength * 2 ^ 21 + d.mcfg.strengthNext * 2 ^ 24 + fewestSpares o s false * 2 ^ 32
      + fewestSpares o s true * 2 ^ 40 + Nat.min k.corrLast 0xFFFF * 2 ^ 48

/-- `CL_STATE` (R326). -/
def clWord (d : Dev) : Nat := (List.range 32).foldl (fun a i => a + (d.cluster i).svc.code * 4 ^ i) 0

/-- `UNIT_STATE` (R326); an absent unit is off. -/
def unitBytes (d : Dev) : List Byte :=
  (List.range 2).map (fun e => BitVec.ofNat 8 (d.codec.getD e {}).svc.code)
    ++ (List.range 2).map (fun p => BitVec.ofNat 8 (d.net.ports.getD p {}).svc.code) ++ [BitVec.ofNat 8 d.net.xce.code]

/-- Hottest tensor-die reading (R326). -/
def tjMax (d : Dev) : Nat := maxOf ((List.range d.nDies).map (fun i => d.power.sweep.dieMax i))

/-- The `MB_DEV_STATE` response (R326). -/
def devStateBytes (d : Dev) (o : Otp) : List Byte :=
  leBytes 1 (d.st.code - 3) ++ leBytes 1 (d.ctxs.filter (fun c => c.st != .unclaimed)).length ++ leBytes 6 0
    ++ leBytes 8 d.tuWord ++ (List.range 2).flatMap (fun i => leBytes 8 (d.sqWord i))
    ++ (List.range 8).flatMap (fun s => leBytes 8 (d.kbWord s)) ++ (List.range 8).flatMap (fun s => leBytes 8 (d.hbWord o s))
    ++ leBytes 8 d.clWord ++ d.unitBytes ++ leBytes 3 0 ++ leBytes 2 d.power.sweep.watts ++ leBytes 2 d.power.cap
    ++ leBytes 1 d.tjMax ++ leBytes 75 0

/-- Port status word (R374). -/
def portWord (d : Dev) (p : Nat) : Nat :=
  let q := d.net.ports.getD p {}
  let up (h : Nat) : Bool := (d.net.links.getD (2 * p + h) {}).up
  let brk := d.net.fab.linkMode.getLsbD p
  b2n (up 0) + b2n (brk && up 1) * 2 + b2n brk * 4 + b2n (d.net.fab.linkMode.getLsbD (2 + p)) * 8
    + b2n d.net.fab.macsecReq * 16 + b2n (q.paused != 0) * 32 + q.ptp * 2 ^ 6 + q.flaps % 2 ^ 16 * 2 ^ 16

/-- `ALERT_N` low (R420, R470): the alarm logic, or cell 47 of the boundary register while it owns the lands.
Log 105 (DEDUCED). -/
def alertLow (d : Dev) (tap : Tap) (pins : Pins) : Bool :=
  d.st == .halted || (List.range 5).any (fun i => 105 < d.power.sweep.dieMax i) || d.stk.any (fun k => k.overLimit)
    || !d.power.railBad.isEmpty || pins.thermtrip || (tap.owns && !tap.highz && tap.drive.getLsbD 47)

/-- Whether a unit of a kind of R326 is fitted (R6, R8). -/
def fitted (d : Dev) (kind i : Nat) : Bool :=
  match kind with
  | 0 => i < d.nClusters
  | 1 => i < d.nStacks
  | 2 => i < d.nCodec
  | 3 => i < 2
  | 4 => i == 0
  | 5 => i < d.nStacks
  | 6 => i < 4 * d.nDies
  | _ => false

/-- State of a unit of a kind of R326. -/
def svcOf (d : Dev) (kind i : Nat) : Svc :=
  match kind with
  | 0 => (d.cluster i).svc
  | 1 => (d.eng i).svc
  | 2 => (d.codec.getD i {}).svc
  | 3 => (d.net.ports.getD i {}).svc
  | 4 => d.net.xce
  | 5 => if (d.stack i).st == 0 then .inService else .off
  | _ => if (d.square (i / 4)).quadOn.getLsbD (i % 4) then .inService else .off

end Dev

end Sys2Proof.Machine
end

