-- ==== Sys2Proof/Machine/Net.lean ====
section
/-! DEFINITION. Shared operations of the fabric: links and paths (R359), retransmission (R357), sequence spaces (R361),
windows (R362 to R364), replies of the transport (R356). -/

namespace Sys2Proof.Machine

/-- Bit i of `POISON`: a poisoned line overlaps payload bytes [64i, 64i + 64) (R354). -/
def poisonBits (a n : Nat) (bad : List Nat) : BitVec 128 :=
  BitVec.ofNat 128 ((List.range 128).foldl (fun m i =>
    if 64 * i < n && bad.any (fun l => l < a + Nat.min n (64 * i + 64) && a + 64 * i < l + 64) then m + 2 ^ i else m) 0)

/-- Largest payload (R353). -/
def maxPayload (f : Fabric) : Nat :=
  let h := (if f.v6 then 154 else 134) - (if f.macsecReq then 0 else 32)
  Nat.min 8192 ((f.mtu - h) / 64 * 64)

namespace Dev

/-- Traffic is placed and read as an I/O die master (R109, R302). -/
def ioFetch (a n : Nat) (d : Dev) : (List Byte × List Nat) × Dev := d.fetch Access.io a n
def ioStore (a : Nat) (bs : List Byte) (poison : Nat → Bool) (d : Dev) : Dev := d.store Access.io 0 a bs poison

/-- A packet as it is sent or sent again: its data read from its source at that time (R357, R363), in `BKG` for a packet of the
trace drain (R34). Log 117 (DEDUCED). -/
def reread (t : TxPkt) (d : Dev) : Packet × Dev :=
  match t.src with
  | none => (t.pkt, d)
  | some a =>
    let n := t.pkt.olen.toNat
    let (r, d) := d.fetch (if t.owner == 0x1000 then Access.bkg else Access.io) a n
    ({ t.pkt with payload := r.1, poison := poisonBits a n r.2 }, d)

/-- One waiting packet sent, its data read now (R363). -/
def pumpAll1 (peer : Nat) (d : Dev) : Dev :=
  match d.nextOut peer with
  | none => d
  | some (t, path) =>
    let (p, d) := d.reread t
    d.launch peer path { t with pkt := p }

/-- Everything that may go to a peer goes (R356, R357). Log 117 (DEDUCED). -/
def pumpAll (peer : Nat) (d : Dev) : Dev :=
  ((d.pumpCtl peer).space peer).waiting.foldl (fun d _ => d.pumpAll1 peer) (d.pumpCtl peer)

/-- A packet whose `n` bytes are read at `src` when it is sent (R363). -/
def sendData (peer : Nat) (p : Packet) (owner src n : Nat) (d : Dev) : Dev :=
  (d.setSpace { d.space peer with
    waiting := (d.space peer).waiting ++ [{ pkt := { p with olen := BitVec.ofNat 16 n }, owner := owner, src := some src }] }).pumpAll peer

/-- Whether the data of a packet of the trace drain may be read: in maintenance time, behind calibration (R34, R46). -/
def mayDrain (d : Dev) (t : TxPkt) : Bool := d.maintTime && !t.src.any (fun a => d.calAhead a t.pkt.olen.toNat)

/-- One unacknowledged packet sent again on a live path, `RETX` set (R357, R359); nothing where no path lives or PFC pauses its
port (R360), nor a packet of the trace drain while its data may not be read (R34, R46, R47).
Log 117 (DEDUCED). -/
def resend (peer : Nat) (psn : BitVec 32) (double : Bool) (d : Dev) : Dev :=
  let s := d.space peer
  let live := d.livePaths peer
  match s.unacked.find? (fun t => t.pkt.psn == psn) with
  | none => d
  | some t =>
    let path := live.getD (psn.toNat % live.length) 0
    if live.isEmpty || d.pausedOn path t.pkt || (t.owner == 0x1000 && !d.mayDrain t) then d
    else
      let (p, d) := d.reread t
      let p := { p with oflags := p.oflags ||| 4 }
      let t' := { t with pkt := p, path := path, tries := t.tries + 1, sentNs := d.now,
                         timeout := if double then Nat.min (2 * t.timeout) 4096000 else t.timeout }
      let d := d.setSpace { d.space peer with
        unacked := (d.space peer).unacked.map (fun x => if x.pkt.psn == psn then t' else x) }
      (d.cnt 0x40 2 1).emit peer path p

/-- The unacknowledged packets last sent on a path go again at once on a live one (R359). -/
def moveOff (peer path : Nat) (d : Dev) : Dev :=
  ((d.space peer).unacked.filter (fun t => t.path == path)).foldl (fun d t => d.resend peer t.pkt.psn false) d

/-- A path declared dead (R359). -/
def killPath (peer path : Nat) (d : Dev) : Dev :=
  let s := d.space peer
  (d.setSpace { s with dead := s.dead.insert path }).moveOff peer path

/-- A link goes down (R359): its paths die, their packets move, the flap is counted, `EV_LINK` raised.
Log 122 (DEDUCED). -/
def downLink (l : Nat) (training : Bool) (d : Dev) : Dev :=
  let was := (d.net.links.getD l {}).up
  let d := { d with net := { d.net with links := d.net.links.set l { up := false, training := training } } }
  if !was then d
  else
    let d := d.setPort (l / 2) (fun p => { p with flaps := p.flaps + 1 })
    let d := d.net.spaces.foldl (fun d s => (d.killPath s.peer (2 * l)).killPath s.peer (2 * l + 1)) d
    d.raise [] { code := 0x8011, kind := 3, unit := l, reason := 0 }

/-- Links of a port (R344). -/
def portLinks (d : Dev) (p : Nat) : List Nat := if d.net.fab.linkMode.getLsbD p then [2 * p, 2 * p + 1] else [2 * p]

/-- A port trains (R344): both its links go down. Log 126 (DEDUCED). -/
def trainPort (p : Nat) (d : Dev) : Dev :=
  ((d.downLink (2 * p) true).downLink (2 * p + 1) (d.net.fab.linkMode.getLsbD p))

/-- Whether every packet from the next expected up to a number has arrived (R358, R364). -/
def arrivedBelow (s : Space) (psn : BitVec 32) : Bool :=
  (s.rxNext - psn).toNat < 2 ^ 31 || (List.range (psn - s.rxNext).toNat).all (fun i =>
    let q := s.rxNext + BitVec.ofNat 32 i
    s.rxGot.contains q || s.placing.any (fun p => !p.old && p.psn == q))

/-- The receive side of a space ends (R346, R350, R361): packets accepted are still placed, signals that wait are gone, and a
mailbox message that still awaits a lower packet is discarded. Log 113 (DEDUCED). -/
def endSpace (peer : Nat) (d : Dev) : Dev :=
  let s := d.space peer
  let d := { d with mboxes := d.mboxes.map (fun (m : Mbox) => { m with queue := m.queue.filterMap (fun (c : MbCmd) =>
    if c.peer != peer || c.busy || c.done.isSome then some c
    else if c.psn.all (arrivedBelow s) then some { c with psn := none } else none) }) }
  d.setSpace { s with rxNext := 0, rxGot := [], placing := s.placing.map (fun p => { p with old := true }), sigs := [], toAck := 0 }

/-- What is left of a space thrown away: the packets still being placed. -/
def remains (s : Space) : Option Space := if s.placing.isEmpty then none else some { peer := s.peer, placing := s.placing }

/-- The sequence spaces with a peer are thrown away (R350). Log 113 (DEDUCED). -/
def dropPeerState (peer : Nat) (d : Dev) : Dev :=
  let d := d.endSpace peer
  { d with net := { d.net with
      spaces := d.net.spaces.filterMap (fun s => if s.peer == peer then remains s else some s)
      reads := d.net.reads.filter (fun r => r.peer != peer) } }

/-- Every sequence space restarts (R346, R361). -/
def dropSpaces (d : Dev) : Dev :=
  let d := d.net.spaces.foldl (fun d s => d.endSpace s.peer) d
  { d with net := { d.net with spaces := d.net.spaces.filterMap remains, reads := [] } }

/-- Whether a peer is a member of a set group (R350). -/
def inGroup (d : Dev) (peer : Nat) : Bool := d.net.groups.any (fun g => g.2.members.contains peer)

/-- An `ACK` (R356): cumulative, with up to 8 selective ranges of first and last PSN, `ECE` where a mark or the receive
buffer asks for it (R360). Log 114 (DEDUCED). -/
def ackRanges : List Nat → List (Nat × Nat)
  | [] => []
  | a :: rest =>
    match ackRanges rest with
    | (b, c) :: more => if a + 1 == b then (a, c) :: more else (a, a) :: (b, c) :: more
    | [] => [(a, a)]

def sendAck (peer : Nat) (d : Dev) : Dev :=
  let s := d.space peer
  let got := s.rxGot.map (fun x => x.toNat)
  let rs := (ackRanges (got.mergeSort (fun a b => a ≤ b))).take 8
  let ece := s.ce || 3 * 2 ^ 20 < d.net.rxBytes
  let p := { Packet.mk0 5 (rs.flatMap (fun r => beBytes 4 r.1 ++ beBytes 4 r.2)) with
    apsn := s.rxNext, oflags := if ece then 2 else 0 }
  (d.setSpace { s with toAck := 0, firstNs := 0, ce := false }).sendCtl peer p

/-- A `NAK` of a packet, with its reason (R356, R375). Log 114 (DEDUCED). -/
def sendNak (peer : Nat) (psn : BitVec 32) (reason : Nat) (d : Dev) : Dev :=
  (d.cnt 0x40 4 1).sendCtl peer { Packet.mk0 6 [] with psn := psn, apsn := (d.space peer).rxNext, ocnt := BitVec.ofNat 32 reason }

/-- A window that takes traffic: mapped, and no unmap accepted (R362). -/
def window (d : Dev) (w : Nat) : Option Window := (aget d.net.windows w).filter (fun x => !x.unmapping)

/-- Whether packets accepted for a window are still being placed (R362). -/
def windowBusy (d : Dev) (w : Nat) : Bool :=
  d.net.spaces.any (fun s => s.placing.any (fun p => p.win == some w))

end Dev

end Sys2Proof.Machine
end

