-- ==== Sys2Proof/Machine/Sched.lean ====
section
/-! DEFINITION. The default window (R33), the swap bound (R121), the load check (R44). -/

namespace Sys2Proof.Machine

/-- Default window (R33). -/
def defaultWindow (p : Nat) : Nat := Nat.max 8000 (p * 15 / 1000)

/-- Bytes of a program that move at a swap on a die (R121). -/
def outIn (p : Option Program) (d : Nat) : Nat :=
  match p with
  | none => 0
  | some p =>
    let bytes := sumOf ((p.parts.filter (fun x => x.die == d && !x.granted && !x.transient)).map (fun x => x.size))
    -- cores of die d named by any coreset entry: a 12-bit mask per cluster of 16 · die + cluster
    let cores := (List.range 16).foldl (fun n k =>
      let m := (p.coresets.filter (fun e => (e.1 / 256) == 16 * d + k)).foldl (fun m e => m ||| e.2) (0 : BitVec 64)
      n + ((List.range 12).filter (fun i => m.getLsbD i)).length) 0
    bytes + nth p.cbLive d * cores

/-- The swap bound in ns (R121). -/
def swapBound (o i : Option Program) : Nat :=
  Nat.max 1000 (Nat.max (cdiv (outIn o 0 + outIn i 0) 10240) (cdiv (outIn o 1 + outIn i 1) 10240))

/-- Start of an entry from the tick's start. -/
def slotStart (w : Nat) (tab : List SlotEntry) (i : Nat) : Nat := w + sumOf ((tab.take i).map (fun e => e.length))

/-- The previous slot with an owner, in cyclic table order (R44). -/
def prevOwned (tab : List SlotEntry) (i : Nat) : Option SlotEntry :=
  let n := tab.length
  (List.range n).findSome? (fun k =>
    let e := tab.getD ((i + n - 1 - k) % n) {}
    if e.owner == 0 then none else some e)

/-- What a slot's check depends on (R44): tick values, I/O share, cap, profiling, device state, programs. -/
structure CheckEnv where
  cfg : TickCfg
  ioPct : Nat
  cap : Nat
  prof : Bool
  reduced : Bool
  prog : Nat → Option Program

/-- Whether the certificate fits its slot: the last test of R44. -/
def slotFits (v : CheckEnv) (tab : List SlotEntry) (i : Nat) : Bool :=
  let e := tab.getD i {}
  match v.prog e.owner with
  | none => true
  | some p =>
    let c := p.certs.getD e.entry {}
    let n := tab.length
    let s := match prevOwned tab i with
      | some q => if q.owner == e.owner then 0 else swapBound (v.prog q.owner) (some p)
      | none => 0
    let g := if i == 0 then v.cfg.maint else 0
    let before := tab.getD ((i + n - 1) % n) {}
    let a := if before.rt then 0
      else match v.prog before.owner with
        | some q => maxOf ((q.certs.take q.nProg).map (fun c => c.maxMiNs)) - g
        | none => 0
    let length := if e.length == 0 then v.cfg.tMin - slotStart v.cfg.maint tab i else e.length
    c.wcetNs + s + a ≤ length

/-- R44 for one slot. -/
def slotOk (v : CheckEnv) (tab : List SlotEntry) (i : Nat) : Bool :=
  let e := tab.getD i {}
  match v.prog e.owner with
  | none => true
  | some p =>
    let c := p.certs.getD e.entry {}
    if p.nProg ≤ e.entry then false
    else if c.wcetNs == 0xFFFFFFFF then !e.rt
    else if v.reduced then !e.rt
    else if c.tcKhz != 1700000 || c.refreshX != 4 || c.latPct < 20 || c.ioPct < v.ioPct then false
    else if v.cap != 0 && v.cap < c.powerW then false
    else if v.prof && e.rt then false
    else slotFits v tab i

namespace Dev

/-- The tick configuration as it will stand at the next boundary (R44). -/
def nextCfg (d : Dev) : TickCfg := d.tu.pend.getD d.tu.cfg

/-- A program counts while its context is `LOADED`, `READY`, `RUNNING` or `PARKED` (R44). -/
def loadedProg (d : Dev) (i : Nat) : Option Program := if holds (d.ctx i) then (d.ctx i).prog else none

/-- The check as it stands, with one context's program replaced (R44). -/
def checkEnv (d : Dev) (x : Nat) (p : Option Program) : CheckEnv :=
  { cfg := d.nextCfg, ioPct := d.mcfg.ioPend.getD d.mcfg.ioPct, cap := d.power.cap, prof := d.profiling,
    reduced := d.st == .reduced, prog := fun i => if x != 0 && i == x then p else d.loadedProg i }

/-- The first entry of a table that fails, among those `sel` names. -/
def firstBadSlot (v : CheckEnv) (tab : List SlotEntry) (sel : Nat → Bool) : Option Nat :=
  (List.range tab.length).find? (fun i => sel i && !slotOk v tab i)

/-- Slots whose fit the tick in force breaks (R30, R45): slot programs of a context that own a slot which fails; of a
context loaded in `REDUCED` none (R410). -/
def brokenFit (d : Dev) (i : Nat) (c : Ctx) : List Nat :=
  match c.prog with
  | none => []
  | some p =>
    if d.st == .reduced || c.untimed then []
    else
      let v : CheckEnv := { d.checkEnv 0 none with cfg := d.tu.cfg }
      (List.range p.nProg).filter (fun e => (List.range d.slots.table.length).any (fun k =>
        let s := d.slots.table.getD k {}
        s.owner == i && s.entry == e && (p.certs.getD e {}).wcetNs != 0xFFFFFFFF && !slotFits v d.slots.table k))

end Dev

end Sys2Proof.Machine
end

