-- ==== Sys2Proof/Machine/Serve.lean ====
section
/-! DEFINITION. How a mailbox command runs (R317 to R320): the head of the queue, the checks in their order, the
statuses; the release of a context (R338) and of its codec streams; the parameter record (R403). -/

namespace Sys2Proof.Machine

/-- The answer of every command whose effect touches only what `COLD` loses. -/
def onDev (f : Dev → Dev) (s : State) : Host.Outcome State Fault Refusal := .next { s with dev := f s.dev }

/-- A field of a command's payload. -/
def MbCmd.f (c : MbCmd) (off len : Nat) : Nat := fld c.payload off len
def MbCmd.z (c : MbCmd) (off len : Nat) : Bool := zeros c.payload off len

/-- A check: what must hold, and the offset at fault. -/
abbrev Chk := Bool × Nat

/-- Whether the mailbox column of R324 allows the mailbox. -/
def mboxOk (msg mb : Nat) : Bool :=
  if msg ∈ [0x11, 0x12, 0x13, 0x14, 0x15, 0x30] then mb != 0
  else if msg ∈ [0x01, 0x02, 0x71, 0x72, 0xC0, 0xC1, 0xC2] then true
  else mb == 0

/-- Header fields that a command leaves zero (R315). Log 32 (DEDUCED). -/
def headerChks (c : MbCmd) : List Chk :=
  [(zeros c.hdr 10 2, 10), (zeros c.hdr 12 2, 12), (zeros c.hdr 14 2, 14), (zeros c.hdr 24 4, 24), (zeros c.hdr 28 4, 28),
   (zeros c.hdr 32 4, 32), (zeros c.hdr 36 4, 36), (zeros c.hdr 40 24, 40)]

/-- A fixed payload length (R319). -/
def lenIs (c : MbCmd) (n : Nat) : Chk := (c.payload.length == n, 8)

/-- The unit of a domain, of a kind of R326; none for the Crossing, the observation block and the always-on block (R459). -/
def unitOf (dom : Nat) : Option (Nat × Nat) :=
  if dom < 32 then some (0, dom) else if dom < 40 then some (6, dom - 32) else if dom < 48 then some (1, dom - 40)
  else if dom < 50 then some (2, dom - 48) else if dom < 52 then some (3, dom - 50) else if dom == 52 then some (4, 0) else none

/-- Domains that a MB_DOMAIN_SET names (R460). -/
def MbCmd.domains (c : MbCmd) : List Nat := if bit (c.f 16 1) 0 then (List.range 56).filter (bit (c.f 0 8)) else []

/-- Engines that a MB_SCRUB_CONTROL names (R307). -/
def MbCmd.stacks (c : MbCmd) : List Nat := (List.range 8).filter (bit (c.f 1 1))

/-- The units that a command is aimed at, by the kinds of R326 (R8, R9). Log 107 (DEDUCED). -/
def MbCmd.units (c : MbCmd) : List (Nat × Nat) :=
  match c.msg with
  | 0x40 => if c.f 1 1 == 0 then [] else [(6, 4)]
  | 0x71 => if c.f 0 1 == 2 then [(5, c.f 1 1)] else if c.f 0 1 == 3 then [(0, c.f 1 1)] else []
  | 0x80 => c.domains.filterMap unitOf
  | 0x81 => [(c.f 0 1, c.f 1 1)]
  | 0x82 => [(c.f 0 1, c.f 1 1)]
  | 0x90 => [(5, c.f 0 1)]
  | 0x91 => c.stacks.map (fun s => (1, s))
  | 0xC0 => [(2, c.f 0 1)]
  | 0xC1 => [(2, c.f 0 2 / 32)]
  | 0xC2 => [(2, c.f 0 2 / 32)]
  | _ => []

/-- Whether those units must be in service (R9). The messages that move units between states say so themselves, and a stack
is no unit that drains (R430). -/
def MbCmd.inUse (c : MbCmd) : Bool := c.msg ∈ [0x91, 0xC0, 0xC1, 0xC2] || (c.msg == 0x71 && c.f 0 1 == 3)

/-- Stacks that a repair or a scrub acts on (R307, R311). -/
def MbCmd.onStacks (c : MbCmd) : List Nat := if c.msg == 0x90 then [c.f 0 1] else if c.msg == 0x91 then c.stacks else []

/-- The offset of the first field at fault (R319). -/
def firstOff (l : List Chk) : Option Nat :=
  match (l.filter (fun x => !x.1)).map (fun x => x.2) with
  | [] => none
  | a :: l => some (l.foldl Nat.min a)

/-- Messages that need stacked memory or the Square, refused while domain 53 is off (R459). Log 34 (DEDUCED). -/
def needsCrossing (c : MbCmd) : Bool :=
  c.msg ∈ [0x11, 0x40, 0x62, 0x91, 0xB0, 0xC0, 0xC1] || (c.msg == 0x51 && c.f 2 1 == 0)
    || (c.msg == 0x70 && c.f 0 1 == 0 && c.f 1 1 != 0)

namespace Dev

/-- `DETAIL` of `BAD_STATE` for a context, a unit, the device (R319). Log 33 (DEDUCED). -/
def ctxDetail (d : Dev) (i : Nat) : Nat := (d.ctx i).st.code
def unitDetail (v : Svc) : Nat := v.code + 2 ^ 8
def devDetail (d : Dev) : Nat := d.st.code + 2 * 2 ^ 8

/-- The units of a command that are absent, and those that must be in service and are not (R8, R9). -/
def absentUnit (c : MbCmd) (d : Dev) : Option (Nat × Nat) := c.units.find? (fun u => !d.fitted u.1 u.2)
def idleUnit (c : MbCmd) (d : Dev) : Option (Nat × Nat) :=
  if c.inUse then c.units.find? (fun u => d.svcOf u.1 u.2 != .inService) else none

/-- A stack that a command acts on and that is still under test, or in `REDUCED` is not in service (R407, R411). -/
def idleStack (c : MbCmd) (d : Dev) : Option Nat :=
  if d.st == .full then none else c.onStacks.find? (fun s => (d.stack s).st != 0)

/-- Stages 1 to 3 of R318, then R328's table for faulted contexts: status and detail of the first failure.
Log 32 (DEDUCED), 34 (DEDUCED). -/
def refusal (mb : Nat) (c : MbCmd) (args : List Chk) (d : Dev) : Option (Nat × Nat) :=
  match firstOff ((mboxOk c.msg mb, 3) :: (headerChks c ++ args)) with
  | some o => some (8, o)
  | none =>
    let inLink := c.msg ∈ [0x01, 0x02, 0xA0]
    if !(d.st == .full || d.st == .reduced || (d.st == .link && inLink)) then some (7, d.devDetail)
    else if mb != 0 && (d.ctx mb).st == .unclaimed then some (7, 0xFF)
    else match d.absentUnit c with
      | some u => some (2, u.1 + u.2 * 2 ^ 8)
      | none =>
        if needsCrossing c && !d.power.on.getLsbD 53 then some (7, unitDetail .disabled)
        else match d.idleUnit c with
          | some u => some (7, unitDetail (d.svcOf u.1 u.2))
          | none =>
            match d.idleStack c with
            | some s => some (7, d.stackCode s + 2 ^ 8)
            | none =>
            if mb != 0 && ((d.ctx mb).st == .faulted || (d.ctx mb).st == .tearingDown) && !exemptMsg c.msg then
              some (7, d.ctxDetail mb)
            else none

/-- The head command of a mailbox runs when it is the message and form of the row and its turn has come (R317, R318,
R320, R358); else nothing changes. Log 31 (DESIGN CHOICE). -/
def serves (mb msg : Nat) (sel : MbCmd → Bool) (d : Dev) : Option MbCmd :=
  match (d.settle mb).headCmd mb with
  | some c => if c.msg == msg && sel c && (d.settle mb).mayRun c then some c else none
  | none => none

def reply (mb : Nat) (c : MbCmd) (status detail : Nat) (d : Dev) : Dev := d.complete mb c.order status detail false []
def okWith (mb : Nat) (c : MbCmd) (payload : List Byte) (d : Dev) : Dev := d.complete mb c.order 0 0 false payload

/-- A command that waits (R321): it stays outstanding. -/
def hold (mb : Nat) (c : MbCmd) (d : Dev) : Dev :=
  d.setMbox mb (fun m => { m with queue := m.queue.map (fun x => if x.order == c.order then { x with busy := true } else x) })

/-- The waiting commands of a message on a mailbox complete. -/
def finish (mb msg status detail : Nat) (payload : List Byte) (d : Dev) : Dev :=
  ((d.mbox mb).queue.filter (fun c => c.busy && c.msg == msg)).foldl
    (fun d c => d.complete mb c.order status detail false payload) d

end Dev

/-- A mailbox row: the head command served by `body`, or refused by the first failing check.
Log 31 (DESIGN CHOICE). -/
def serve (mb msg : Nat) (sel : MbCmd → Bool) (args : State → MbCmd → List Chk) (body : MbCmd → State → State)
    (s : State) : Host.Outcome State Fault Refusal :=
  match s.dev.serves mb msg sel with
  | none => .next { s with dev := s.dev.settle mb }
  | some c =>
    let s := { s with dev := s.dev.settle mb }
    let t := match s.dev.refusal mb c (args s c) with
      | some (st, det) => { s with dev := s.dev.reply mb c st det }
      | none => body c s
    .next { t with dev := t.dev.settle mb }

/-- A row whose effect touches only what `COLD` loses. -/
def serveD (mb msg : Nat) (sel : MbCmd → Bool) (args : State → MbCmd → List Chk) (body : MbCmd → Dev → Dev)
    (s : State) : Host.Outcome State Fault Refusal :=
  serve mb msg sel args (fun c s => { s with dev := body c s.dev }) s

/-- The parameter record rewritten (R403): the older copy takes the next count; an absent flash keeps nothing. -/
def Flash.record (f : Params → Params) (fl : Flash) : Flash :=
  if !fl.present then fl
  else
    let s0 := (fl.par0.map (fun p => p.seq)).getD 0
    let s1 := (fl.par1.map (fun p => p.seq)).getD 0
    let cur : Params := if s1 < s0 || fl.par1.isNone then fl.par0.getD {} else fl.par1.getD {}
    let new := { f cur with seq := Nat.max s0 s1 + 1 }
    if fl.par0.isNone || (fl.par1.isSome && s0 < s1) then { fl with par0 := some new } else { fl with par1 := some new }

/-- The newer valid copy. -/
def Flash.params (fl : Flash) : Params :=
  match fl.par0, fl.par1 with
  | some a, some b => if a.seq < b.seq then b else a
  | some a, none => a
  | none, some b => b
  | none, none => {}

namespace Dev

/-- Stream numbers are 32 × engine + index (R384). -/
def cstream (d : Dev) (n : Nat) : Option CStream := aget (d.codec.getD (n / 32) {}).streams n
def setCstream (n : Nat) (f : CStream → CStream) (d : Dev) : Dev :=
  d.setCodec (n / 32) (fun e => { e with streams := e.streams.map (fun p => if p.1 == n then (p.1, f p.2) else p) })

/-- Octets of a completion record (R392). -/
def crecBytes (tag status flags buf off len order tick seq : Nat) : List Byte :=
  leBytes 4 tag ++ leBytes 1 status ++ leBytes 1 flags ++ leBytes 2 buf ++ leBytes 8 off ++ leBytes 4 len ++ leBytes 4 order
    ++ leBytes 4 tick ++ leBytes 4 seq

/-- A completion record written at the next place of the ring, `DONE_SO` raised, errors reported (R392, R394, R424). -/
def codecRecord (n tag status flags buf off len order : Nat) (d : Dev) : Dev :=
  match d.cstream n with
  | none => d
  | some s =>
    let d := d.ioStore (s.crec + 32 * s.cpos) (crecBytes tag status flags buf off len order d.tu.tick.toNat (s.cseq + 1))
      (fun _ => false)
    let d := d.setCstream n (fun s => { s with cseq := s.cseq + 1, cpos := (s.cpos + 1) % Nat.max 1 s.crecN })
    let d := d.cnt 0x50 (n / 32) 1
    let d := match s.done with
      | some o => if s.detached then d else d.post s.ctx o 1
      | none => d
    if 1 ≤ status && status ≤ 3 then
      d.raise (if s.mbox == 0 then [] else [s.mbox]) { code := 0x8015, kind := 2, unit := n, reason := status, arg0 := tag }
    else d

/-- Frames of a stream completed as discarded (R395, R433). -/
def discardFrames (n : Nat) (fs : List FrameDesc) (d : Dev) : Dev :=
  fs.foldl (fun d f => d.codecRecord n f.tag 4 0 0 0 0 0) d

/-- Whether an engine works on a frame of a stream. -/
def inFrame (d : Dev) (n : Nat) : Bool := (d.codec.getD (n / 32) {}).cur.any (fun c => c.stream == n)

/-- The last record of a closing stream is written: the number is free, the close answered (R395). -/
def endStream (n : Nat) (d : Dev) : Dev :=
  match d.cstream n with
  | none => d
  | some s =>
    if s.closing.isNone || !s.queue.isEmpty || !s.held.isEmpty || d.inFrame n then d
    else
      let d := d.setCodec (n / 32) (fun e => { e with streams := adel e.streams n })
      ((d.mbox s.mbox).queue.filter (fun c => c.busy && c.msg == 0xC2 && c.f 0 2 == n)).foldl
        (fun d c => d.complete s.mbox c.order 0 0 false []) d

/-- A stream closed under `MODE` 1 (R395). -/
def closeDiscard (n : Nat) (d : Dev) : Dev :=
  match d.cstream n with
  | none => d
  | some s =>
    let d := d.setCstream n (fun s => { s with queue := [], held := [], closing := some 1 })
    (d.discardFrames n (s.held ++ s.queue)).endStream n

/-- Streams a mailbox opened. -/
def streamsOf (d : Dev) (mb : Nat) : List Nat :=
  d.codec.flatMap (fun e => (e.streams.filter (fun p => p.2.mbox == mb)).map (fun p => p.1))

/-- A context's kerb commands and macro-instructions vanish (R161, R339). -/
def dropWork (i : Nat) (d : Dev) : Dev :=
  let mine : List Nat := (d.kcmds.filter (fun p => p.2.ctx == i)).map (fun p => p.1)
  { d with
    kerb := d.kerb.map (fun e => { e with queue := e.queue.filter (fun q => !mine.contains q.cmd) })
    kcmds := d.kcmds.filter (fun p => p.2.ctx != i)
    mis := d.mis.filter (fun m => m.ctx != i)
    staged := d.staged.filter (fun x => d.mis.all (fun m => m.ctx != i || m.id != x.mi)) }

/-- Everything a context held is released, and it is unclaimed (R338, R366). Log 41 (DESIGN CHOICE). -/
def release (i : Nat) (d : Dev) : Dev :=
  let d := d.dropWork i
  let d : Dev := { d with
    codec := d.codec.map (fun (e : Codec) => { e with streams := e.streams.map (fun (p : Nat × CStream) =>
      if p.2.ctx == i then (p.1, { p.2 with detached := true }) else p) })
    net := { d.net with
      windows := d.net.windows.map (fun (p : Nat × Window) => if p.2.ctx == i && p.2.so.isSome then (p.1, { p.2 with detached := true }) else p)
      groups := d.net.groups.filter (fun p => p.2.owner != i) }
    ctr := d.ctr.filter (fun p => !(0x60 ≤ p.1 / 256 && p.1 % 256 == i))
    slots := { d.slots with resident := if d.slots.resident == i then 0 else d.slots.resident } }
  let d := d.setCtx i (fun _ => {})
  d.setMbox i (fun m => { m with events := [], evSeq := 0, lost := 0, sub := none })

/-- A destroy that has torn down proceeds when its codec streams are closed; its response follows (R338).
Log 41 (DESIGN CHOICE). -/
def tryRelease (i : Nat) (d : Dev) : Dev :=
  if !(d.ctx i).destroyWait || ((d.ctx i).st == .tearingDown && !(d.ctx i).torn) then d
  else
    let d := (d.streamsOf i).foldl (fun d n => d.closeDiscard n) d
    if !(d.streamsOf i).isEmpty then d
    else (d.release i).finish i 0x14 0 0 []

/-- A context is `PARKED`: its stops are answered (R335). -/
def park (i : Nat) (d : Dev) : Dev :=
  (d.setCtx i (fun c => { c with st := .parked, stopMode := none })).finish i 0x13 0 0 []

end Dev

end Sys2Proof.Machine
end

