-- ==== Sys2Proof/Machine/Slots.lean ====
section
/-! DEFINITION. Slots (R37 to R42), swaps (R120, R162), invocations and yields (R38 to R40, R97, R335, R336, R432),
maintenance time (R34) and the trace drain that runs in it (R446). -/

namespace Sys2Proof.Machine

/-- Address range of the core buffers (R103). -/
def coreBase : Nat := 0x300000000000

/-- Whether an operand lies in Square scratch. -/
def inScratch (a : Nat) : Bool := 0x200000000000 ≤ a && a < 0x300000000000

namespace Dev

/-- Nominal start of an entry (R35, R38). -/
def nominalOf (d : Dev) (i : Nat) : Nat := d.tu.startNs + slotStart d.tu.cfg.maint d.slots.table i

/-- The context whose invocation is executing (R38, R40); 0 for none. -/
def executing (d : Dev) : Nat :=
  if d.slots.late != 0 then d.slots.late
  else match d.slots.cur with
    | some r => if r.idle || r.swapping || r.ended then 0 else (d.entryAt r.i).owner
    | none => 0

/-- Whether the slot program, or the yielded work, of a context needs a cluster that is not in service (R432). -/
def blocked (d : Dev) (i entry : Nat) : Bool :=
  match (d.ctx i).prog with
  | none => true
  | some p =>
    (List.range 32).any (fun k => (d.cluster k).svc != .inService
      && ((p.streams.getD (32 * entry + k) none).isSome
          || p.coresets.any (fun c => c.1 / 256 == k && bits c.2.toNat 11 0 != 0)
          || ((d.ctx i).yielded && !((d.ctx i).streams.getD k {}).halted)))

/-- Whether an entry would run an invocation (R37, R40, R432). -/
def runnable (d : Dev) (e : SlotEntry) : Bool :=
  let c := d.ctx e.owner
  e.owner != 0 && (c.st == .ready || c.st == .running)
    && e.entry < (c.prog.map (fun p => p.nProg)).getD 0 && !d.blocked e.owner e.entry

/-- One packet of the trace drain (R446): the bytes from the send position, cut at the ring's end, the span's end and the
largest payload. -/
def drainPacket (d : Dev) : Option (Nat × Nat × Packet) :=
  let t := d.trace
  if t.dstate != 0 || t.cfg.peer == 0xFFFF || t.cfg.ring.isNone || t.wpos ≤ t.sentPos then none
  else
    let o := t.sentPos % (t.cfg.size - 64)
    let w := t.sentPos % t.cfg.span
    let n := Nat.min (Nat.min (t.wpos - t.sentPos) (maxPayload d.net.fab)) (Nat.min (t.cfg.size - 64 - o) (t.cfg.span - w))
    some (ringAt t t.sentPos, n, { Packet.mk0 2 [] with obj := BitVec.ofNat 16 t.cfg.win, ooff := BitVec.ofNat 64 w })

/-- At most `n` packets of the trace drain sent, in maintenance time only and while the transport takes them at once, read in the
`BKG` class, and behind a calibration step of any stack that holds them (R34, R46, R446, R47). -/
def drainTrace : Nat → Dev → Dev
  | 0, d => d
  | n + 1, d =>
    if !d.maintTime then d
    else match d.drainPacket with
      | none => d
      | some (a, len, p) =>
        if d.calAhead a len || !d.goesAtOnce d.trace.cfg.peer p then d
        else
          drainTrace n (({ d with trace := { d.trace with sentPos := d.trace.sentPos + len } }).sendData d.trace.cfg.peer p 0x1000 a len)

/-- Every packet the drain has to send. -/
def drainAll (d : Dev) : Dev := d.drainTrace (d.trace.wpos - d.trace.sentPos)

/-- A trace record of a slot (R444). -/
def slotRec (rtype ctx a0 a1 : Nat) (d : Dev) : Dev := d.traceRec 3 rtype ctx 0x200 0 a0 a1

/-- A deadline missed (R39 to R41): `EV_DEADLINE_MISS` with the entry, the reason and the tick. -/
def missed (i reason : Nat) (d : Dev) : Dev :=
  let o := (d.entryAt i).owner
  (d.cnt 0x60 o 1).raise [o] { code := 0x8003, ctx := o, unit := i, reason := reason, arg0 := d.tu.tick.toNat }

/-- The granules of a program's unpinned, non-transient partitions on the dies, as Square addresses / 4096 (R120). -/
def granules (p : Program) : List Nat :=
  (p.parts.filter (fun x => !x.granted && !x.transient)).flatMap (fun x =>
    (List.range (x.size / 4096)).map (fun g => (sqBase x.die + x.off) / 4096 + g))

/-- Core buffers of the cores that a program names (R120, R121), as address ranges. -/
def coreBufs (p : Program) : List (Nat × Nat) :=
  (List.range 32).flatMap (fun k =>
    let m := (p.coresets.filter (fun e => e.1 / 256 == k)).foldl (fun m e => m ||| e.2) (0 : BitVec 64)
    ((List.range 12).filter (fun c => m.getLsbD c)).map (fun c => (coreBase + (12 * k + c) * 2 ^ 20, 2 ^ 19)))

/-- The partitions of a die that a swap moves (R120), in manifest order. -/
def movedParts (p : Program) (die : Nat) : List Partition := p.parts.filter (fun x => x.die == die && !x.granted && !x.transient)

/-- The die whose stacks hold a span or stack view (R121). -/
def dieOfSpace (sp : Nat) : Nat := if 0x10 ≤ sp then (sp - 0x10) / 4 else sp - 1

/-- Base of the save area of a die (R121). -/
def saveBase (p : Program) (die : Nat) : Nat := ((p.save.find? (fun s => dieOfSpace s.1 == die)).map (fun s => s.2.1)).getD 0

/-- Where a granule of a moved partition is saved: the partitions of the die back to back in manifest order.
Log 42 (DESIGN CHOICE). -/
def saveAt (p : Program) (key : Nat) : Nat :=
  let die := (key - 0x200000000000) / 0x40000000
  let o := (key - 0x200000000000) % 0x40000000
  let r := (movedParts p die).foldl (fun (st : Nat × Option Nat) x =>
    (st.1 + x.size, if x.off ≤ o && o < x.off + x.size && st.2.isNone then some (st.1 + (o - x.off)) else st.2)) (0, none)
  saveBase p die + r.2.getD 0

/-- Core buffers of the cores that a program names (R120, R121), and where their live bytes, the first `CB_LIVE` of each,
are saved: after the partitions of the die, in core order. Log 42 (DESIGN CHOICE). -/
def bufPlaces (p : Program) : List (Nat × Nat × Nat) :=
  (List.range 2).flatMap (fun die =>
    let n := nth p.cbLive die
    let b := saveBase p die + sumOf ((movedParts p die).map (fun x => x.size))
    ((coreBufs p).filter (fun r => (r.1 - coreBase) / 2 ^ 20 / 192 == die)).zipIdx.map (fun r => (r.1.1, b + n * r.2, n)))

/-- The swap's own traffic: no allocation, in `BULK`, outside the I/O share (R126, R302). -/
def Access.swap : Access := { alloc := false, chint := 1, cls := 0 }

/-- n bytes from a Square or core-buffer address written to a save area, poison with them (R120, R128). -/
def saveRange (key a n : Nat) (d : Dev) : Dev :=
  let (r, d) := d.fetch Access.swap key n
  d.store Access.swap 0 a r.1 (fun l => r.2.contains (64 * l + key - a))

/-- n bytes of a save area put back (R120, R128). -/
def restoreRange (key a n : Nat) (d : Dev) : Dev :=
  let (r, d) := d.fetch Access.swap a n
  (List.range (n / 64)).foldl (fun d i =>
    (d.clearUpsets (key + 64 * i) (List.range 8)).storeLine (key + 64 * i) ((r.1.drop (64 * i)).take 64) (r.2.contains (a + 64 * i))) d

/-- Step 1 of a swap (R120): the dirty granules of the outgoing context, and its live core-buffer bytes if it yielded, written
to its save area. Log 42 (DESIGN CHOICE), 61 (DEDUCED). -/
def saveOut (o : Nat) (d : Dev) : Nat × Dev :=
  let c := d.ctx o
  match c.prog with
  | none => (0, d)
  | some p =>
    if !holds c then (0, d)
    else
      let gs := (granules p).filter (fun g => c.dirty.contains g)
      let d := gs.foldl (fun d g => d.saveRange (4096 * g) (saveAt p (4096 * g)) 4096) d
      let bufs := if c.yielded then bufPlaces p else []
      let d := bufs.foldl (fun d r => d.saveRange r.1 r.2.1 r.2.2) d
      (4096 * gs.length + sumOf (bufs.map (fun r => r.2.2)), d.setCtx o (fun c => { c with dirty := [] }))

/-- Transient partitions and granules that are not valid hold undefined contents (R120). -/
def undefScratch (i : Nat) (transientOnly : Bool) (d : Dev) : Dev :=
  let c := d.ctx i
  match c.prog with
  | none => d
  | some p =>
    let m := (p.parts.filter (fun x => x.transient && !x.granted)).foldl
      (fun m x => m.undefine (sqBase x.die + x.off) x.size d.fresh) d.mem
    let m := if transientOnly then m
      else ((granules p).filter (fun g => !c.valid.contains g)).foldl (fun m g => m.undefine (4096 * g) 4096 d.fresh) m
    { d with mem := m }.bump

/-- Step 2 of a swap (R120): the valid granules of the incoming context, and its live core-buffer bytes if it yielded, read
from its save area; what is not live in a core buffer is undefined. Log 42 (DESIGN CHOICE), 61 (DEDUCED). -/
def restoreIn (i : Nat) (d : Dev) : Nat × Dev :=
  let c := d.ctx i
  match c.prog with
  | none => (0, d)
  | some p =>
    let gs := (granules p).filter (fun g => c.valid.contains g)
    let d := gs.foldl (fun d g => d.restoreRange (4096 * g) (saveAt p (4096 * g)) 4096) (d.undefScratch i false)
    let bufs := if c.yielded then bufPlaces p else []
    let d := if bufs.isEmpty then d
      else ({ d with mem := (coreBufs p).foldl (fun (m : Mem) (r : Nat × Nat) => m.undefine r.1 r.2 d.fresh) d.mem }).bump
    let d := bufs.foldl (fun d r => d.restoreRange r.1 r.2.1 r.2.2) d
    (4096 * gs.length + sumOf (bufs.map (fun r => r.2.2)), d.setCtx i (fun c => { c with dirty := [] }))

/-- The slot program of a context started from its beginning (R38, R50, R71, R120, R336, R447). Log 61 (DEDUCED). -/
def startFresh (i entry : Nat) (d : Dev) : Dev :=
  match (d.ctx i).prog with
  | none => d
  | some p =>
    let d := (d.cnt 0x67 i 1).undefScratch i false
    let d := { d with mem := d.mem.undefine coreBase (d.nCores * 2 ^ 20) d.fresh }.bump
    let d := d.setCtx i (fun c => { c with
      st := .running, entry := entry, unfinished := true, yielded := false, lastStart := d.tu.tick
      bounds := c.pendBounds.foldl (fun b w => b.set w.1 w.2) c.bounds, pendBounds := []
      streams := (List.range 32).map (fun k =>
        match p.streams.getD (32 * entry + k) none with
        | some b => { pc := b, halted := false }
        | none => {}) })
    d.finish i 0x30 0 0 []

/-- An invocation starts, or the yielded work resumes first (R39). -/
def startInvocation (i entry : Nat) (d : Dev) : Dev :=
  let resume := (d.ctx i).yielded
  let d := { d with slots := { d.slots with cur := d.slots.cur.map (fun (r : SlotRun) => { r with swapping := false, own := !resume }) } }
  if resume then
    d.setCtx i (fun c => { c with
      st := .running, yielded := false, streams := c.streams.map (fun (x : Stream) => { x with yielded := false }) })
  else d.startFresh i entry

/-- The slot in progress is over: its record is placed (R444). -/
def closeSlot (reason : Nat) (d : Dev) : Dev :=
  match d.slots.cur with
  | none => d
  | some r => ({ d with slots := { d.slots with cur := none } }).slotRec 0x31 (d.entryAt r.i).owner r.i reason

/-- How the slot in progress ended: 0 on time, 1 overrun, 3 yielded (R444). -/
def endReason (d : Dev) (r : SlotRun) : Nat :=
  if !r.idle && (d.ctx (d.entryAt r.i).owner).yielded then 3 else b2n r.overrun

/-- The slot in progress, if there is one, lets the next begin: it is idle or its invocation has ended. -/
def slotFree (d : Dev) : Bool :=
  d.slots.late == 0 && d.slots.swapTo == 0 && (match d.slots.cur with | some r => r.idle || r.ended | none => true)

/-- When the next slot may begin (R38, R39). -/
def nextStart (d : Dev) : Nat :=
  Nat.max (d.nominalOf d.slots.nxt) (match d.slots.cur with | some r => d.slotEndNs r | none => 0)

/-- The next slot begins (R38, R41): lateness counted, an idle slot, a swap, or the invocation.
Log 58 (DEDUCED), 62 (DESIGN CHOICE). -/
def beginSlot (d : Dev) : Dev :=
  let i := d.slots.nxt
  if d.slots.window || d.slots.table.length ≤ i || !d.slotFree then d
  else
    let d := d.upTo d.nextStart
    let d := match d.slots.cur with | some r => d.closeSlot (d.endReason r) | none => d
    let e := d.entryAt i
    let late := d.now - d.nominalOf i
    let d := if e.owner == 0 || late == 0 || (d.ctx e.owner).st == .unclaimed then d else d.cnt 0x61 e.owner late
    let run := d.runnable e
    let swap := run && d.slots.resident != e.owner
    let r : SlotRun :=
      { i := i, startNs := d.now, endNs := if e.length == 0 then none else some (d.now + e.length), idle := !run, swapping := swap }
    let d := { d with slots := { d.slots with
      nxt := i + 1, cur := some r, swapTo := if swap then e.owner else 0, swapNs := d.now } }
    let d := d.slotRec 0x30 e.owner i e.owner
    if run && !swap then d.startInvocation e.owner e.entry else d

/-- Commands of the resident context that the swap waits for: those with an operand in scratch, a `KSURV`'s table among
them, that an engine has neither completed nor stopped (R162). -/
def swapHeld (d : Dev) : Bool :=
  d.kcmds.any (fun p => p.2.ctx == d.slots.resident
    && (fld p.2.raw 0 1 == 5 || inScratch p.2.prog || p.2.tens.any (fun t => t.any (fun t => inScratch t.base)))
    && d.kerb.any (fun e => e.queue.any (fun q => q.cmd == p.1 && !q.stopped)))

/-- The history of the stream prefetchers is cleared (R125). -/
def forget (i : Nat) (d : Dev) : Dev :=
  d.setCtx i (fun c => { c with streams := c.streams.map (fun (x : Stream) =>
    { x with loops := x.loops.map (fun (l : LoopLevel) => { l with seen := 0 }) }) })

/-- Whether a context must yield at its next macro-instruction boundary (R39, R40, R335). -/
def mustYield (d : Dev) (i : Nat) : Bool :=
  d.slots.late == i || (d.ctx i).stopMode == some 0
    || (match d.slots.cur with | some r => r.yielding && !r.idle && !r.ended && (d.entryAt r.i).owner == i | none => false)

/-- Whether a macro-instruction holds back no yield: a `KRB` (R162), a fenced one (R433, R434), and a `CONV` of which only tiles
that hold for their halo are left (R256). Log 60 (DEDUCED). -/
def letsYield (m : InFlight) : Bool :=
  miOpc m.raw == 0x40 || m.fenced || (m.todo.any (fun p => !p.2.isEmpty) && m.todo.all (fun p => p.2.all (fun w => m.halo.contains w)))

/-- Whether a stream has dealt work that must complete before it yields. -/
def dealt (d : Dev) (i st : Nat) : Bool := d.mis.any (fun m => m.ctx == i && m.st == st && !letsYield m)

/-- The executing invocation is over, ended or yielded: the slot's rest is maintenance time, a stop parks (R34, R38,
R335). -/
def leave (i : Nat) (yielded : Bool) (d : Dev) : Dev :=
  let d := d.setCtx i (fun c => { c with st := .ready, yielded := yielded, unfinished := yielded })
  let d := if d.slots.late == i then { d with slots := { d.slots with late := 0 } }
    else { d with slots := { d.slots with cur := d.slots.cur.map (fun (r : SlotRun) => { r with ended := true }) } }
  let stop := (d.ctx i).stopMode
  if stop == some 0 || (stop == some 1 && !yielded) then d.park i else d

/-- When every stream of the executing context has halted or yielded and its dealt work is complete, it has yielded.
Log 59 (DEDUCED), 60 (DEDUCED). -/
def tryYield (i : Nat) (d : Dev) : Dev :=
  let c := d.ctx i
  if d.executing == i && d.mustYield i && c.streams.all (fun s => s.halted || s.yielded)
      && c.streams.any (fun s => s.yielded) && !d.mis.any (fun m => m.ctx == i && !letsYield m) then d.leave i true
  else d

end Dev

/-- SLOT_BEGIN (R38). -/
def execSlotBegin (s : State) : Host.Outcome State Fault Refusal := onDev Dev.beginSlot s

/-- SWAP_COMPLETE (R120, R40): the outgoing state saved, the incoming restored; the invocation starts, unless the boundary
has passed or the context can no longer run. -/
def execSwapComplete (s : State) : Host.Outcome State Fault Refusal :=
  onDev (fun d =>
    let i := d.slots.swapTo
    if i == 0 || d.swapHeld then d
    else
      let (n, d) := d.saveOut d.slots.resident
      let ok := Dev.holds (d.ctx i)
      let (m, d) := if ok then d.restoreIn i else (0, d)
      let d := { d with staged := [], slots := { d.slots with resident := if ok then i else 0, swapTo := 0 } }.forget i
      let d := d.slotRec 0x32 i (n + m) (d.now - d.slots.swapNs)
      match d.slots.cur with
      | some r =>
        if !r.swapping then d
        else if d.runnable (d.entryAt r.i) then d.startInvocation i (d.entryAt r.i).entry
        else { d with slots := { d.slots with cur := some { r with swapping := false, idle := true } } }
      | none => d) s

/-- SLOT_END (R39): the slot's length expires with its invocation unfinished. -/
def execSlotEnd (s : State) : Host.Outcome State Fault Refusal :=
  onDev (fun d =>
    match d.slots.cur with
    | none => d
    | some r =>
      match r.endNs with
      | none => d
      | some t =>
        if r.idle || r.ended || r.overrun then d
        else
          let e := d.entryAt r.i
          let d := d.upTo t
          let d := { d with slots := { d.slots with cur := some { r with overrun := true, yielding := e.rt && e.yield } } }
          (if e.rt then d.missed r.i 0 else d).tryYield e.owner) s

/-- INVOCATION_END (R38): every stream has halted and every Kerb command is done; resumed work is followed by the slot's
own invocation (R39), except under a stop or a yield in progress (R335). Log 58 (DEDUCED). -/
def execInvocationEnd (s : State) : Host.Outcome State Fault Refusal :=
  onDev (fun d =>
    let i := d.executing
    let c := d.ctx i
    if i == 0 || c.st != .running || !c.streams.all (fun x => x.halted) || d.mis.any (fun m => m.ctx == i)
        || d.kcmds.any (fun p => p.2.ctx == i) then d
    else match d.slots.cur with
      | some r => if d.slots.late != i && !r.own && !r.yielding && c.stopMode.isNone then
          ({ d with slots := { d.slots with cur := some { r with own := true } } }).startFresh i (d.entryAt r.i).entry
        else d.leave i false
      | none => d.leave i false) s

/-- STREAM_YIELD (R40, R97, R431): a stream at a macro-instruction boundary yields, when its context must, or when its
cluster drains. Log 60 (DEDUCED). -/
def execStreamYield (st : Nat) (s : State) : Host.Outcome State Fault Refusal :=
  onDev (fun d =>
    let i := d.executing
    let x := (d.ctx i).streams.getD st { halted := true }
    if i == 0 || x.halted || x.yielded || x.hold == .krb || d.dealt i st || !(d.mustYield i || (d.cluster st).svc != .inService) then d
    else (d.setCtx i (fun c => { c with streams := c.streams.modify st (fun x => { x with yielded := true }) })).tryYield i) s

end Sys2Proof.Machine
end

