-- ==== Sys2Proof/Machine/Loader.lean ====
section
/-! DEFINITION. MB_CTX_LOAD: the image (R329, R330), its checks (R331, R332), the placement of regions, partitions, save
areas and data (R119, R121, R333), and the completion of the copy. -/

namespace Sys2Proof.Machine

/-- A section of the directory (R330). -/
structure Sect where
  typ : Nat
  count : Nat
  off : Nat
  size : Nat
  deriving DecidableEq, Repr

/-- A data record: its offset in the image, region, offset there, bytes. -/
structure DataRec where
  at' : Nat
  region : Nat
  off : Nat
  bytes : List Byte
  deriving DecidableEq, Repr

/-- The data records of a type-8 section, each padded to 64 bytes, and the end of the last one's bytes (R330). -/
def dataRecs (b : List Byte) : Nat → Nat → List DataRec × Nat
  | 0, off => ([], off)
  | n + 1, off =>
    let len := fld b (off + 8) 8
    let r : DataRec := { at' := off, region := fld b off 1, off := fld b (off + 2) 6, bytes := (b.drop (off + 16)).take len }
    let rest := dataRecs b n (off + alignUp (16 + len) 64)
    (r :: rest.1, if n == 0 then off + 16 + len else rest.2)

/-- Bytes of one unit of a section type. -/
def unitSize (t : Nat) : Nat :=
  match t with
  | 1 | 2 => 16
  | 3 => 32
  | 4 | 6 => 8
  | 5 => 2048
  | 7 => 4
  | _ => 0

/-- The image taken apart. -/
structure Image where
  b : List Byte
  sects : List Sect
  regions : List Region
  parts : List Partition
  certs : List Cert
  data : List DataRec
  deriving DecidableEq, Repr

namespace Image

def sect (m : Image) (t : Nat) : Option Sect := m.sects.find? (fun s => s.typ == t)
def offOf (m : Image) (t : Nat) : Nat := ((m.sect t).map (fun s => s.off)).getD 0
def countOf (m : Image) (t : Nat) : Nat := ((m.sect t).map (fun s => s.count)).getD 0

/-- Records of a type at their offsets in the image. -/
def recs (m : Image) (t : Nat) : List Nat := (List.range (m.countOf t)).map (fun i => m.offOf t + unitSize t * i)

/-- 64-bit words in ascending order, and n of them at an offset of the image. -/
def u64s : Nat → List Byte → List Nat
  | 0, _ => []
  | n + 1, b => leNat (b.take 8) :: u64s n (b.drop 8)
def words (m : Image) (o n : Nat) : List Nat := u64s n (m.b.drop o)

def parse (b : List Byte) : Image :=
  let n := Nat.min (fld b 6 2) 32
  let sects := (List.range n).map (fun i =>
    let e := 64 + 16 * i
    let t := fld b e 2
    let c := fld b (e + 4) 4
    let o := fld b (e + 8) 8
    ({ typ := t, count := c, off := o,
       size := if t == 8 then (dataRecs b (Nat.min c b.length) o).2 - o else c * unitSize t } : Sect))
  let m : Image := ⟨b, sects, [], [], [], []⟩
  let cap (l : List Nat) : List Nat := l.filter (fun o => o < b.length)
  { m with
    regions := (cap (m.recs 1)).map (fun o => ({ size := fld b o 8, region := fld b (o + 8) 1, place := fld b (o + 9) 1,
                                                 zero := fld b (o + 10) 1 == 1 } : Region))
    parts := (cap (m.recs 2)).map (fun o => ({ size := fld b o 4, die := fld b (o + 4) 1, region := fld b (o + 5) 1,
                                               pin := bit (fld b (o + 6) 1) 0, transient := bit (fld b (o + 6) 1) 1 } : Partition))
    certs := (cap (m.recs 3)).map (fun o => ({ wcetNs := fld b o 4, maxMiNs := fld b (o + 4) 4, tcKhz := fld b (o + 8) 4,
                                               refreshX := fld b (o + 12) 1, latPct := fld b (o + 13) 1, ioPct := fld b (o + 14) 1,
                                               corrAllow := fld b (o + 16) 2, powerW := fld b (o + 18) 2 } : Cert))
    data := (sects.filter (fun s => s.typ == 8)).flatMap (fun s => (dataRecs b (Nat.min s.count b.length) s.off).1) }

def nDesc (m : Image) : Nat := fld m.b 32 2
def descPart (m : Image) : Nat := fld m.b 34 1
def tablePart (m : Image) : Nat := fld m.b 35 1
def ctSlots (m : Image) : Nat := fld m.b 36 2
def nProg (m : Image) : Nat := fld m.b 38 1

/-- Size of a named region (0 for one that the image does not name), and whether it is a transient partition. -/
def regionSize (m : Image) (r : Nat) : Nat :=
  match m.regions.find? (fun x => x.region == r) with
  | some x => x.size
  | none => ((m.parts.find? (fun x => x.region == r)).map (fun x => x.size)).getD 0
def transientRegion (m : Image) (r : Nat) : Bool := m.parts.any (fun x => x.region == r && x.transient)
def squareRegion (m : Image) (r : Nat) : Bool := m.parts.any (fun x => x.region == r)

/-- Bytes that the data records put at an offset of a region, 0 where none does. -/
def placed (m : Image) (r off n : Nat) : List Byte :=
  (List.range n).map (fun i =>
    let o := off + i
    ((m.data.reverse.find? (fun x => x.region == r && x.off ≤ o && o < x.off + x.bytes.length)).map
      (fun x => x.bytes.getD (o - x.off) 0)).getD 0)

/-- A bank of a lookup slot (R208): in Square scratch, by its region within that partition. `scr` tells whether a range of absolute
addresses is Square scratch. -/
def bankOk (scr : Nat → Nat → Bool) (m : Image) (i : Nat) : Bool :=
  i < m.nDesc && (let reg := ((m.parts.getD m.descPart {}).region)
    match Desc.parse (m.placed reg (64 * i) 64) true with
    | none => false
    | some x => x.rank == 1 && x.dtype == .uint8 && x.comp == 0 && nth x.dim 0 == 1088 && x.src.getD 0 (0, 0) == (0, 0)
        && (if bit x.base 47 then scr (x.base % 2 ^ 47) 1088
            else m.squareRegion (bits x.base 46 41) && x.base % 2 ^ 41 + 1088 ≤ m.regionSize (bits x.base 46 41)))

/-- The lookup directory (R208). Log 46 (DEDUCED). -/
def lutDirOk (scr : Nat → Nat → Bool) (m : Image) : Bool :=
  let reg := (m.parts.getD m.descPart {}).region
  (List.range 8).all (fun s =>
    let e := m.placed reg (64 * m.nDesc + 8 * s) 8
    let f0 := fld e 0 2
    let f1 := fld e 2 2
    zeros e 7 1 && (if bit f0 15 || bit f1 15 then f0 == 0x8000 && f1 == 0x8000
      else f0 < 4096 && f1 < 4096 && m.bankOk scr f0 && m.bankOk scr f1))

/-- The fields of the image header that stand alone, with their offsets (R329, R332). Log 44 (DEDUCED). -/
def hdrChks (m : Image) : List Chk :=
  let b := m.b
  [(fld b 0 4 == 0x4E4C4154, 0), (fld b 4 2 == 1, 4), ((m.sect 3).isSome && (m.sect 4).isSome, 6), (bits (fld b 8 8) 31 27 == 0, 8),
   (fld b 24 8 == 2 ^ 64 - 1 || (fld b 24 8 < 2 ^ 48 && fld b 24 8 % 256 == 0), 24), (1 ≤ m.nDesc && m.nDesc ≤ 4096, 32),
   (m.ctSlots ≤ 1024, 36), (1 ≤ m.nProg && m.nProg ≤ 64, 38), (zeros b 39 1, 39),
   (fld b 48 4 % 4096 == 0 && fld b 48 4 ≤ 524288, 48), (fld b 52 4 % 4096 == 0 && fld b 52 4 ≤ 524288, 52), (zeros b 56 8, 56)]

/-- The fields of the form stage that place the others (R332): the section count, the directory, the partitions.
Log 44 (DEDUCED). -/
def frameChks (m : Image) : List Chk :=
  let b := m.b
  let n := b.length
  let ns := fld b 6 2
  let names := m.regions.map (fun r => r.region) ++ m.parts.map (fun p => p.region)
  let hdr : List Chk := [(64 ≤ n, 0), (2 ≤ ns && ns ≤ 32 && 64 + 16 * ns ≤ n, 6)]
  let dir : List Chk := m.sects.zipIdx.flatMap (fun (p : Sect × Nat) =>
    let e := 64 + 16 * p.2
    let s := p.1
    let want := match s.typ with
      | 3 => some m.nProg
      | 4 => some (32 * m.nProg)
      | 5 => some 32
      | 7 => some 64
      | _ => none
    let before := m.sects.take p.2
    [(1 ≤ s.typ && s.typ ≤ 8 && (s.typ == 8 || !before.any (fun x => x.typ == s.typ)), e), (zeros b (e + 2) 2, e + 2),
     (want.isNone || want == some s.count, e + 4),
     (s.off % 64 == 0 && 64 + 16 * ns ≤ s.off && s.off + s.size ≤ n
        && !before.any (fun x => x.off < s.off + s.size && s.off < x.off + x.size), e + 8)])
  let prts : List Chk := ((m.recs 2).zip m.parts).zipIdx.flatMap (fun (p : (Nat × Partition) × Nat) =>
    let o := p.1.1
    [(p.1.2.size != 0 && p.1.2.size % 4096 == 0, o), (p.1.2.die ≤ 1, o + 4),
     (p.1.2.region < 64 && !(names.take (m.regions.length + p.2)).contains p.1.2.region, o + 5),
     (fld b (o + 6) 1 ≤ 2, o + 6), (zeros b (o + 7) 9, o + 7)])
  hdr ++ dir ++ prts

/-- The regions and data records (R332). Log 44 (DEDUCED). -/
def placeChks (m : Image) : List Chk :=
  let b := m.b
  let names := m.regions.map (fun r => r.region)
  let regs : List Chk := ((m.recs 1).zip m.regions).zipIdx.flatMap (fun (p : (Nat × Region) × Nat) =>
    let o := p.1.1
    [(p.1.2.size != 0 && p.1.2.size % 4096 == 0, o), (p.1.2.region < 64 && !(names.take p.2).contains p.1.2.region, o + 8),
     (p.1.2.place ≤ 2, o + 9), (fld b (o + 10) 1 ≤ 1, o + 10), (zeros b (o + 11) 5, o + 11)])
  let dat : List Chk := m.data.flatMap (fun r => [(r.region < 64, r.at'), (zeros b (r.at' + 1) 1, r.at' + 1)])
  regs ++ dat

/-- The other records (R332). Log 44 (DEDUCED). -/
def recordChks (m : Image) : List Chk :=
  let b := m.b
  let crts : List Chk := ((m.recs 3).zip m.certs).flatMap (fun (p : Nat × Cert) =>
    [(p.2.maxMiNs ≤ 200000, p.1 + 4), (p.2.latPct ≤ 20, p.1 + 13), (zeros b (p.1 + 15) 1, p.1 + 15), (zeros b (p.1 + 20) 12, p.1 + 20)])
  let strs : List Chk := (m.recs 4).map (fun o =>
    (fld b o 8 == 2 ^ 64 - 1 || (fld b o 8 < 2 ^ 48 && fld b o 8 % 64 == 0), o))
  let css : List Chk := (m.recs 5).flatMap (fun o => (m.words o 256).zipIdx.map (fun (v : Nat × Nat) =>
    (bits v.1 15 12 == 0 && bits v.1 63 33 == 0, o + 8 * v.2)))
  let objs : List Chk := (m.recs 6).zipIdx.flatMap (fun p =>
    [(fld b p.1 2 < 2 ^ 14 && !((m.recs 6).take p.2).any (fun o => fld b o 2 == fld b p.1 2), p.1), (zeros b (p.1 + 2) 2, p.1 + 2)])
  crts ++ strs ++ css ++ objs

/-- The checks of the form stage that rest on the partitions (R332): `DESC_PART` and `TABLE_PART`. Log 44 (DEDUCED). -/
def partChks (m : Image) : List Chk :=
  let pk (i : Nat) : Partition := m.parts.getD i {}
  let np := m.parts.length
  [(m.descPart < np && !(pk m.descPart).transient && 64 * m.nDesc + 64 ≤ (pk m.descPart).size, 34),
   (if m.ctSlots == 0 then m.tablePart == 0xFF
    else m.tablePart < np && !(pk m.tablePart).transient && (1024 < m.ctSlots || 8192 + 2048 * m.ctSlots ≤ (pk m.tablePart).size), 35)]

/-- The checks that rest on the regions and the data too (R332): the lookup directory, each data record on its region.
Log 44 (DEDUCED), 46 (DEDUCED). -/
def dataChks (scr : Nat → Nat → Bool) (m : Image) : List Chk :=
  (m.lutDirOk scr, 34) :: m.data.flatMap (fun r =>
    [(!m.transientRegion r.region, r.at'), (r.off + fld m.b (r.at' + 8) 8 ≤ m.regionSize r.region, r.at' + 2)])

/-- The offset of the first field at fault; a check that rests on other records is made where those are well formed
(R319, R332). Log 44 (DEDUCED). -/
def firstFault (scr : Nat → Nat → Bool) (m : Image) : Option Nat :=
  let sound (l : List Chk) : Bool := l.all (fun c => c.1)
  let base := m.frameChks
  let place := m.placeChks
  (firstOff (m.hdrChks ++ base ++ place ++ m.recordChks ++ (if sound base then m.partChks else [])
    ++ (if sound base && sound place then m.dataChks scr else []))).map (fun o => Nat.min o 0xFFFFFFFF)

/-- The program an image describes, nothing placed yet. -/
def program (m : Image) : Program :=
  let b := m.b
  { reqCap := BitVec.ofNat 64 (fld b 8 8), srSeed := BitVec.ofNat 64 (fld b 16 8),
    boundBlock := if fld b 24 8 == 2 ^ 64 - 1 then none else some (fld b 24 8), nDesc := m.nDesc, descPart := m.descPart,
    tablePart := m.tablePart, ctSlots := m.ctSlots, nProg := m.nProg, kqEntries := (List.range 8).map (fun s => fld b (40 + s) 1),
    cbLive := [fld b 48 4, fld b 52 4], regions := m.regions, parts := m.parts, certs := m.certs,
    streams := (m.recs 4).map (fun o => if fld b o 8 == 2 ^ 64 - 1 then none else some (fld b o 8)),
    coresets := (m.recs 5).zipIdx.flatMap (fun p => (m.words p.1 256).zipIdx.filterMap (fun (v : Nat × Nat) =>
      if v.1 == 0 then none else some (256 * p.2 + v.2, BitVec.ofNat 64 v.1))),
    objects := (m.recs 6).map (fun o => fld b o 2), rbase := List.replicate 64 0x400000000000, save := [], image := b }

end Image

/-- The use of stacked memory in local granules: the stacks, and [j0, j1) in each (R288, R289). -/
structure Spot where
  onStk : List Nat
  j0 : Nat
  j1 : Nat
  deriving DecidableEq, Repr

namespace Dev

/-- Base device address, bytes a local granule row takes there, first local granule, stacks and end of a space: 0 wide,
1 and 2 die-local, 0x10 + s a stack view (R288, R333). -/
def spaceInfo (d : Dev) (sp : Nat) : Nat × Nat × Nat × List Nat × Nat :=
  let n := d.nStacks
  let w := d.wideEnd
  if 0x10 ≤ sp then (svBase (sp - 0x10), 4096, 0, [sp - 0x10], d.perStack / 4096)
  else if sp == 0 then (0, 4096 * n, 0, List.range n, w / (4096 * n))
  else (w + (sp - 1) * d.localBytes, 16384, w / (4096 * n), (List.range 4).map (fun i => 4 * (sp - 1) + i),
        w / (4096 * n) + d.localBytes / 16384)

/-- The footprint of [base, base + size) of a space. -/
def foot (d : Dev) (sp base size : Nat) : Spot :=
  let (b0, row, j0, ss, _) := d.spaceInfo sp
  ⟨ss, j0 + (base - b0) / row, j0 + cdiv (base - b0 + size) row⟩

def clash (a b : Spot) : Bool := a.j0 < b.j1 && b.j0 < a.j1 && a.onStk.any (fun s => b.onStk.contains s)

/-- What the programs of every context hold of stacked memory. -/
def heldSpots (d : Dev) : List Spot :=
  d.progs.flatMap (fun p => p.regions.map (fun r => d.foot r.space r.base r.size) ++ p.save.map (fun s => d.foot s.1 s.2.1 s.2.2))

/-- First fit in a space, 64 KiB aligned (R332, R333). -/
def firstFit (d : Dev) (taken : List Spot) (sp size : Nat) : Option Nat :=
  let (b0, row, j0, ss, je) := d.spaceInfo sp
  let cands := (b0 :: ((taken.filter (fun f => j0 ≤ f.j1 && f.onStk.any (fun s => ss.contains s))).map
    (fun f => alignUp (b0 + (f.j1 - j0) * row) 65536))).mergeSort (fun a b => a ≤ b)
  cands.find? (fun c =>
    let f := d.foot sp c size
    f.j1 ≤ je && !taken.any (clash f))

/-- Granules of a stack that nothing holds. -/
def freeOn (d : Dev) (taken : List Spot) (s : Nat) : Nat :=
  d.perStack / 4096 - sumOf ((taken.filter (fun f => f.onStk.contains s)).map (fun f => f.j1 - f.j0))

/-- Where a region with a `PLACE` is tried: its span, or in `REDUCED` the stack in service, of the die for a die-local
region, with the most free space (R333, R411). -/
def spaceFor (d : Dev) (taken : List Spot) (place : Nat) : Nat :=
  if d.st == .full then place
  else
    let ss := (List.range d.nStacks).filter (fun s => (d.stack s).st == 0 && (place == 0 || s / 4 == place - 1))
    match ss with
    | [] => 0x10
    | a :: l => 0x10 + l.foldl (fun m s => if d.freeOn taken m < d.freeOn taken s then s else m) a

/-- Regions placed in manifest order, then the save area of each die (R121, R333): the program, or the `PLACE` that ran
short (R332). -/
def placeStacked (d : Dev) (p : Program) : Except Nat Program :=
  let r := p.regions.foldl (fun (st : Except Nat (List Region × List Spot)) x =>
    match st with
    | .error e => .error e
    | .ok (acc, taken) =>
      let sp := d.spaceFor taken x.place
      match d.firstFit taken sp x.size with
      | none => .error sp
      | some b => .ok (acc ++ [{ x with base := b, space := sp }], d.foot sp b x.size :: taken)) (.ok ([], d.heldSpots))
  match r with
  | .error e => .error e
  | .ok (regs, taken) =>
    let sv := (List.range d.nDies).foldl (fun (st : Except Nat (List (Nat × Nat × Nat) × List Spot)) i =>
      match st with
      | .error e => .error e
      | .ok (acc, taken) =>
        let size := alignUp (outIn (some p) i) 4096
        if size == 0 then .ok (acc, taken)
        else
          let sp := d.spaceFor taken (1 + i)
          match d.firstFit taken sp size with
          | none => .error sp
          | some b => .ok (acc ++ [(sp, b, size)], d.foot sp b size :: taken)) (.ok ([], taken))
    match sv with
    | .error e => .error e
    | .ok (save, _) => .ok { p with regions := regs, save := save }

/-- Granted pins of a die: offset and size. -/
def pinsOn (p : Program) (die : Nat) : List (Nat × Nat) :=
  (p.parts.filter (fun x => x.die == die && x.granted)).map (fun x => (x.off, x.size))

/-- The highest free stretch at or above lo that holds n bytes: the offset of a pin at its top (R119).
Log 45 (DEDUCED). -/
def topGap (pins : List (Nat × Nat)) (lo hi n : Nat) : Option Nat :=
  let tops := (hi :: pins.map (fun p => p.1)).mergeSort (fun a b => b ≤ a)
  (tops.find? (fun t => t ≤ hi && lo + n ≤ t
    && !pins.any (fun p => p.1 < t && t - n < p.1 + p.2))).map (fun t => t - n)

/-- R119 on one die: the partitions with their grants and places, or none when refused. Log 45 (DEDUCED). -/
def grantPins (d : Dev) (x die : Nat) (parts : List Partition) : Option (List Partition) :=
  let s := d.scratch die
  let others := (ctxIds.filter (fun i => i != x)).filterMap (fun i => (d.ctx i).prog)
  let held := (ctxIds.filter (fun i => i != x)).filterMap (fun i => d.loadedProg i)
  let pins0 := others.flatMap (fun p => pinsOn p die)
  let u := maxOf (held.map (fun p => unpinnedOn p die))
  let mine0 := sumOf ((parts.filter (fun p => p.die == die && !p.pin)).map (fun p => p.size))
  let minePin := sumOf ((parts.filter (fun p => p.die == die && p.pin)).map (fun p => p.size))
  let total (l : List (Nat × Nat)) : Nat := sumOf (l.map (fun p => p.2))
  if s < total pins0 + Nat.max u (mine0 + minePin) then none
  else
    let r := parts.foldl (fun (st : List Partition × List (Nat × Nat) × Nat) p =>
      let (acc, pins, mine) := st
      if p.die != die || !p.pin then (acc ++ [p], pins, mine)
      else
        let lo := Nat.max u mine
        match (if total pins + p.size + lo ≤ s then topGap pins lo s p.size else none) with
        | some o => (acc ++ [{ p with granted := true, off := o }], (o, p.size) :: pins, mine)
        | none => (acc ++ [p], pins, mine + p.size)) ([], pins0, mine0)
    let (ps, pins, mine) := r
    let low := minOf s (pins.map (fun p => p.1))
    if low < Nat.max u mine then none
    else some ((ps.foldl (fun (st : List Partition × Nat) p =>
      if p.die == die && !p.granted then (st.1 ++ [{ p with off := st.2 }], st.2 + p.size) else (st.1 ++ [p], st.2)) ([], 0)).1)

/-- Whether n bytes at an absolute address lie in the scratch of a Square, that of an absent die at its size after reset
(R104, R208). -/
def scratchAt (d : Dev) (a n : Nat) : Bool :=
  (List.range 2).any (fun i => sqBase i ≤ a && a + n ≤ sqBase i + d.scratch i)

/-- The absent die, cluster or stack that an absolute address names (R4): a Square or core buffer, a stack view. -/
def absentAt (d : Dev) (a : Nat) : Option Nat :=
  if sqBase 0 ≤ a && a < coreBase then
    (let die := (a - sqBase 0) / 2 ^ 30; if d.nDies ≤ die then some die else none)
  else if coreBase ≤ a && a < 0x400000000000 then
    (let k := (a - coreBase) / 2 ^ 20 / 12; if d.nClusters ≤ k then some k else none)
  else if isStk a then (if d.nStacks ≤ stkOf a then some (stkOf a) else none)
  else none

/-- The absolute addresses that a program names as it is loaded (R92, R70, R208): stream bases, the bound block, lookup banks. -/
def absAddrs (p : Program) (banks : List Nat) : List Nat :=
  (p.streams.filterMap id ++ p.boundBlock.toList).filterMap (fun b => if bit b 47 then some (b % 2 ^ 47) else none) ++ banks

/-- Resource code 2 (R4, R332, R139): the unit concerned. -/
def missingUnit (d : Dev) (p : Program) (banks : List Nat) : Option Nat :=
  let out (s : Nat) : Bool := d.nStacks ≤ s || (d.stack s).st != 0
  let capBit := (List.range 64).find? (fun i => p.reqCap.getLsbD i && !d.part.caps.getLsbD i)
  let unitOf (i : Nat) : Nat :=
    if 32 ≤ i then i - 32 else if 10 ≤ i && i < 18 then i - 10 else if 2 ≤ i && i < 10 then i - 2 else if i == 1 then 1 else 0
  match capBit with
  | some i => some (unitOf i)
  | none =>
    match (List.range 32).find? (fun k => (d.cluster k).svc != .inService
        && ((List.range p.nProg).any (fun e => (p.streams.getD (32 * e + k) none).isSome)
          || p.coresets.any (fun c => c.1 / 256 == k && bits c.2.toNat 11 0 != 0))) with
    | some k => some k
    | none =>
      match p.regions.findSome? (fun r =>
          if r.place == 2 && d.nDies < 2 then some 1
          else if d.st == .full then
            (List.range d.nStacks).find? (fun s => (r.place == 0 || s / 4 == r.place - 1) && out s)
          else if (List.range d.nStacks).any (fun s => (r.place == 0 || s / 4 == r.place - 1) && !out s) then none
          else some (if r.place == 2 then 4 else 0)) with
      | some u => some u
      | none =>
        match p.parts.find? (fun x => d.nDies ≤ x.die) with
        | some x => some x.die
        | none =>
          match (absAddrs p banks).findSome? d.absentAt with
          | some u => some u
          | none => (List.range 8).find? (fun s => nth p.kqEntries s != 0 && (d.nStacks ≤ s || (d.eng s).svc != .inService))

/-- Resource code 5: an engine whose claims pass 240 (R139). -/
def kqShort (d : Dev) (x : Nat) (p : Program) : Option Nat :=
  (List.range 8).find? (fun s =>
    240 < nth p.kqEntries s + sumOf ((ctxIds.filter (fun i => i != x)).map (fun i => ((d.loadedProg i).map (fun q => nth q.kqEntries s)).getD 0)))

/-- The resource stage (R332): the placed program, or code and detail. -/
def placeProgram (d : Dev) (x : Nat) (p : Program) (banks : List Nat) : Except Nat Program :=
  match d.missingUnit p banks with
  | some u => .error (2 + u % 2 ^ 8 * 2 ^ 8)
  | none =>
    let g := (List.range d.nDies).foldl (fun (st : Except Nat (List Partition)) die =>
      match st with
      | .error e => .error e
      | .ok ps => match d.grantPins x die ps with
        | some ps => .ok ps
        | none => .error (3 + die * 2 ^ 8)) (.ok p.parts)
    match g with
    | .error e => .error e
    | .ok ps =>
      match d.placeStacked { p with parts := ps } with
      | .error sp => .error (4 + sp * 2 ^ 8)
      | .ok p =>
        match d.kqShort x p with
        | some s => .error (5 + s * 2 ^ 8)
        | none =>
          let rb := p.regions.foldl (fun l r => l.set r.region r.base) p.rbase
          let p : Program := { p with rbase := p.parts.foldl (fun l (q : Partition) => l.set q.region (sqBase q.die + q.off)) rb }
          .ok { p with streams := p.streams.map (fun (b : Option Nat) => b.map p.addr), boundBlock := p.boundBlock.map p.addr }

/-- A failing slot of the active table, among those of the context and those that follow one of its own (R44, R121, R332).
Log 43 (DEDUCED). -/
def loadSlotFault (d : Dev) (x : Nat) (p : Program) : Option Nat :=
  let tab := d.slots.table
  (firstBadSlot (d.checkEnv x (some p)) tab (fun i => (tab.getD i {}).owner == x
    || ((tab.getD i {}).owner != 0 && ((prevOwned tab i).map (fun q => q.owner)) == some x))).map
    (fun i => i + (tab.getD i {}).entry * 2 ^ 8)

/-- Bytes that data put into a context's save area for a Square address (R333): the granules touched become valid, their other
bytes zero. Log 42 (DESIGN CHOICE). -/
def toSave (x : Nat) (p : Program) (key : Nat) (bs : List Byte) (d : Dev) : Dev :=
  let gs := (List.range ((key + bs.length + 4095) / 4096 - key / 4096)).map (fun i => key / 4096 + i)
  if bs.isEmpty then d
  else
    let fresh := gs.filter (fun g => !(d.ctx x).valid.contains g)
    let d := fresh.foldl (fun d g => d.ioStore (saveAt p (4096 * g)) (List.replicate 4096 0) (fun _ => false)) d
    (d.ioStore (saveAt p key) bs (fun _ => false)).setCtx x (fun c => { c with valid := gs.foldl (fun l g => l.insert g) c.valid })

/-- A region filled with zeros, clean and checked (R333). -/
def zeroKeys (k n : Nat) (d : Dev) : Dev :=
  let l0 := k / 64
  let l1 := (k + n) / 64
  { d with mem := { d.mem with
      cells := d.mem.cells.filter (fun p => p.1 < k || k + n ≤ p.1)
      undef := Mem.defined k n d.mem.undef
      poison := d.mem.poison.filter (fun l => l < l0 || l1 ≤ l)
      noCheck := d.mem.noCheck.filter (fun l => l < l0 || l1 ≤ l)
      noParity := d.mem.noParity.filter (fun g => g < k / 1024 || (k + n) / 1024 ≤ g)
      damage := d.mem.damage.filter (fun p => p.1 < k / 1024 || (k + n) / 1024 ≤ p.1) } }

/-- One 4 KiB granule of stacked memory written with zeros: its cached copy too. -/
def zeroGranule (a : Nat) (d : Dev) : Dev :=
  match d.canon a with
  | none => d
  | some k =>
    let d := (d.zeroKeys k 4096).countWr (stkOf k) 0 4096
    let d := if d.upsets.isEmpty then d else { d with upsets := d.upsets.filter (fun p => p.1 / 512 != a / 4096) }
    d.setSq (homeOf k) (fun q => { q with
      cdata := q.cdata.filter (fun p => p.1 / 4096 != a / 4096)
      cpoison := q.cpoison.filter (fun l => l / 64 != a / 4096)
      wcb := q.wcb.filter (fun e => e.line / 64 != a / 4096) })

def zeroRegion (r : Region) (d : Dev) : Dev :=
  if r.zero then (List.range (r.size / 4096)).foldl (fun d g => d.zeroGranule (r.base + 4096 * g)) d else d

/-- Bytes put into a Square partition at load (R208, R333): into a granted pin, else into the save area; a transient partition
has no place there, and the shared area is never written. Log 42 (DESIGN CHOICE). -/
def placePart (x : Nat) (p : Program) (q : Partition) (a : Nat) (bs : List Byte) (d : Dev) : Dev :=
  if q.granted then d.ioStore a bs (fun _ => false) else if q.transient then d else d.toSave x p a bs

/-- One data record put in its place (R333): stacked memory or a Square partition. -/
def placeData (x : Nat) (p : Program) (region off : Nat) (bs : List Byte) (d : Dev) : Dev :=
  let a := nth p.rbase region + off
  match p.parts.find? (fun q => q.region == region) with
  | some q => d.placePart x p q a bs
  | none => d.ioStore a bs (fun _ => false)

/-- A table put at an absolute scratch address (R208, R333): into the partition of the program that holds it. -/
def placeAbs (x : Nat) (p : Program) (a : Nat) (bs : List Byte) (d : Dev) : Dev :=
  match p.parts.find? (fun q => sqBase q.die + q.off ≤ a && a + bs.length ≤ sqBase q.die + q.off + q.size) with
  | some q => d.placePart x p q a bs
  | none => d

/-- The identity table of both banks of a compression slot, and the table with `PASS` set of a lookup bank (R208,
R271). -/
def identityBank (gen : Nat) : List Byte := leBytes 2 0 ++ leBytes 2 gen ++ leBytes 1020 0
def passTable : List Byte := leBytes 9 0 ++ leBytes 1 1 ++ leBytes 1078 0

/-- The pieces that the copy of a load places after the region fill: region, offset, bytes. -/
def loadPieces (m : Image) : List (Nat × Nat × List Byte) :=
  let tp := (m.parts.getD m.tablePart {}).region
  let dp := (m.parts.getD m.descPart {}).region
  let ct := if m.ctSlots == 0 then []
    else (tp, 0, List.replicate (8 * m.ctSlots) (0 : Byte)) :: (List.range m.ctSlots).flatMap (fun s =>
      [(tp, 8192 + 2048 * s, identityBank 0), (tp, 8192 + 2048 * s + 1024, identityBank 0xFFFF)])
  let lut := (List.range 8).flatMap (fun s =>
    let e := m.placed dp (64 * m.nDesc + 8 * s) 8
    if bit (fld e 0 2) 15 then []
    else
      let base (i : Nat) : Nat := fld (m.placed dp (64 * i) 64) 0 6
      [fld e 0 2, fld e 2 2].filterMap (fun i =>
        if bit (base i) 47 then none else some (bits (base i) 46 41, base i % 2 ^ 41, passTable))
        ++ [(dp, 64 * m.nDesc + 8 * s + 4, leBytes 3 0)])
  m.data.map (fun r => (r.region, r.off, r.bytes)) ++ ct ++ lut

/-- Lookup banks at absolute addresses. -/
def absTables (m : Image) : List Nat :=
  let dp := (m.parts.getD m.descPart {}).region
  (List.range 8).flatMap (fun s =>
    let e := m.placed dp (64 * m.nDesc + 8 * s) 8
    if bit (fld e 0 2) 15 then []
    else [fld e 0 2, fld e 2 2].filterMap (fun i =>
      let b := fld (m.placed dp (64 * i) 64) 0 6
      if bit b 47 then some (b % 2 ^ 47) else none))

/-- The bound registers that an image gives (R330, R333). -/
def boundsOf (m : Image) : List (BitVec 32) :=
  (List.range 64).map (fun i => if (m.sect 7).isSome then BitVec.ofNat 32 (fld m.b (m.offOf 7 + 4 * i) 4) else 0)

/-- The objects of an image with their first values (R330, R333). -/
def objsOf (m : Image) : AMap (BitVec 32) :=
  (m.recs 6).foldl (fun o k => aset o (fld m.b k 2) (BitVec.ofNat 32 (fld m.b (k + 4) 4))) []

/-- What the copy of a load has to place, each piece under region × 2^48 + offset, region 64 for an absolute address. -/
def placesOf (m : Image) : List (Nat × List Byte) :=
  (loadPieces m).map (fun (q : Nat × Nat × List Byte) => (q.1 * 2 ^ 48 + q.2.1, q.2.2))
    ++ (absTables m).map (fun t => (64 * 2 ^ 48 + t, passTable))

/-- MB_CTX_LOAD up to the copy (R331, R332): the image is read and checked, everything is allocated, and the command
waits for its bytes to be placed. Log 47 (DESIGN CHOICE). -/
def load (mb : Nat) (c : MbCmd) (d : Dev) : Dev :=
  let a := c.f 0 8
  let n := c.f 8 8
  if (d.ctx mb).st != .empty then d.reply mb c 7 (d.ctxDetail mb)
  else if !d.inStacked a n then d.reply mb c 5 0
  else
    let (r, d) := d.ioFetch a n
    match r.2.head? with
    | some l => d.reply mb c 5 (Nat.min (l - a) 0xFFFFFFFF)
    | none =>
      let m := Image.parse r.1
      match m.firstFault d.scratchAt with
      | some o => d.reply mb c 5 o
      | none =>
        match d.placeProgram mb m.program (absTables m) with
        | .error e => d.reply mb c 3 e
        | .ok p =>
          match d.loadSlotFault mb p with
          | some e => d.reply mb c 4 e
          | none =>
            let d := d.setCtx mb (fun x => { x with
              prog := some p, bounds := boundsOf m, objs := objsOf m, untimed := d.st != .full
              entry := 0, unfinished := false, yielded := false, valid := [], dirty := [], descs := [] })
            ({ d with placing := d.placing ++ [(mb, placesOf m)] }).hold mb c

/-- The response payload (R331). -/
def loadReply (p : Program) : List Byte :=
  leBytes 8 (sumOf (p.save.map (fun s => s.2.2)))
    ++ leBytes 8 (maskOf ((p.parts.zipIdx.filter (fun q => q.1.pin && !q.1.granted)).map (fun q => q.2)))
    ++ p.rbase.flatMap (fun b => leBytes 8 b)

/-- Conditions of R45 as they stand when a program is loaded, recorded without an event. -/
def recordBroken (i : Nat) (d : Dev) : Dev :=
  ((((d.setBroken 0 d.brokenPower true i).setBroken 2 d.brokenProf true i).setBroken 3 d.brokenUnits true i).setBroken 4
    d.brokenIo true i)

/-- The copy is done (R331): `LOADED`, and the response. -/
def finishLoad (mb : Nat) (d : Dev) : Dev :=
  match d.placing.find? (fun p => p.1 == mb), (d.ctx mb).prog with
  | some q, some p =>
    let d := { d with placing := d.placing.filter (fun x => x.1 != mb) }
    let d := p.regions.foldl (fun d r => d.zeroRegion r) d
    let d := q.2.foldl (fun d w =>
      let region := w.1 / 2 ^ 48
      let off := w.1 % 2 ^ 48
      if region == 64 then d.placeAbs mb p off w.2 else d.placeData mb p region off w.2) d
    let d := (d.setCtx mb (fun c => { c with st := .loaded })).recordBroken mb
    let warn := p.parts.any (fun x => x.pin && !x.granted)
    ((d.mbox mb).queue.filter (fun c => c.busy && c.msg == 0x11)).foldl
      (fun d c => d.complete mb c.order 0 0 warn (loadReply p)) d
  | _, _ => d

end Dev

/-- MB_CTX_LOAD (R331, R332). -/
def execMbCtxLoad (mb : Nat) (s : State) : Host.Outcome State Fault Refusal :=
  serveD mb 0x11 (fun _ => true) (fun _ c => [lenIs c 16]) (fun c => Dev.load mb c) s

/-- IMAGE_PLACEMENT_COMPLETE (R331, R333). Log 47 (DESIGN CHOICE). -/
def execImagePlacementComplete (mb : Nat) (s : State) : Host.Outcome State Fault Refusal :=
  onDev (fun d => (d.finishLoad mb).settle mb) s

end Sys2Proof.Machine
end

