-- ==== Sys2Proof/Machine/Roundabout.lean ====
section
/-! DEFINITION. The Roundabout (R293 to R303): requests as they reach a stack, the order in which those ready are served,
page locks and decoders, the I/O share. -/

namespace Sys2Proof.Machine

namespace Dev

/-- Bursts of the I/O die masters in a stack in 1 µs (R283, R302). Log 103 (DEDUCED). -/
def ioCap (d : Dev) : Nat := 400 * d.mcfg.ioPct

/-- Symbols damaged since the page was written (R292, R295). Log 101 (DESIGN CHOICE). -/
def hurt (pg : Nat) (l : List (Nat × Nat)) (d : Dev) : Dev :=
  if l.isEmpty then d else d.setDamage pg (l.foldl (fun m p => m ^^^ (p.2 % 1024 * 2 ^ (10 * p.1))) (d.damageOf pg))

/-- Lines of a request that stacked memory serves: a hit needs none (R109). -/
def missLines (rq : MemReq) (d : Dev) : List Nat :=
  (reqLines rq).filter (fun i => rq.kerb || !d.cachedLine rq.addr (rq.addr / 1024 * 1024 + 64 * i))

/-- Whether a request sends its page to the decoder (R293, R295). Log 100 (DEDUCED). -/
def needsDecode (rq : MemReq) (write : Bool) (d : Dev) : Bool :=
  let pg := rq.addr / 1024
  d.codeT != 0 && !(d.stack (stkOf rq.addr)).lost && !(write && rq.lines == 16)
    && (if write then reqLines rq else d.missLines rq).any (fun i => d.checkDiff pg (d.damageOf pg) i != some 0)

/-- Decoders: two on the memory-controller side of a stack, one in the engine's path (R294). -/
def decoderFree (s : Nat) (kerb : Bool) (d : Dev) : Bool :=
  ((d.stack s).locks.filter (fun l => l.phase == 1 && l.rq.kerb == kerb)).length < (if kerb then 1 else 2)

def takeLock (rq : MemReq) (data : List Byte) (write : Bool) (d : Dev) : Dev :=
  let s := stkOf rq.addr
  let l : PageLock := { page := rq.addr / 1024, rq := rq, data := data, write := write, phase := b2n (d.decoderFree s rq.kerb) }
  d.setStack s (fun k => { k with locks := k.locks ++ [l] })

/-- A request whose page is answered now: its page goes to the decoder first where a line fails its check (R293, R295). -/
def serveReq (x : Req) (d : Dev) : Dev :=
  let (rq, data, write) := x
  if d.needsDecode rq write then d.takeLock rq data write
  else if write then d.rawWrite rq data
  else
    let (vs, d) := d.rawRead rq
    d.handOver rq vs

/-- A request at its page: it waits on a lock (R294), else it is served. -/
def atPage (x : Req) (d : Dev) : Dev :=
  let s := stkOf x.1.addr
  if (d.stack s).locks.any (fun l => l.page == reqPage x) then
    d.setStack s (fun k => { k with
      locks := k.locks.map (fun l => if l.page == reqPage x then { l with waiting := l.waiting ++ [x] } else l) })
  else d.serveReq x

/-- Background requests are admitted in maintenance time only, and behind a calibration step of their stack (R34, R46, R300). -/
def admitted' (x : Req) (d : Dev) : Bool := x.1.cls != 2 || (d.maintTime && !d.calFirst (stkOf x.1.addr))

/-- Order of a request among those ready (R300, R301): background, `LAT` within its cap, the rest. -/
def classRank (x : Req) (d : Dev) : Nat :=
  if x.1.cls == 2 then 0
  else if x.1.cls == 1 && ((aget (d.stack (stkOf x.1.addr)).latUsed (d.rawOf x.1.addr).1).getD 0) + x.1.lines ≤ 125 then 1
  else 2

/-- Key of the last requester served in a pseudo-channel and class, and the requester (R157, R300). -/
def turnKey (x : Req) (d : Dev) : Nat := 4 * (d.rawOf x.1.addr).1 + x.1.cls
def requester (x : Req) : Nat := 1 + b2n x.1.kerb

/-- The request that the Roundabout serves next among those ready at a stack (R300, R303): none overtakes an earlier one for
its line; in one order the two requesters alternate. -/
def nextReady (s : Nat) (d : Dev) : Option (Nat × Req) :=
  let l := (d.stack s).ready
  let can := l.zipIdx.filter (fun p => d.admitted' p.1 && !(l.take p.2).any (fun y => sameLine p.1 y))
  let best := minOf 3 (can.map (fun p => d.classRank p.1))
  let top := can.filter (fun p => d.classRank p.1 == best)
  let other := top.find? (fun p => (aget (d.stack s).turn (d.turnKey p.1)) != some (requester p.1))
  (match other with | some p => some p | none => top.head?).map (fun (p : Req × Nat) => (p.2, p.1))

/-- Requests ready at a stack served, as long as nothing blocks it. -/
def serveReady (s : Nat) (d : Dev) : Dev :=
  (List.range (d.stack s).ready.length).foldl (fun d _ =>
    if (d.stack s).cal.isSome then d
    else match d.nextReady s with
      | none => d
      | some (i, x) => (d.setStack s (fun k => { k with ready := k.ready.eraseIdx i, turn := aset k.turn (d.turnKey x) (requester x) })).atPage x) d

/-- The same at every stack. -/
def serveAllReady (d : Dev) : Dev := (List.range d.nStacks).foldl (fun d s => d.serveReady s) d

/-- A request as it reaches its pseudo-channel (R48, R294, R300 to R303): held by the I/O share, held until it may be served,
or at its page. A burst takes no time of its own, so a request that nothing holds is served as it comes.
Log 103 (DEDUCED), 104 (DESIGN CHOICE). -/
def arrive (x : Req) (d : Dev) : Dev :=
  let rq := x.1
  let s := stkOf rq.addr
  let k := d.stack s
  if k.ioWait.any (sameLine x) || (rq.io && d.ioCap < k.ioUsed + rq.lines) then
    d.setStack s (fun k => { k with ioWait := k.ioWait ++ [x] })
  else
    let d := if rq.io then d.setStack s (fun k => { k with ioUsed := k.ioUsed + rq.lines }) else d
    (d.setStack s (fun k => { k with ready := k.ready ++ [x] })).serveReady s

/-- Runs of consecutive numbers: first and length. -/
def runsOf (l : List Nat) : List (Nat × Nat) :=
  l.foldr (fun i acc => match acc with
    | (j, n) :: r => if i + 1 == j then (i, n + 1) :: r else (i, 1) :: (j, n) :: r
    | [] => [(i, 1)]) []

/-- A request of the memory-controller side at its home Square first (R109, R110, R116): a hit is served there, a partial line
goes to the write-combining buffer, a write that allocates stays; the rest goes on to the stack. -/
def atSquare (x : Req) (d : Dev) : Dev :=
  let (rq, data, write) := x
  let acc : Access := { alloc := rq.core, chint := rq.chint, cls := rq.cls }
  let at' (i : Nat) : Nat := rq.addr / 1024 * 1024 + 64 * i
  if rq.kerb then d.arrive x
  else if !write then
    (if (d.missLines rq).isEmpty then
      let (vs, d) := d.rawRead rq
      d.give rq vs
    else d.arrive x)
  else if rq.lines == 1 && rq.mask != fullMask then d.writeMasked acc 0 rq.addr rq.mask data rq.poison
  else
    let ls := (reqLines rq).zipIdx
    let (down, here) := ls.partition (fun l => d.direct acc (at' l.1))
    let d := here.foldl (fun d l => d.writeMasked acc 0 (at' l.1) fullMask ((data.drop (64 * l.2)).take 64) rq.poison) d
    (runsOf (down.map Prod.fst)).foldl (fun d r =>
      d.arrive ({ rq with addr := at' r.1, lines := r.2 }, (data.drop (64 * (r.1 - rq.addr % 1024 / 64))).take (64 * r.2), true)) d

/-- A request that a mapped stack stores. Log 104 (DESIGN CHOICE). -/
def requested (x : Req) (d : Dev) : Dev :=
  let rq := x.1
  if !(isStk rq.addr && d.canon rq.addr == some rq.addr) then d
  else (d.hurt (rq.addr / 1024) rq.damage).atSquare ({ rq with damage := [] }, x.2)

/-- The microsecond ends (R301, R302): the `LAT` cap renews, the I/O share with what was taken beyond it still charged; what
waited on it comes again, then what is ready. A ring header that the share held back comes first (R442). -/
def newWindow (d : Dev) : Dev :=
  (List.range d.nStacks).foldl (fun d i =>
    let w := (d.stack i).ioWait
    let d := d.setStack i (fun k => { k with latUsed := [], ioUsed := k.ioUsed - d.ioCap, ioWait := [] })
    (w.foldl (fun d x => d.arrive x) d).serveReady i) (if d.trace.owed then d.traceHead else d)

/-- A decoder has finished with a page (R293, R295 to R299): the request that took the lock is answered, the lock is free to
release, and the decoder takes the next correction. While a calibration step blocks the stack, the answer waits for its end
(R48). -/
def decodeDone (page : Nat) (d : Dev) : Dev :=
  let st := stackOfPage page
  match (d.stack st).locks.find? (fun l => l.page == page && l.phase == 1) with
  | none => d
  | some l =>
    if (d.stack st).cal.isSome then
      (d.setStack st (fun k => { k with locks := k.locks.map (fun x => if x.page == page then { x with phase := 3 } else x) })).nextDecode st
        l.rq.kerb
    else
    let d := if l.write then d.rawWrite l.rq l.data
      else
        let (vs, d) := d.rawRead l.rq
        d.handOver l.rq vs
    let after (ls : List PageLock) : List PageLock :=
      if l.waiting.isEmpty then ls.filter (fun x => x.page != page)
      else ls.map (fun x => if x.page == page then { x with phase := 2 } else x)
    (d.setStack st (fun k => { k with locks := after k.locks })).nextDecode st l.rq.kerb

/-- The pages decoded while a calibration step blocked their stack are answered at its end (R48). -/
def endDecodes (s : Nat) (d : Dev) : Dev :=
  if (d.stack s).cal.isSome then d
  else ((d.stack s).locks.filter (fun l => l.phase == 3)).foldl (fun d l =>
    (d.setStack s (fun k => { k with locks := k.locks.map (fun x => if x.page == l.page then { x with phase := 1 } else x) })).decodeDone l.page) d

/-- A lock released (R294): the requests that wait on the page are served in arrival order, once no calibration step blocks the
stack (R48). -/
def lockFree (page : Nat) (d : Dev) : Dev :=
  let st := stackOfPage page
  match (d.stack st).locks.find? (fun l => l.page == page && l.phase == 2) with
  | none => d
  | some l =>
    let free (k : Stack) : Stack := { k with locks := k.locks.filter (fun x => x.page != page) }
    if (d.stack st).cal.isSome then d.setStack st (fun k => { free k with ready := l.waiting ++ k.ready })
    else l.waiting.foldl (fun d x => d.atPage x) (d.setStack st free)

end Dev

end Sys2Proof.Machine
end

