-- ==== Sys2Proof/Machine/Tick.lean ====
section
/-! DEFINITION. The Tick Unit (R22 to R33, R40, R352), calibration (R48, R49), the stall watchdog (R434). -/

namespace Sys2Proof.Machine

/-- Offset of a moment from the nearest grid point (R23, R24). -/
def TickUnit.gridOff (t : TickUnit) (c : TickCfg) (ns : Nat) : Int :=
  let x : Int := ((t.ptpAt ns : Int) - (c.phase : Int)) % (c.period : Int)
  if (c.period : Int) < 2 * x then x - (c.period : Int) else x

/-- Signed numbers in a 64-bit field. -/
def asWord (i : Int) : Nat := (i % ((2 ^ 64 : Nat) : Int)).toNat

namespace Dev

/-- `EV_TICK_SOURCE` (R26, R424). Log 51 (DEDUCED). -/
def tickSource (reason : Nat) (off : Int) (d : Dev) : Dev := d.raise [] { code := 0x8002, reason := reason, arg0 := asWord off }

/-- `TU_LOCKED` and `TU_HOLDOVER` as they become, with their events (R26). Log 52 (DEDUCED). -/
def tickStatus (locked holdover : Bool) (off : Int) (d : Dev) : Dev :=
  let t := d.tu
  let d := { d with tu := { t with locked := locked, holdover := holdover } }
  let d := if holdover && !t.holdover then d.tickSource 0 off else d
  if locked && !t.locked then d.tickSource 1 off else d

/-- The PTP source follows its port (R24, R26): locked within 1,000 ns, `OFFSET` once per excursion past 100 µs. An excursion
lasts until an offset of the PTP source within the bound, through a spell under another source. Log 159 (DESIGN CHOICE). -/
def ptpCheck (d : Dev) : Dev :=
  if d.tu.cfg.source != 1 then d
  else if d.tu.slave.isNone then d.tickStatus false true d.tu.offset
  else
    let o := d.tu.gridOff d.tu.cfg d.tu.startNs
    let far := 100000 < o.natAbs
    let was := d.tu.excursion
    let d := ({ d with tu := { d.tu with offset := o, excursion := far } }).tickStatus (o.natAbs ≤ 1000) false o
    if far && !was then d.tickSource 2 o else d

/-- Length of a tick that begins now (R24, R25). -/
def tickLength (d : Dev) : Nat :=
  let t := d.tu
  let p := t.cfg.period
  if t.cfg.source != 1 then p
  else if t.slave.isNone then t.holdLen t.cfg
  else
    let m : Int := ((p / 10000 : Nat) : Int)
    ((p : Int) - max (-m) (min m t.offset)).toNat

/-- Slots that have not begun, and a slot still in its swap, do not run in the tick that ends; an `RT` invocation that the
boundary cuts has not ended by its slot's end, and overruns; work still executing yields (R39, R40). The slots' records come
before the events of the same moment (R444). Log 57 (DEDUCED), 59 (DEDUCED). -/
def closeTick (d : Dev) : Dev :=
  let (miss, d) : List (Nat × Nat) × Dev := match d.slots.cur with
    | none => ([], d)
    | some r =>
      let e := d.entryAt r.i
      if r.idle || r.ended then ([], d.closeSlot (d.endReason r))
      else if r.swapping then (if e.rt then [(r.i, 1)] else [], d.closeSlot 2)
      else
        let d := d.closeSlot 3
        (if e.rt && !r.overrun then [(r.i, 0)] else [], ({ d with slots := { d.slots with late := e.owner } }).tryYield e.owner)
  let left := List.range' d.slots.nxt (d.slots.table.length - d.slots.nxt)
  let skipped := (left.filter (fun i => (d.entryAt i).rt && d.runnable (d.entryAt i))).map (fun i => (i, 1))
  let d := left.foldl (fun d i => d.slotRec 0x31 (d.entryAt i).owner i 2) d
  (miss ++ skipped).foldl (fun d x => d.missed x.1 x.2) d

/-- The watchdog's count at a boundary (R434). Log 56 (DESIGN CHOICE). -/
def countStalls (d : Dev) : Dev :=
  { d with ctxs := d.ctxs.zipIdx.map (fun (p : Ctx × Nat) =>
      let c := p.1
      if c.progress then { c with stallCount := 0, stallRaised := false, progress := false }
      else if (c.st == .ready || c.st == .running) && (c.unfinished || d.slots.table.any (fun e => e.owner == p.2 + 1)) then
        { c with stallCount := c.stallCount + 1 }
      else c) }

/-- Deferral counts and per-tick memory counts at a boundary (R48, R296, R297, R312); the microsecond of the shares begins
anew there (`newWindow`). -/
def tickStacks (d : Dev) : Dev :=
  { d with stk := d.stk.zipIdx.map (fun (p : Stack × Nat) =>
      let k := p.1
      { k with
        defer := if k.calDue.isEmpty then k.defer else Nat.min 16 (k.defer + 1)
        carry := !k.calDue.isEmpty && 16 ≤ k.defer
        calDue := (List.range 2).filter (fun x => d.calIsDue p.2 x)
        corrLast := k.corrTick, corrTick := 0, corrRaised := false, uncorrPages := [] }) }

/-- A pending profiling configuration takes effect (R441, R443, R446): a stop leaves the ring and its drain, which a `NAK` may
have ended; a set starts a new ring. The ring's header follows. Log 63 (DESIGN CHOICE). -/
def takeTrace (d : Dev) : Dev :=
  match d.trace.pend with
  | none => d
  | some c =>
    let t := d.trace
    let drains := c.ring.isSome && c.peer != 0xFFFF
    if c.stop then
      let d := { d with trace := { t with cfg := { c with stop := false }, pend := none, dstate := if drains then 0 else 1, dreason := 0 } }
      if c.ring.isSome then d.traceHead else d
    else
      let d := { d with
        trace := { cfg := c, dstate := if drains then 0 else 1, core := if c.clear then [] else t.core }
        net := { d.net with spaces := d.net.spaces.map (fun (s : Space) =>
          let own (x : TxPkt) : TxPkt := if x.owner == 0x1000 then { x with owner := 0 } else x
          { s with unacked := s.unacked.map own, waiting := s.waiting.map own }) } }
      if c.tclass != 0 then d.traceHead else d

/-- Everything pending takes effect (R30, R36, R286, R441), and the conditions of R45 that it breaks are reported. -/
def takePending (d : Dev) : Dev :=
  let cfg := d.tu.pend.getD d.tu.cfg
  let d := { d with
    tu := { d.tu with cfg := cfg, pend := none, reacq := false, rate := if cfg.period == d.tu.cfg.period then d.tu.rate else cfg.period }
    slots := { d.slots with table := d.slots.pend.getD d.slots.table, pend := none }
    mcfg := { d.mcfg with ioPct := d.mcfg.ioPend.getD d.mcfg.ioPct, ioPend := none } }
  let d := d.takeTrace
  ((d.setBrokenAll 1 d.brokenFit).setBrokenAll 2 d.brokenProf).setBrokenAll 4 d.brokenIo

/-- How a boundary came about: at its time, by a qualifying edge `off` ns from nominal, or by the end of a window with no
edge. -/
inductive Boundary where
  | due
  | edge (off : Int)
  | expired
  deriving DecidableEq, Repr

/-- A new tick starts (R22, R28, R30, R33, R40): the old tick is closed, what is pending takes effect, the window opens. The
last disciplined rate is the length of the last tick that ended under a slave and was not re-acquired, slew included.
Log 52 (DEDUCED). -/
def newTick (b : Boundary) (d : Dev) : Dev :=
  let d := (d.closeTick).countStalls
  let was := d.tu.cfg.source
  let disciplined := was == 1 && d.tu.slave.isSome && !d.tu.reacq
  let d := { d with tu := { d.tu with rate := if disciplined then d.now - d.tu.startNs else d.tu.rate } }
  let d := d.takePending
  let d := { d with
    tu := { d.tu with tick := d.tu.tick + 1, startNs := d.now }
    slots := { d.slots with window := true, nxt := 0 }
    kerb := d.kerb.map (fun (e : KEngine) => { e with patrolDone := 0 })
    net := { d.net with mismatched := [] } }
  let d := d.tickStacks.newWindow
  let d := match d.tu.cfg.source, b with
    | 0, _ => d.tickStatus true false 0
    | 1, _ => d.ptpCheck
    | _, .edge off => d.tickStatus true false off
    | _, .expired => d.tickStatus false true 0
    | _, .due => if was == 2 then d else d.tickStatus false false 0
  let d := { d with tu := { d.tu with endNs := d.tu.startNs + d.tickLength } }
  if d.tu.cfg.tickOut then { d with tu := { d.tu with tickOutNs := some d.tu.startNs } } else d

/-- `TICK_OUT` and `PPS_OUT` high (R28, R352, R456). Log 64 (DESIGN CHOICE). -/
def tickOutHigh (d : Dev) : Bool := d.tu.tickOutNs.any (fun t => t ≤ d.now && d.now < t + 100)
def ppsOutHigh (d : Dev) : Bool := d.tu.cfg.source == 1 && d.tu.locked && d.tu.ppsNs.any (fun t => t ≤ d.now && d.now < t + 100000)

/-- The Tick Unit runs from reset on (R31). Log 55 (DEDUCED). -/
def ticking (d : Dev) : Bool := d.st != .cold

end Dev

/-- TICK_BOUNDARY (R22, R23). Log 3 (DESIGN CHOICE). -/
def execTickBoundary (s : State) : Host.Outcome State Fault Refusal :=
  onDev (fun d =>
    match d.boundaryDue with
    | some t => if d.ticking then (d.upTo t).newTick .due else d
    | none => d) s

/-- TICK_IN_EDGE (R25, R27): it starts a tick, moves the end of a holdover tick, or is counted as rejected; none is seen
while the boundary register owns the lands (R470). Log 50 (DEDUCED), 51 (DEDUCED), 54 (DEDUCED). -/
def execTickInEdge (widthNs : Nat) (s : State) : Host.Outcome State Fault Refusal :=
  if s.tap.owns then .next s
  else onDev (fun d =>
    let t := d.tu
    let g := t.gov
    let reject := d.cnt 0x40 7 1
    let nominal := t.startNs + g.period
    if !d.ticking || (t.cfg.source != 2 && !(t.reacq && g.source == 2)) then d
    else if widthNs < 20 then reject
    else if t.reacq then
      (if g.source == 2 && t.startNs + g.tMin ≤ d.now then d.newTick (.edge ((nominal : Int) - d.now)) else reject)
    else if t.endNs ≤ d.now + g.inWindow && d.now ≤ t.endNs + g.inWindow then d.newTick (.edge ((t.endNs : Int) - d.now))
    else if t.holdover && d.now ≤ t.startNs + g.inWindow then
      ({ d with tu := { t with endNs := d.now + g.period } }).tickStatus true false ((t.startNs : Int) - d.now)
    else reject) s

/-- TICK_IN_WINDOW_EXPIRY (R25). -/
def execTickInWindowExpiry (s : State) : Host.Outcome State Fault Refusal :=
  onDev (fun d =>
    if d.ticking && d.tu.cfg.source == 2 && !d.tu.holdover && !d.tu.reacq then
      (d.upTo (d.tu.endNs + d.tu.cfg.inWindow)).newTick .expired
    else d) s

/-- REACQUIRE_TIMEOUT (R27). -/
def execReacquireTimeout (s : State) : Host.Outcome State Fault Refusal :=
  onDev (fun d =>
    if d.ticking && d.tu.reacq && d.tu.gov.source == 2 then (d.upTo (d.tu.startNs + 2 * d.tu.gov.period)).newTick .expired
    else d) s

/-- PTP_SLAVE_ACQUIRED (R24, R352). Log 53 (DESIGN CHOICE). -/
def execPtpSlaveAcquired (port : Nat) (s : State) : Host.Outcome State Fault Refusal :=
  onDev (fun d =>
    if 2 ≤ port || !(d.portLinks port).any (fun l => (d.net.links.getD l {}).up) then d
    else
      let d := (d.setPort (1 - port) (fun q => { q with ptp := if q.ptp == 3 then 4 else q.ptp })).setPort port
        (fun q => { q with ptp := 3 })
      let d := { d with tu := { d.tu with slave := some port, everSlave := true } }
      if d.tu.cfg.source == 1 then { d with tu := { d.tu with holdover := false } } else d) s

/-- PTP_SLAVE_LOST (R24, R26). Log 53 (DESIGN CHOICE). -/
def execPtpSlaveLost (port : Nat) (s : State) : Host.Outcome State Fault Refusal :=
  onDev (fun d =>
    if d.tu.slave != some port then d
    else
      let d := d.setPort port (fun q => { q with ptp := 1 })
      let d := { d with tu := { d.tu with slave := none } }
      if d.tu.cfg.source == 1 then d.tickStatus false true d.tu.offset else d) s

/-- PTP_MESSAGE (R24, R351, R352): time taken from the slave port; an unsecured frame is dropped where MACsec is
required. Log 148 (PRESUMED). -/
def execPtpMessage (port ptpNs : Nat) (secured : Bool) (s : State) : Host.Outcome State Fault Refusal :=
  onDev (fun d =>
    if 2 ≤ port || !(d.portLinks port).any (fun l => (d.net.links.getD l {}).up) then d
    else
      let d := d.cnt 0x31 port 1
      if d.net.fab.macsecReq && !secured then d.cnt 0x35 port 1
      else if d.tu.slave != some port then d
      else ({ d with tu := { d.tu with ptpNs := ptpNs, ptpAtNs := d.now } }).ptpCheck) s

/-- PPS_OUT_PULSE (R352, R456): at the next whole second of the PTP timescale, while the source is PTP and locked.
Log 64 (DESIGN CHOICE). -/
def execPpsOutPulse (s : State) : Host.Outcome State Fault Refusal :=
  onDev (fun d =>
    if !(d.ticking && d.tu.cfg.source == 1 && d.tu.locked && d.tu.slave.isSome) then d
    else
      let d := d.upTo (d.now + (1000000000 - d.tu.ptpAt d.now % 1000000000) % 1000000000)
      { d with tu := { d.tu with ppsNs := some d.now } }) s

/-- MAINT_WINDOW_END (R33, R38, R446): the trace drain has sent what waited; the window closes; the first slot begins.
Log 62 (DESIGN CHOICE). -/
def execMaintWindowEnd (s : State) : Host.Outcome State Fault Refusal :=
  onDev (fun d =>
    if !(d.ticking && d.slots.window) then d
    else
      let d := (d.drainAll).upTo (d.tu.startNs + d.tu.cfg.maint)
      ({ d with slots := { d.slots with window := false } }).beginSlot) s

/-- CALIBRATION_STEP_START (R48): a due step that fits the maintenance time that remains. -/
def execCalibrationStepStart (stack kind : Nat) (s : State) : Host.Outcome State Fault Refusal :=
  onDev (fun d =>
    if d.calIsDue stack kind && (d.stack stack).cal.isNone && d.calFits kind then
      d.setStack stack (fun k => { k with cal := some (kind, d.now) })
    else d) s

/-- CALIBRATION_STEP_DONE (R48): one completed step serves every due point before its start, and clears the count; the
decodes and requests that its stack held back are served. -/
def execCalibrationStepDone (stack : Nat) (s : State) : Host.Outcome State Fault Refusal :=
  onDev (fun d => ((d.calDone stack).endDecodes stack).serveReady stack) s

/-- The entry at whose start a deferred step of a stack runs, among those from `i` on (R49): none where no point is left in the
tick, and the first slot of the tick that follows such a one. -/
def Dev.intrusionAt (d : Dev) (stack i kind : Nat) : Option Nat :=
  let rem := List.range' i (d.slots.table.length - i)
  let run (k : Nat) : Bool := d.runnable (d.entryAt k)
  let len (k : Nat) : Nat := if (d.entryAt k).length == 0 then d.tickEnd - d.nominalOf k else (d.entryAt k).length
  if (d.stack stack).carry then some 0
  else match rem.find? (fun k => !run k && Dev.calLength kind ≤ len k) with
    | some k => some k
    | none =>
      match rem.find? (fun k => run k && !(d.entryAt k).rt) with
      | some k => some k
      | none => rem.find? run

/-- CALIBRATION_FORCED (R49): at the start of the slot in progress, when it is the first point where the step can run;
`EV_MAINT_INTRUSION` when the slot is owned. -/
def execCalibrationForced (stack kind : Nat) (s : State) : Host.Outcome State Fault Refusal :=
  onDev (fun d =>
    match d.slots.cur with
    | none => d
    | some r =>
      let owned := !r.idle
      if !(d.calIsDue stack kind) || (d.stack stack).cal.isSome || (d.stack stack).defer < 16 || r.startNs != d.now
          || d.intrusionAt stack r.i kind != some r.i then d
      else
        let d := d.setStack stack (fun k => { k with cal := some (kind, d.now) })
        if !owned then d
        else
          let o := (d.entryAt r.i).owner
          (d.cnt 0x18 stack 1).raise [o] { code := 0x8005, ctx := o, kind := 5, unit := stack, aux := kind }) s

/-- CTX_STALLED (R434): once the count has reached `STALL_TICKS`. Log 56 (DESIGN CHOICE). -/
def execCtxStalled (ctx : Nat) (s : State) : Host.Outcome State Fault Refusal :=
  onDev (fun d =>
    let c := d.ctx ctx
    if !(c.st == .ready || c.st == .running) || c.stallTicks == 0 || c.stallCount < c.stallTicks || c.stallRaised then d
    else
      let unit := if c.unfinished then ((List.range 32).find? (fun k => !(c.streams.getD k { halted := true }).halted)).getD 0xFFFF
        else 0xFFFF
      (d.setCtx ctx (fun c => { c with stallRaised := true })).raise [ctx]
        { code := 0x8008, ctx := ctx, unit := unit, arg0 := c.stallCount }) s

end Sys2Proof.Machine
end

