-- ==== Sys2Proof/Machine/Setup.lean ====
section
/-! DEFINITION. Mailbox commands that set up memory, windows, the fabric, peers, groups and profiling, and that read
counters (11, 13, 17). -/

namespace Sys2Proof.Machine

/-- Contexts that are neither unclaimed nor `EMPTY`: the first one. -/
def Dev.busyCtx (d : Dev) : Option Nat := Dev.ctxIds.find? (fun i => (d.ctx i).st != .unclaimed && (d.ctx i).st != .empty)

/-- Largest `LOCAL_GIB` (R286). -/
def Dev.maxLocal (d : Dev) : Nat := if d.nDies == 2 then d.usable / 2 ^ 31 else d.usable / 2 ^ 30

/-- Field checks of MB_MEM_CONFIG (R13, R285, R286). Log 37 (DEDUCED). -/
def memChks (d : Dev) (c : MbCmd) : List Chk :=
  let fl := c.f 0 1
  [lenIs c 16, (fl < 16, 64), (!bit fl 0 || c.f 1 1 ≤ 4, 65), (!bit fl 2 || (1 ≤ c.f 2 1 && c.f 2 1 ≤ 50), 66), (c.z 3 1, 67),
   (!bit fl 1 || c.f 4 2 ≤ d.maxLocal, 68), (c.z 8 8, 72)]

/-- What the Squares hold of the spans dropped without a write-back (R115, R286). Log 49 (DESIGN CHOICE). -/
def Dev.dropSpans (d : Dev) : Dev :=
  (List.range 2).foldl (fun d i =>
    let d := d.setSq i (fun q => { q with wcb := q.wcb.filter (fun e => isStk (64 * e.line)) })
    ((d.square i).blocks.filter (fun b => !isStk (4096 * b.blk))).foldl (fun d b => d.dropBlock i b.blk) d) d

/-- A new size of the die-local spans (R286): addresses in the spans name different storage, their contents are undefined, and
nothing is written back (R115). Log 49 (DESIGN CHOICE). -/
def Dev.setLocal (gib : Nat) (d : Dev) : Dev :=
  if d.mcfg.localGib == gib then d
  else
    let d := d.dropSpans
    { d with mcfg := { d.mcfg with localGib := gib } }

/-- MB_MEM_CONFIG as a whole (R285, R286, R411): the fields its flags name. Log 24 (DEDUCED), 31 (DESIGN CHOICE). -/
def setMem (mb : Nat) (c : MbCmd) (s : State) : State :=
  let fl := c.f 0 1
  let d := s.dev
  if bit fl 1 && (d.busyCtx.isSome || !d.net.windows.isEmpty) then
    { s with dev := d.reply mb c 7 (match d.busyCtx with | some i => d.ctxDetail i | none => d.devDetail) }
  else
    let s := if bit fl 0 then { s with flash := s.flash.record (fun p => { p with strength := some (c.f 1 1) }) } else s
    let d := if bit fl 0 then { d with mcfg := { d.mcfg with strengthNext := c.f 1 1 } } else d
    let d := if bit fl 1 then
        (if d.mcfg.spans then d.setLocal (c.f 4 2) else { d with mcfg := { d.mcfg with localPend := some (c.f 4 2) } })
      else d
    let d := if bit fl 2 then { d with mcfg := { d.mcfg with ioPend := some (c.f 2 1) } } else d
    let d := if bit fl 3 then { d with mcfg := { d.mcfg with corrWarn := c.f 6 2 } } else d
    { s with dev := d.okWith mb c [] }

/-- SET_STRENGTH (R286): flag 0 of MB_MEM_CONFIG, or no flag at all. -/
def execSetStrength (mb : Nat) (s : State) : Host.Outcome State Fault Refusal :=
  serve mb 0x50 (fun c => bit (c.f 0 1) 0 || c.f 0 1 % 16 == 0) (fun s c => memChks s.dev c) (fun c => setMem mb c) s

/-- SET_LOCAL_GIB (R286): flag 1. -/
def execSetLocalGib (mb : Nat) (s : State) : Host.Outcome State Fault Refusal :=
  serve mb 0x50 (fun c => bit (c.f 0 1) 1) (fun s c => memChks s.dev c) (fun c => setMem mb c) s

/-- SET_IO_PCT (R286): flag 2. -/
def execSetIoPct (mb : Nat) (s : State) : Host.Outcome State Fault Refusal :=
  serve mb 0x50 (fun c => bit (c.f 0 1) 2) (fun s c => memChks s.dev c) (fun c => setMem mb c) s

/-- SET_CORR_WARN (R286): flag 3. -/
def execSetCorrWarn (mb : Nat) (s : State) : Host.Outcome State Fault Refusal :=
  serve mb 0x50 (fun c => bit (c.f 0 1) 3) (fun s c => memChks s.dev c) (fun c => setMem mb c) s

/-- Whether an object is in the manifest of a context. -/
def Dev.listed (d : Dev) (ctx o : Nat) : Bool := ((d.ctx ctx).prog.map (fun p => p.objects.contains o)).getD false

/-- Length and fields of a map (R362). -/
def mapChks (d : Dev) (c : MbCmd) : List Chk :=
  let so := c.f 6 2
  [lenIs c 32, (c.f 0 2 < 256 && !(aget d.net.windows (c.f 0 2)).isSome, 64), (c.f 2 1 ≤ 1, 66), (c.f 3 1 / 4 == 0, 67),
   (!bit so 14 && (bit so 15 || c.f 24 1 == 0 || 64 < c.f 24 1 || d.listed (c.f 24 1) (so % 2 ^ 14)), 70),
   (c.f 8 8 % 4096 == 0 && d.inStacked (c.f 8 8) (c.f 16 8), 72), (c.f 16 8 != 0 && c.f 16 8 % 4096 == 0, 80),
   (if bit so 15 then c.f 24 1 == 0 else 1 ≤ c.f 24 1 && c.f 24 1 ≤ 64, 88), (c.z 25 7, 89)]

/-- Length and fields of an unmap (R362). -/
def unmapChks (c : MbCmd) : List Chk :=
  [lenIs c 32, (c.f 0 2 < 256, 64), (c.f 3 1 / 4 == 0, 67), (!bit (c.f 6 2) 14, 70), (c.z 25 7, 89)]

/-- The window a map describes (R362). -/
def MbCmd.window (c : MbCmd) : Window :=
  let so := c.f 6 2
  { write := bit (c.f 3 1) 0, read := bit (c.f 3 1) 1, peer := c.f 4 2, so := if bit so 15 then none else some (so % 2 ^ 14),
    base := c.f 8 8, size := c.f 16 8, ctx := c.f 24 1 }

/-- MEM_MAP_WINDOW (R362). -/
def execMemMapWindow (mb : Nat) (s : State) : Host.Outcome State Fault Refusal :=
  serveD mb 0x51 (fun c => c.f 2 1 != 1) (fun s c => mapChks s.dev c)
    (fun c d => ({ d with net := { d.net with windows := aset d.net.windows (c.f 0 2) c.window } }).okWith mb c []) s

/-- An unmap whose packets are all visible ends (R362). Log 38 (DEDUCED). -/
def Dev.endUnmap (w : Nat) (d : Dev) : Dev :=
  match aget d.net.windows w with
  | some x =>
    if x.unmapping && !d.windowBusy w then
      let d := { d with net := { d.net with windows := adel d.net.windows w } }
      ((d.mbox 0).queue.filter (fun c => c.busy && c.msg == 0x51 && c.f 0 2 == w)).foldl
        (fun d c => d.complete 0 c.order 0 0 false []) d
    else d
  | none => d

/-- MEM_UNMAP_WINDOW (R362). Log 38 (DEDUCED). -/
def execMemUnmapWindow (mb : Nat) (s : State) : Host.Outcome State Fault Refusal :=
  serveD mb 0x51 (fun c => c.f 2 1 == 1) (fun _ c => unmapChks c)
    (fun c d =>
      match aget d.net.windows (c.f 0 2) with
      | none => d.okWith mb c []
      | some w => (({ d with net := { d.net with windows := aset d.net.windows (c.f 0 2) { w with unmapping := true } } }).hold mb
          c).endUnmap (c.f 0 2)) s

def popcount (n : Nat) : Nat := ((List.range 8).filter (fun i => bit n i)).length

/-- Field checks of MB_FABRIC_ID (R13, R345). Log 37 (DEDUCED). -/
def fabricChks (c : MbCmd) : List Chk :=
  let x := c.f 4 1
  [lenIs c 112, (c.f 0 2 != 0xFFFF, 64), (c.f 2 2 == 0 || 1024 ≤ c.f 2 2, 66), (x < 128, 68), (c.f 5 1 < 64, 69), (c.f 6 1 < 64, 70),
   (c.f 7 1 < 64, 71), (popcount (c.f 8 1) ≤ 4, 72), (c.f 9 1 < 128, 73), (c.f 10 1 ≤ 2, 74), (c.f 11 1 < 4, 75),
   (c.f 12 2 < 4096, 76), (!bit x 3 || (4352 ≤ c.f 14 2 && c.f 14 2 ≤ 9216), 78),
   (!bit x 2 || c.f 24 1 ≤ 32, 88), (!bit x 2 || c.f 25 1 ≤ 32, 89), (!bit x 2 || c.f 26 1 ≤ 128, 90),
   (!bit x 2 || c.f 27 1 ≤ 128, 91), (c.f 28 1 < 16, 92), (c.z 29 3, 93),
   (bit x 4 || c.z 64 32, 128), (c.z 108 4, 172)]

/-- Settings that a MB_FABRIC_ID message asks for, by its flags (R345). Log 36 (DEDUCED). -/
def MbCmd.fabric (c : MbCmd) (f : Fabric) : Fabric :=
  let x := c.f 4 1
  let f := { f with id := BitVec.ofNat 16 (c.f 0 2), port := if c.f 2 2 == 0 then f.port else c.f 2 2, v6 := bit x 0,
                    slaac := bit x 1, macsecReq := bit x 5 }
  let f := if bit x 2 then
      { f with ipv4 := [BitVec.ofNat 32 (c.f 16 4), BitVec.ofNat 32 (c.f 20 4)],
               ipv6 := [BitVec.ofNat 128 (c.f 32 16), BitVec.ofNat 128 (c.f 48 16)],
               plen := (List.range 4).map (fun i => c.f (24 + i) 1) }
    else f
  let f := if bit x 3 then
      { f with dscpData := c.f 5 1, dscpCtrl := c.f 6 1, pcpData := c.f 7 1 % 8, pcpCtrl := c.f 7 1 / 8, pfcMask := BitVec.ofNat 8 (c.f 8 1),
               ptpDomain := c.f 9 1, ptpXport := c.f 10 1, vlan := c.f 12 2, mtu := c.f 14 2, linkMode := BitVec.ofNat 4 (c.f 28 1) }
    else f
  if bit x 4 then { f with keys := ((c.f 11 1, BitVec.ofNat 256 (c.f 64 32), BitVec.ofNat 96 (c.f 96 12)) :: f.keys).take 2 } else f

/-- MB_FABRIC_ID as a whole (R345 to R347): an identity change is refused while a group is set or a window mapped; it
takes effect after the response, which it waits to be able to send, and restarts every sequence space; a changed link mode
retrains its port. Log 31 (DESIGN CHOICE), 126 (DEDUCED). -/
def setFabric (mb : Nat) (c : MbCmd) (s : State) : State :=
  let d := s.dev
  let old := d.net.fab
  let new := c.fabric old
  let ident := new.id != old.id || new.port != old.port || new.v6 != old.v6 || new.ipv4 != old.ipv4 || new.ipv6 != old.ipv6
    || new.plen != old.plen
  if ident && (!d.net.groups.isEmpty || !d.net.windows.isEmpty) then { s with dev := d.reply mb c 7 d.devDetail }
  else if ident && !d.canAnswer mb c then s
  else
    let now : Fabric := { new with id := old.id, port := old.port, v6 := old.v6, ipv4 := old.ipv4, ipv6 := old.ipv6, plen := old.plen }
    let d := ({ d with net := { d.net with fab := now } }).okWith mb c []
    let d := (List.range 2).foldl (fun d p =>
      if new.linkMode.getLsbD p != old.linkMode.getLsbD p || new.linkMode.getLsbD (2 + p) != old.linkMode.getLsbD (2 + p) then
        d.trainPort p
      else d) d
    let d := if ident then (let d := d.dropSpaces; { d with net := { d.net with fab := new } }) else d
    { s with
      dev := d
      flash := if bit (c.f 4 1) 6 then s.flash.record (fun p => { p with fabric := some new }) else s.flash }

/-- MB_FABRIC_ID (R346). -/
def execMbFabricId (mb : Nat) (s : State) : Host.Outcome State Fault Refusal :=
  serve mb 0x60 (fun _ => true) (fun _ c => fabricChks c) (fun c => setFabric mb c) s

/-- FABRIC_LINK_SETTINGS (R344, R345): `XFLAGS`[3]. -/
def execFabricLinkSettings (mb : Nat) (s : State) : Host.Outcome State Fault Refusal :=
  serve mb 0x60 (fun c => bit (c.f 4 1) 3) (fun _ c => fabricChks c) (fun c => setFabric mb c) s

/-- MACSEC_INSTALL_KEY (R351): `XFLAGS`[4]. -/
def execMacsecInstallKey (mb : Nat) (s : State) : Host.Outcome State Fault Refusal :=
  serve mb 0x60 (fun c => bit (c.f 4 1) 4) (fun _ c => fabricChks c) (fun c => setFabric mb c) s

/-- FABRIC_RECORD_FLASH (R347): `XFLAGS`[6]. -/
def execFabricRecordFlash (mb : Nat) (s : State) : Host.Outcome State Fault Refusal :=
  serve mb 0x60 (fun c => bit (c.f 4 1) 6) (fun _ c => fabricChks c) (fun c => setFabric mb c) s

def peerChks (c : MbCmd) : List Chk :=
  let n := c.f 1 1
  ([(c.f 0 1 ≤ 2, 64), (n ≤ 85, 65), (c.payload.length == 8 + 48 * n, 65), (c.z 2 6, 66)] : List Chk)
    ++ (List.range n).flatMap (fun i => ([(c.f (10 + 48 * i) 1 < 4, 74 + 48 * i), (c.z (11 + 48 * i) 1, 75 + 48 * i)] : List Chk))

/-- Entries of a MB_PEER_ADMIT payload (R350). Log 36 (DEDUCED). -/
def MbCmd.peers (c : MbCmd) : List Peer :=
  (List.range (c.f 1 1)).map (fun i =>
    let o := 8 + 48 * i
    { id := c.f o 2, v6 := bit (c.f (o + 2) 1) 0, bValid := bit (c.f (o + 2) 1) 1, addrA := BitVec.ofNat 128 (c.f (o + 4) 16),
      addrB := BitVec.ofNat 128 (c.f (o + 20) 16), mac0 := BitVec.ofNat 48 (c.f (o + 36) 6), mac1 := BitVec.ofNat 48 (c.f (o + 42) 6) })

def Dev.setPeers (l : List Peer) (d : Dev) : Dev := { d with net := { d.net with peers := l, closed := true } }

/-- PEER_ADD (R349, R350). -/
def execPeerAdd (mb : Nat) (s : State) : Host.Outcome State Fault Refusal :=
  serveD mb 0x61 (fun c => c.f 0 1 != 1 && c.f 0 1 != 2) (fun _ c => peerChks c) (fun c d =>
    let l := c.peers.foldl (fun l p => l.filter (fun x => x.id != p.id) ++ [p]) d.net.peers
    if 4096 < l.length then d.reply mb c 3 6 else (d.setPeers l).okWith mb c []) s

/-- PEER_REMOVE (R350). -/
def execPeerRemove (mb : Nat) (s : State) : Host.Outcome State Fault Refusal :=
  serveD mb 0x61 (fun c => c.f 0 1 == 1) (fun _ c => peerChks c) (fun c d =>
    let ids := c.peers.map (fun p => p.id)
    if ids.any d.inGroup then d.reply mb c 7 d.devDetail
    else
      let d := ids.foldl (fun d i => d.dropPeerState i) d
      (d.setPeers (d.net.peers.filter (fun p => !ids.contains p.id))).okWith mb c []) s

/-- PEER_REMOVE_ALL (R349, R350). -/
def execPeerRemoveAll (mb : Nat) (s : State) : Host.Outcome State Fault Refusal :=
  serveD mb 0x61 (fun c => c.f 0 1 == 2) (fun _ c => peerChks c) (fun c d =>
    if d.net.peers.any (fun p => d.inGroup p.id) then d.reply mb c 7 d.devDetail
    else
      let d := d.net.peers.foldl (fun d p => d.dropPeerState p.id) d
      (d.setPeers []).okWith mb c []) s

def MbCmd.members (c : MbCmd) : List Nat := (List.range (c.f 4 2)).map (fun i => c.f (32 + 2 * i) 2)

/-- Field checks of MB_GROUP_SET (R365). Log 39 (DEDUCED). -/
def groupChks (d : Dev) (c : MbCmd) : List Chk :=
  let ms := c.members
  let own := d.net.fab.id.toNat
  let setting := c.f 1 1 == 0
  ([(32 ≤ c.payload.length, 8), (c.f 1 1 ≤ 1, 65), (1 ≤ c.f 2 1 && c.f 2 1 ≤ 64, 66), (c.z 3 1, 67),
    (1 ≤ c.f 4 2 && c.f 4 2 ≤ 1024 && c.payload.length == 32 + 2 * c.f 4 2, 68),
    (c.f 6 2 < 2 ^ 14 && (!setting || (d.ctx (c.f 2 1)).prog.isNone || d.listed (c.f 2 1) (c.f 6 2)), 70),
    (c.f 8 8 % 64 == 0 && (!setting || d.inStacked (c.f 8 8) (64 * c.f 16 2)), 72), (1 ≤ c.f 16 2 && c.f 16 2 ≤ 256, 80), (c.z 18 2, 82),
    (c.z 24 8, 88)] : List Chk)
    ++ (if !setting then []
      else ms.zipIdx.map (fun p => (!(ms.take p.2).contains p.1 && (p.1 == own || (d.peerEntry p.1).isSome), 96 + 2 * p.2))
        ++ [(ms.contains own, 96)])

/-- Whether a collective of a group is in progress. -/
def Dev.groupRuns (d : Dev) (g : Nat) : Bool := ((aget d.net.groups g).bind (fun x => x.run)).isSome

/-- GROUP_SET (R365, R366). -/
def execGroupSet (mb : Nat) (s : State) : Host.Outcome State Fault Refusal :=
  serveD mb 0x62 (fun c => c.f 1 1 != 1) (fun s c => groupChks s.dev c) (fun c d =>
    let o := c.f 2 1
    if !Dev.holds (d.ctx o) then d.reply mb c 7 (d.ctxDetail o)
    else if d.groupRuns (c.f 0 1) then d.reply mb c 7 d.devDetail
    else
      let g : Group := { owner := o, trig := c.f 6 2, list := c.f 8 8, len := c.f 16 2, epoch := BitVec.ofNat 32 (c.f 20 4), members := c.members }
      (({ d with net := { d.net with groups := aset d.net.groups (c.f 0 1) g } }).recheckUnits).okWith mb c []) s

/-- GROUP_CLEAR (R366). -/
def execGroupClear (mb : Nat) (s : State) : Host.Outcome State Fault Refusal :=
  serveD mb 0x62 (fun c => c.f 1 1 == 1) (fun s c => groupChks s.dev c) (fun c d =>
    if d.groupRuns (c.f 0 1) then d.reply mb c 7 d.devDetail
    else (({ d with net := { d.net with groups := adel d.net.groups (c.f 0 1) } }).recheckUnits).okWith mb c []) s

/-- The configuration of a MB_TRACE_CONFIG payload (R440). -/
def MbCmd.traceCfg (c : MbCmd) : TraceCfg :=
  { tclass := BitVec.ofNat 8 (c.f 1 1), tctx := c.f 2 1, cores := bit (c.f 3 1) 0, clear := bit (c.f 3 1) 1,
    mark := BitVec.ofNat 32 (c.f 4 4), ring := if c.f 1 1 == 0 then none else some (c.f 8 8), size := c.f 16 4, peer := c.f 20 2, win := c.f 22 2, span := c.f 24 4,
    csel := (List.range 8).map (fun i => c.f (32 + 4 * i) 4) }

/-- Field checks of MB_TRACE_CONFIG (R13, R439, R440). Log 37 (DEDUCED). -/
def traceChks (d : Dev) (c : MbCmd) : List Chk :=
  let set := c.f 0 1 == 0
  let ring := set && c.f 1 1 != 0
  ([lenIs c 64, (c.f 0 1 ≤ 1, 64), (c.f 1 1 < 32, 65), (c.f 2 1 ≤ 64, 66), (c.f 3 1 < 4, 67),
    (!set || (if ring then c.f 8 8 % 4096 == 0 && d.inStacked (c.f 8 8) (c.f 16 4) else c.z 8 8), 72),
    (!set || (if ring then 65536 ≤ c.f 16 4 && c.f 16 4 ≤ 2 ^ 30 && c.f 16 4 % 4096 == 0 else c.z 16 4), 80),
    (!ring || c.f 20 2 == 0xFFFF || (d.peerEntry (c.f 20 2)).isSome, 84),
    (!ring || (c.f 24 4 % 4096 == 0 && (c.f 20 2 == 0xFFFF || c.f 24 4 != 0)), 88), (c.z 28 4, 92)] : List Chk)
    ++ (List.range 8).map (fun i => (c.f (32 + 4 * i) 1 ≤ 0x0E && c.f (32 + 4 * i) 4 < 512, 96 + 4 * i))

/-- Whether the observation block is powered (R459). -/
def Dev.obsOn (d : Dev) : Bool := d.power.on.getLsbD 54

/-- TRACE_SET (R441): queued for the next boundary; `WARN` when it turns profiling on over an `RT` entry of a certified
program. -/
def execTraceSet (mb : Nat) (s : State) : Host.Outcome State Fault Refusal :=
  serveD mb 0x70 (fun c => c.f 0 1 != 1) (fun s c => traceChks s.dev c) (fun c d =>
    let t := c.traceCfg
    let on := t.tclass != 0 || t.cores
    if on && !d.obsOn then d.reply mb c 7 (Dev.unitDetail .off)
    else
      let warn := on && !d.profiling && d.slots.table.any (fun e => e.rt && Dev.holds (d.ctx e.owner) && !(Dev.certified (d.ctx e.owner)).isEmpty)
      ({ d with trace := { d.trace with pend := some t } }).complete mb c.order 0 0 warn []) s

/-- TRACE_STOP (R441). -/
def execTraceStop (mb : Nat) (s : State) : Host.Outcome State Fault Refusal :=
  serveD mb 0x70 (fun c => c.f 0 1 == 1) (fun s c => traceChks s.dev c) (fun c d =>
    ({ d with trace := { d.trace with pend := some { d.trace.cfg with tclass := 0, cores := false, clear := false, stop := true } } }).okWith mb c []) s

/-- Whether a counter identifier is in range (R436). -/
def counterOk (id : Nat) : Bool :=
  let g := id / 256
  let i := id % 256
  if g ∈ [0x01, 0x02, 0x03] then i < 32
  else if g ∈ [0x10, 0x11, 0x12, 0x13, 0x14, 0x15, 0x16, 0x18, 0x19] then i < 8
  else if g ∈ [0x20, 0x21, 0x30, 0x31, 0x32, 0x33, 0x34, 0x35, 0x36, 0x37, 0x50] then i < 2
  else if g == 0x40 then i < 11
  else if 0x60 ≤ g && g ≤ 0x67 then 1 ≤ i && i ≤ 64
  else false

def counterChks (c : MbCmd) : List Chk :=
  let sel := c.f 0 1
  let n := c.f 2 2
  ([(sel == 0 || c.payload.length == 8, 8), (sel ≤ 3, 64), (c.f 1 1 < (if sel == 2 then 8 else if sel == 3 then 32 else 1), 65),
    (if sel == 0 then 1 ≤ n && n ≤ 512 && c.payload.length == 8 + 2 * n else if sel == 2 then 1 ≤ n && n ≤ 255 else n == 0, 66),
    (sel == 2 || c.z 4 2, 68), (c.z 6 2, 70)] : List Chk)
    ++ (if sel == 0 then (List.range n).map (fun i => (counterOk (c.f (8 + 2 * i) 2), 72 + 2 * i)) else [])

/-- MB_COUNTER_READ (R436 to R438). -/
def execMbCounterRead (mb : Nat) (s : State) : Host.Outcome State Fault Refusal :=
  serveD mb 0x71 (fun c => c.f 0 1 ∉ [1, 2, 3]) (fun _ c => counterChks c) (fun c d =>
    d.okWith mb c ((List.range (c.f 2 2)).flatMap (fun i =>
      leBytes 8 (d.ctrVal (c.f (8 + 2 * i) 2 / 256) (c.f (8 + 2 * i) 2 % 256)).toNat))) s

/-- PORT_STATUS_READ (R374). -/
def execPortStatusRead (mb : Nat) (s : State) : Host.Outcome State Fault Refusal :=
  serveD mb 0x71 (fun c => c.f 0 1 == 1) (fun _ c => counterChks c) (fun c d =>
    d.okWith mb c (leBytes 8 (d.portWord 0) ++ leBytes 8 (d.portWord 1))) s

/-- Octets of a log entry (R299). -/
def LogEntry.bytes (e : LogEntry) : List Byte :=
  leBytes 6 e.page ++ leBytes 1 e.kind ++ leBytes 1 e.syms ++ leBytes 3 e.row ++ leBytes 1 e.bank ++ leBytes 4 e.tick.toNat

/-- CORR_LOG_READ (R299, R437). -/
def execCorrLogRead (mb : Nat) (s : State) : Host.Outcome State Fault Refusal :=
  serveD mb 0x71 (fun c => c.f 0 1 == 2) (fun _ c => counterChks c) (fun c d =>
    let l := (d.stack (c.f 1 1)).log
    d.okWith mb c (leBytes 4 l.length ++ leBytes 4 0 ++ ((l.drop (c.f 4 2)).take (c.f 2 2)).flatMap LogEntry.bytes)) s

/-- CORE_COUNTER_READ (R439, R437). -/
def execCoreCounterRead (mb : Nat) (s : State) : Host.Outcome State Fault Refusal :=
  serveD mb 0x71 (fun c => c.f 0 1 == 3) (fun _ c => counterChks c) (fun c d =>
    d.okWith mb c ((List.range 96).flatMap (fun i =>
      leBytes 8 ((aget d.trace.core (8 * (12 * c.f 1 1) + i)).getD 0).toNat))) s

end Sys2Proof.Machine
end

