-- ==== Sys2Proof/Machine/Codec.lean ====
section
/-! DEFINITION. The video codec engines (14): the front end, the opening and closing of streams, frames submitted, run
and completed. Bitstreams and pictures are free functions of what the spec says they depend on. -/

namespace Sys2Proof.Machine

/-- An integer nearest to a finite value, ties to even. -/
def rneInt : FV → Int
  | .fin s m e => let g : Nat := roundGrid .ne m e 0
                  if s then -(g : Int) else g
  | _ => 0

/-- The matrix constants (R380): kr, kb, kg, c_b, c_r. -/
structure Colour where
  kr : FV
  kb : FV
  deriving DecidableEq, Repr

def Colour.of (bt2020 : Bool) : Colour :=
  if bt2020 then ⟨rne32 (ratio false 2627 10000), rne32 (ratio false 593 10000)⟩
  else ⟨rne32 (ratio false 2126 10000), rne32 (ratio false 722 10000)⟩

def Colour.kg (m : Colour) : FV := rne32 ((FV.one.sub m.kr).sub m.kb)
def Colour.cb (m : Colour) : FV := rne32 (divx FV.one ((FV.one.sub m.kb).scale 1))
def Colour.cr (m : Colour) : FV := rne32 (divx FV.one ((FV.one.sub m.kr).scale 1))

def clamp01 (v : FV) : FV := if v.isNan then FV.zero else FV.min FV.one (FV.max FV.zero v)

/-- R′, G′, B′ of one pixel to Y, Cb, Cr in FP32 (R380). -/
def rgbToYcc (m : Colour) (r g b : Nat) : FV × FV × FV :=
  let r := clamp01 (Fmt.fp16.decode r)
  let g := clamp01 (Fmt.fp16.decode g)
  let b := clamp01 (Fmt.fp16.decode b)
  let y := addr32 (addr32 (mulr32 m.kr r) (mulr32 m.kg g)) (mulr32 m.kb b)
  (y, mulr32 (subr32 b y) m.cb, mulr32 (subr32 r y) m.cr)

def clampSample (d : Nat) (i : Int) : Nat := Nat.min i.toNat (2 ^ d - 1)

/-- A luma and a chroma value quantised to d bits (R380). -/
def quantY (full : Bool) (d : Nat) (y : FV) : Nat :=
  clampSample d (rneInt (if full then y.mul (FV.ofNat (2 ^ d - 1))
    else (rne32 (((FV.ofNat 219).mul y).add (FV.ofNat 16))).scale ((d : Int) - 8)))
def quantC (full : Bool) (d : Nat) (c : FV) : Nat :=
  clampSample d (rneInt (if full then (mulr32 c (FV.ofNat (2 ^ d - 1))).add (FV.ofNat (2 ^ (d - 1)))
    else (rne32 (((FV.ofNat 224).mul c).add (FV.ofNat 128))).scale ((d : Int) - 8)))

/-- The chroma of a 2 × 2 block: four values summed in raster order, then a quarter (R380). -/
def chroma4 (a b c e : FV) : FV := (addr32 (addr32 (addr32 a b) c) e).scale (-2)

/-- Planes of FP16 codes, row-major, to the samples of Y and of Cb, Cr pairs (R380). -/
def toSamples (m : Colour) (full : Bool) (d w h : Nat) (r g b : Nat → Nat) : List Nat :=
  let px (x y : Nat) : FV × FV × FV := rgbToYcc m (r (y * w + x)) (g (y * w + x)) (b (y * w + x))
  let q (f : FV × FV × FV → FV) (x y : Nat) : Nat := quantC full d
    (chroma4 (f (px (2 * x) (2 * y))) (f (px (2 * x + 1) (2 * y))) (f (px (2 * x) (2 * y + 1))) (f (px (2 * x + 1) (2 * y + 1))))
  (List.range (w * h)).map (fun i => quantY full d (px (i % w) (i / w)).1)
    ++ (List.range (w / 2 * (h / 2))).flatMap (fun i =>
      [q (fun p => p.2.1) (i % (w / 2)) (i / (w / 2)), q (fun p => p.2.2) (i % (w / 2)) (i / (w / 2))])

/-- Samples of one pixel back to FP16 codes of R′, G′, B′ (R381): each step of R380 inverted, the last first.
Log 135 (DEDUCED). -/
def yccToRgb (m : Colour) (full : Bool) (d y cb cr : Nat) : Nat × Nat × Nat :=
  let lum : FV := if full then rne32 (ratio false y (2 ^ d - 1))
    else rne32 (divx (rne32 (((FV.ofNat y).scale (8 - (d : Int))).sub (FV.ofNat 16))) (FV.ofNat 219))
  let chr (c : Nat) : FV := if full then rne32 (divx (FV.ofInt ((c : Int) - 2 ^ (d - 1))) (FV.ofNat (2 ^ d - 1)))
    else rne32 (divx (rne32 (((FV.ofNat c).scale (8 - (d : Int))).sub (FV.ofNat 128))) (FV.ofNat 224))
  let b := addr32 (rne32 (divx (chr cb) m.cb)) lum
  let r := addr32 (rne32 (divx (chr cr) m.cr)) lum
  let g := rne32 (divx (subr32 (subr32 lum (mulr32 m.kb b)) (mulr32 m.kr r)) m.kg)
  let out (v : FV) : Nat := Fmt.fp16.encode .ne (clamp01 v)
  (out r, out g, out b)

/-- S of R383. -/
def poolBytes (w h depth : Nat) : Nat :=
  let wa := alignUp w 64
  let ha := alignUp h 64
  let bps := if depth == 8 then 1 else 2
  alignUp (wa * ha * bps * 3 / 2 + wa * ha / 16) 4096

/-- Limits of a level: luma samples of a picture, luma samples a second, and AV1's own limits on width and height. -/
structure Level where
  size : Nat
  rate : Nat
  wide : Option (Nat × Nat) := none
  deriving DecidableEq, Repr

/-- The levels of a standard by their number (R384; the tables of H.265 and of AV1). Log 129 (PRESUMED). -/
def levelTable (std : Nat) : AMap Level :=
  if std == 0 then
    [(30, ⟨36864, 552960, none⟩), (60, ⟨122880, 3686400, none⟩), (63, ⟨245760, 7372800, none⟩), (90, ⟨552960, 16588800, none⟩),
     (93, ⟨983040, 33177600, none⟩), (120, ⟨2228224, 66846720, none⟩), (123, ⟨2228224, 133693440, none⟩),
     (150, ⟨8912896, 267386880, none⟩), (153, ⟨8912896, 534773760, none⟩), (156, ⟨8912896, 1069547520, none⟩),
     (180, ⟨35651584, 1069547520, none⟩), (183, ⟨35651584, 2139095040, none⟩), (186, ⟨35651584, 4278190080, none⟩)]
  else
    let l5 := some (8192, 4352)
    let l6 := some (16384, 8704)
    [(0, ⟨147456, 4423680, some (2048, 1152)⟩), (1, ⟨278784, 8363520, some (2816, 1584)⟩),
     (4, ⟨665856, 19975680, some (4352, 2448)⟩), (5, ⟨1065024, 31950720, some (5504, 3096)⟩),
     (8, ⟨2359296, 70778880, some (6144, 3456)⟩), (9, ⟨2359296, 141557760, some (6144, 3456)⟩),
     (12, ⟨8912896, 267386880, l5⟩), (13, ⟨8912896, 534773760, l5⟩), (14, ⟨8912896, 1069547520, l5⟩),
     (15, ⟨8912896, 1069547520, l5⟩), (16, ⟨35651584, 1069547520, l6⟩), (17, ⟨35651584, 2139095040, l6⟩)]

/-- A level's limits; none for a level that the standard does not define. Log 129 (PRESUMED). -/
def levelLimits (std level : Nat) : Option Level := aget (levelTable std) level

/-- Whether a frame size and rate lie within a level: H.265 bounds a side by the picture size, AV1 by its own table.
Log 129 (PRESUMED). -/
def sizeOk (std level w h : Nat) : Bool :=
  (levelLimits std level).all (fun l => w * h ≤ l.size && (match l.wide with
    | some (a, b) => w ≤ a && h ≤ b
    | none => w * w ≤ 8 * l.size && h * h ≤ 8 * l.size))
def rateOk (std level w h num den : Nat) : Bool := (levelLimits std level).all (fun l => w * h * num ≤ l.rate * den)

/-- Range checks of MB_CODEC_STREAM_OPEN (R382). Log 130 (DEDUCED). -/
def openChks (c : MbCmd) : List Chk :=
  let std := c.f 1 1
  let dec := c.f 2 1 == 1
  let noTrig := bit (c.f 36 2) 15
  let noDone := bit (c.f 60 2) 15
  [lenIs c 80, (c.f 0 1 ≤ 1, 64), (std ≤ 1, 65), (c.f 2 1 ≤ 1, 66), (c.f 3 1 ≤ (if std == 0 then 1 else 0), 67),
   (c.f 4 1 ≤ (if std == 0 then 186 else 17), 68), (c.f 5 1 ≤ 1, 69),
   (c.f 6 1 == 8 || (c.f 6 1 == 10 && !(std == 0 && c.f 3 1 == 0)), 70), (c.f 7 1 < 8, 71),
   (c.f 8 2 % 8 == 0 && 64 ≤ c.f 8 2 && c.f 8 2 ≤ 7680, 72), (c.f 10 2 % 8 == 0 && 64 ≤ c.f 10 2 && c.f 10 2 ≤ 4320, 74),
   (c.f 12 1 ≤ (if dec then 0 else 2), 76), (c.f 13 1 ≤ (if dec then 0 else 2), 77),
   (dec || (if std == 0 then c.f 14 1 ≤ 51 else 1 ≤ c.f 14 1), 78), (1 ≤ c.f 15 1 && c.f 15 1 ≤ 64, 79),
   (c.f 13 1 != 0 || c.z 20 4, 84), (c.f 32 4 != 0, 96), (!bit (c.f 36 2) 14, 100),
   (if noTrig && noDone then c.z 38 1 else 1 ≤ c.f 38 1 && c.f 38 1 ≤ 64, 102), (c.f 39 1 ≤ 4, 103), (c.f 40 8 % 4096 == 0, 104),
   (if dec then c.z 48 8 else c.f 48 8 % 4096 == 0, 112), (if dec then c.z 56 4 else c.f 56 4 != 0 && c.f 56 4 % 4096 == 0, 120),
   (!bit (c.f 60 2) 14, 124), (if noTrig then c.z 62 2 else 1 ≤ c.f 62 2 && c.f 62 2 ≤ 4096, 126), (c.f 64 8 % 64 == 0, 128),
   (16 ≤ c.f 72 2 && c.f 72 2 ≤ 4096, 136), (c.z 74 6, 138)]

/-- Where the frame ring begins (R382). Log 131 (DEDUCED). -/
def fringBase (crec crecN : Nat) : Nat := alignUp (crec + 32 * crecN) 256

/-- The message's own `BAD_ARGUMENT` checks (R384). Log 130 (DEDUCED), 131 (DEDUCED). -/
def openOwn (d : Dev) (c : MbCmd) : List Chk :=
  let std := c.f 1 1
  let dec := c.f 2 1 == 1
  let w := c.f 8 2
  let h := c.f 10 2
  let x := c.f 38 1
  let known (o : Nat) : Bool := bit o 15 || (d.ctx x).prog.isNone || d.listed x (o % 2 ^ 14)
  let least := if dec then (if std == 1 then 9 else 1)
    else (match c.f 12 1 with | 0 => 1 | 1 => 2 | _ => 6) + c.f 39 1
  [((levelLimits std (c.f 4 1)).isSome, 68), (sizeOk std (c.f 4 1) w h, 72), (least ≤ c.f 15 1, 79),
   (rateOk std (c.f 4 1) w h (c.f 28 4) (c.f 32 4), 92), (known (c.f 36 2), 100),
   (c.f 39 1 == 0 || !(dec || c.f 12 1 == 0), 103),
   (d.inStacked (c.f 40 8) (c.f 15 1 * poolBytes w h (c.f 6 1)), 104), (dec || d.inStacked (c.f 48 8) (c.f 56 4), 112),
   (known (c.f 60 2), 124), (c.f 62 2 == 0 || d.inStacked (fringBase (c.f 64 8) (c.f 72 2)) (256 * c.f 62 2), 126),
   (d.inStacked (c.f 64 8) (32 * c.f 72 2), 128)]

/-- The stream of a MB_CODEC_STREAM_OPEN payload. -/
def MbCmd.cstream (mb : Nat) (c : MbCmd) : CStream :=
  let so (o : Nat) : Option Nat := if bit o 15 then none else some (o % 2 ^ 14)
  { mbox := mb, std := c.f 1 1, decode := c.f 2 1 == 1, profile := c.f 3 1, level := c.f 4 1, tier := c.f 5 1, depth := c.f 6 1,
    sflags := c.f 7 1, width := c.f 8 2, height := c.f 10 2, gop := c.f 12 1, rc := c.f 13 1, qp := c.f 14 1, nbuf := c.f 15 1,
    keyPeriod := c.f 16 4, bitrate := c.f 20 4, vbv := c.f 24 4, fps := (c.f 28 4, c.f 32 4), trig := so (c.f 36 2),
    done := so (c.f 60 2), ctx := c.f 38 1, nltr := c.f 39 1, pool := c.f 40 8, ring := c.f 48 8, ringSize := c.f 56 4,
    fringN := c.f 62 2, crec := c.f 64 8, crecN := c.f 72 2 }

/-- One of a list of free places, which one the spec does not say. Log 11 (DESIGN CHOICE). -/
def pickFree (tag : Nat) (l : List Nat) : Nat := l.getD (Config.freeNat tag % Nat.max 1 l.length) 0

namespace Dev

def openStream (mb : Nat) (c : MbCmd) (d : Dev) : Dev :=
  let e := c.f 0 1
  let x := c.f 38 1
  match firstOff (openOwn d c) with
  | some o => d.reply mb c 8 o
  | none =>
    if x != 0 && !holds (d.ctx x) then d.reply mb c 7 (d.ctxDetail x)
    else
      let free := ((List.range 32).map (fun i => 32 * e + i)).filter (fun n => (d.cstream n).isNone)
      if free.isEmpty then d.reply mb c 3 (7 + e * 2 ^ 8)
      else
        let n := pickFree d.fresh free
        let d := d.bump.setCodec e (fun k => { k with streams := aset k.streams n (c.cstream mb) })
        d.okWith mb c (leBytes 2 n ++ leBytes 2 0 ++ leBytes 4 (poolBytes (c.f 8 2) (c.f 10 2) (c.f 6 1)))

end Dev

/-- MB_CODEC_STREAM_OPEN (R382 to R384). -/
def execMbCodecStreamOpen (mb : Nat) (s : State) : Host.Outcome State Fault Refusal :=
  serveD mb 0xC0 anyCodec (fun _ c => openChks c) (fun c => Dev.openStream mb c) s
where anyCodec : MbCmd → Bool := fun _ => true

/-- Reserved fields of a frame descriptor and ranges (R385, R390): what holds, and the offset. A decoder ignores the region
entries (R391). -/
def descStatic (dec : Bool) (b : List Byte) : List Chk :=
  let n := fld b 5 1
  ([(fld b 4 1 < 16, 4), (n ≤ 16, 5), (fld b 6 1 < 4, 6), (zeros b 7 1, 7), (fld b 32 4 % 64 == 0, 32), (zeros b 36 4, 36),
    (zeros b 48 16, 48)] : List Chk)
    ++ (if dec then [] else List.range 16).map (fun i =>
      let r := fld b (64 + 8 * i) 8
      (if i < n then bits r 8 0 < bits r 26 18 && bits r 17 9 < bits r 35 27 && bits r 40 36 != 16 && r / 2 ^ 41 == 0 else r == 0,
       64 + 8 * i))

/-- Bytes of one sample, and of one row of a luma or RGB plane. -/
def CStream.bps (s : CStream) : Nat := if s.depth == 8 then 1 else 2
def CStream.rgb (s : CStream) : Bool := bit s.sflags 2
def CStream.full (s : CStream) : Bool := bit s.sflags 0
def CStream.row (s : CStream) : Nat := if s.rgb then 2 * s.width else s.bps * s.width

/-- The rows of a frame in memory, luma or R′ first: address and bytes of each (R385). -/
def planeRows (base stride n row : Nat) : List (Nat × Nat) := (List.range n).map (fun y => (base + stride * y, row))
def CStream.inRows (s : CStream) (in0 in1 in2 stride : Nat) : List (Nat × Nat) :=
  if s.rgb then planeRows in0 stride s.height s.row ++ planeRows in1 stride s.height s.row ++ planeRows in2 stride s.height s.row
  else planeRows in0 stride s.height s.row ++ planeRows in1 stride (s.height / 2) s.row
def CStream.outRows (s : CStream) (out stride : Nat) : List (Nat × Nat) :=
  s.inRows out (out + stride * s.height) (out + stride * s.height * 2) stride

/-- Distinct non-zero quality offsets of a descriptor. Log 134 (DEDUCED). -/
def roiOffsets (l : List (BitVec 64)) : List Int :=
  ((l.map (fun r => sgn 5 (bits r.toNat 40 36))).filter (fun q => q != 0)).eraseDups

def descRoi (b : List Byte) : List (BitVec 64) := (List.range (Nat.min 16 (fld b 5 1))).map (fun i => BitVec.ofNat 64 (fld b (64 + 8 * i) 8))

/-- The checks of a descriptor for a stream (R385, R386, R391). Log 132 (DESIGN CHOICE). -/
def descChks (d : Dev) (s : CStream) (b : List Byte) : List Chk :=
  let fl := fld b 4 1
  let a (o : Nat) : Nat := fld b o 8
  let stride := fld b 32 4
  let plane (base n : Nat) : Bool := d.inStacked base (stride * (n - 1) + s.row)
  descStatic s.decode b ++
    (if s.decode then
      [(zeros b 24 8, 24), (d.inStacked (a 8) (a 16), 8),
       (plane (a 40) (if s.rgb then 3 * s.height else s.height + s.height / 2), 40)]
    else
      [(!(bit fl 1 || bit fl 2) || fld b 6 1 < s.nltr, 6), (plane (a 8) s.height, 8),
       (plane (a 16) (if s.rgb then s.height else s.height / 2), 16), (if s.rgb then plane (a 24) s.height else zeros b 24 8, 24),
       (zeros b 40 8, 40), (s.std == 0 || (roiOffsets (descRoi b)).length ≤ 7, 64)])

/-- A descriptor as queued. -/
def descOf (b : List Byte) : FrameDesc :=
  { tag := fld b 0 4, flags := fld b 4 1, roi := descRoi b, slot := fld b 6 1, inp := [fld b 8 8, fld b 16 8, fld b 24 8],
    stride := fld b 32 4, out := fld b 40 8 }

/-- Coding order of a full group of 8 (R389; the usual dyadic order, PRESUMED). Log 133 (PRESUMED). -/
def codingOrder : List Nat := [7, 3, 1, 0, 2, 5, 4, 6]

/-- A frame submitted to a stream (R386, R389): queued, or held until its group's anchor arrives.
Log 133 (PRESUMED). -/
def CStream.submit (f : FrameDesc) (s : CStream) : CStream :=
  if s.decode || s.gop != 2 then { s with queue := s.queue ++ [f] }
  else
    let key := bit f.flags 0 || s.needKey || (s.keyPeriod != 0 && s.keyPeriod ≤ s.order)
    let order := if key then 0 else s.order
    let f := { f with order := order, key := key }
    let eos := bit f.flags 3
    let s := { s with order := order + 1, needKey := eos }
    if key then { s with queue := s.queue ++ s.held ++ [f], held := [] }
    else if s.held.length == 7 then
      let g := s.held ++ [f]
      { s with queue := s.queue ++ codingOrder.map (fun i => g.getD i f), held := [] }
    else if eos then { s with queue := s.queue ++ s.held ++ [f], held := [] }
    else { s with held := s.held ++ [f] }

/-- Checks of MB_CODEC_FRAME (R385, R386). -/
def frameChks (d : Dev) (c : MbCmd) : List Chk :=
  [lenIs c 200, (c.f 0 2 < 64, 64), (c.z 2 6, 66)]
    ++ (descStatic ((d.cstream (c.f 0 2)).any (fun s => s.decode)) (c.payload.drop 8)).map (fun k => (k.1, 72 + k.2))

/-- A frame by mailbox (R386). Log 128 (DEDUCED), 131 (DEDUCED). -/
def Dev.submitFrame (mb : Nat) (c : MbCmd) (d : Dev) : Dev :=
  let n := c.f 0 2
  match d.cstream n with
  | none => d.reply mb c 8 64
  | some s =>
    if s.trig.isSome then d.reply mb c 8 64
    else match firstOff (descChks d s (c.payload.drop 8)) with
      | some o => d.reply mb c 8 (72 + o)
      | none =>
        if s.closing.isSome then d.reply mb c 7 d.devDetail
        else if 8 ≤ s.queue.length + s.held.length then d.reply mb c 1 0
        else (d.setCstream n (fun s => s.submit (descOf (c.payload.drop 8)))).okWith mb c []

/-- MB_CODEC_FRAME (R385, R386). -/
def execMbCodecFrame (mb : Nat) (s : State) : Host.Outcome State Fault Refusal :=
  serveD mb 0xC1 (fun _ => true) (fun s c => frameChks s.dev c) (fun c => Dev.submitFrame mb c) s

/-- The trigger object of a stream is taken and the next descriptor of its frame ring queued.
Log 128 (DEDUCED), 132 (DESIGN CHOICE). -/
def Dev.codecTrigger (n : Nat) (d : Dev) : Dev :=
  match d.cstream n with
  | none => d
  | some s =>
    match s.trig with
    | none => d
    | some o =>
      if s.detached || s.closing.isSome || d.svcOf 2 (n / 32) != .inService || 8 ≤ s.queue.length + s.held.length
          || d.objVal s.ctx o == 0 then d
      else
        let d := d.setCtx s.ctx (fun c => { c with objs := aset c.objs o (BitVec.ofNat 32 (d.objVal s.ctx o - 1)) })
        let r := d.ioFetch (fringBase s.crec s.crecN + 256 * s.fpos) 192
        let d := r.2.setCstream n (fun s => { s with fpos := (s.fpos + 1) % Nat.max 1 s.fringN })
        let b := r.1.1
        if !r.1.2.isEmpty then d.codecRecord n (fld b 0 4) 1 0 0 0 0 0
        else if (descChks d s b).any (fun k => !k.1) then d.codecRecord n (fld b 0 4) 5 0 0 0 0 0
        else d.setCstream n (fun s => s.submit (descOf b))

/-- CODEC_TRIGGER (R386). -/
def execCodecTrigger (stream : Nat) (s : State) : Host.Outcome State Fault Refusal := onDev (Dev.codecTrigger stream) s

/-- Size of a frame in the coder, padded to its blocks of 64 × 64 (R377, R380, R383). Log 135 (DEDUCED). -/
def CStream.coded (s : CStream) : Nat × Nat := (alignUp s.width 64, alignUp s.height 64)

/-- How an encoder codes and what it signals (R377, R380): slices or tile rows, tile columns; the place of the chroma sample
(1 at the centre, 0 unknown), the matrix, the range; the size coded and the size that the crop leaves. -/
def CStream.coding (s : CStream) : List Nat :=
  if s.decode then []
  else
    [1, if s.std == 0 then 1 else cdiv s.coded.1 4096, if s.std == 0 then 1 else 0, b2n (bit s.sflags 1), b2n s.full,
     s.coded.1, s.coded.2, s.width, s.height]

/-- The settings that a bitstream depends on (R382). -/
def CStream.settings (s : CStream) : List Nat :=
  [s.std, b2n s.decode, s.profile, s.level, s.tier, s.depth, s.sflags, s.width, s.height, s.gop, s.rc, s.qp, s.keyPeriod,
   s.bitrate, s.vbv, s.fps.1, s.fps.2, s.nltr] ++ s.coding

namespace Dev

/-- Bytes of the rows of a frame, and whether one lies in a poisoned line. -/
def readRows (rows : List (Nat × Nat)) (d : Dev) : (List (List Byte) × Bool) × Dev :=
  let r := rows.foldl (fun (st : List (List Byte) × Bool × Dev) p =>
    let r := st.2.2.ioFetch p.1 p.2
    (st.1 ++ [r.1.1], st.2.1 || !r.1.2.isEmpty, r.2)) ([], false, d)
  ((r.1, r.2.1), r.2.2)

/-- The input of a frame (R380, R385): samples of Y then Cb, Cr pairs for an encoder, the bytes of the bitstream for a
decoder; and whether it is poisoned. Log 127 (DESIGN CHOICE). -/
def readInput (s : CStream) (f : FrameDesc) (d : Dev) : (List Nat × Bool) × Dev :=
  if s.decode then
    let r := d.ioFetch (nth f.inp 0) (nth f.inp 1)
    ((r.1.1.map (fun b => b.toNat), !r.1.2.isEmpty), r.2)
  else
    let r := d.readRows (s.inRows (nth f.inp 0) (nth f.inp 1) (nth f.inp 2) f.stride)
    let rows := r.1.1
    let h := s.height
    let w := s.width
    let at2 (p i : Nat) : Nat := fld (rows.getD (p * h + i / w) []) (2 * (i % w)) 2
    let samples : List Nat :=
      if s.rgb then toSamples (Colour.of (bit s.sflags 1)) s.full s.depth w h (at2 0) (at2 1) (at2 2)
      else rows.flatMap (fun l => (List.range w).map (fun i => fld l (s.bps * i) s.bps % 2 ^ s.depth))
    ((samples, r.1.2), r.2)

/-- Whether reading the reference buffers of an inter frame meets poison (R388, R394). Log 127 (DESIGN CHOICE). -/
def readRefs (s : CStream) (d : Dev) : Bool × Dev :=
  let b := poolBytes s.width s.height s.depth
  (s.refs ++ s.ltrs.map (fun p => p.2)).foldl (fun (st : Bool × Dev) i =>
    let r := st.2.ioFetch (s.pool + i * b) b
    (st.1 || !r.1.2.isEmpty, r.2)) (false, d)

/-- Whether an encoder makes a key frame of its next frame (R382, R388, R389): under random access where its submission fixed
it, or where it takes the place of one that was poisoned or has no references. Log 133 (PRESUMED). -/
def startsKey (s : CStream) (f : FrameDesc) : Bool :=
  if s.gop == 2 then f.key || s.owed || (s.refs.isEmpty && s.ltrs.isEmpty)
  else bit f.flags 0 || s.needKey || (s.keyPeriod != 0 && s.keyPeriod ≤ s.order)

/-- The stream an engine serves next (R387): the next in ascending index after the last that has a frame queued. -/
def nextStream (d : Dev) (e : Nat) : Option Nat :=
  let k := d.codec.getD e {}
  ((List.range 32).map (fun i => 32 * e + (k.last + 1 + i) % 32)).find? (fun n =>
    match d.cstream n with
    | some s => !s.queue.isEmpty
    | none => false)

def frameStart (e : Nat) (d : Dev) : Dev :=
  let k := d.codec.getD e {}
  if k.cur.isSome || !(k.svc == .inService || k.svc == .draining) then d
  else match d.nextStream e with
    | none => d
    | some n =>
      match d.cstream n with
      | none => d
      | some s =>
        match s.queue with
        | [] => d
        | f :: rest =>
          let r := d.readInput s f
          let key := if s.decode then Config.decKey s.settings s.enc r.1.1 else startsKey s f
          let p := if key || (!s.decode && s.gop == 0) || (s.decode && s.broken) then (false, r.2) else r.2.readRefs s
          let job : CodecJob := { stream := n, desc := f, key := key, input := r.1.1, poison := r.1.2 || p.1 }
          (p.2.setCstream n (fun s => { s with queue := rest })).setCodec e (fun k => { k with cur := some job, last := n % 32 })

end Dev

/-- CODEC_FRAME_START (R379, R380, R387). -/
def execCodecFrameStart (engine : Nat) (s : State) : Host.Outcome State Fault Refusal := onDev (Dev.frameStart engine) s

/-- The quality offset of each 16 × 16 block in raster order (R391). -/
def blockOffsets (s : CStream) (roi : List (BitVec 64)) : List Int :=
  let bw := cdiv s.width 16
  (List.range (bw * cdiv s.height 16)).map (fun i =>
    let x := i % bw
    let y := i / bw
    match roi.reverse.find? (fun r => bits r.toNat 8 0 ≤ x && x < bits r.toNat 26 18 && bits r.toNat 17 9 ≤ y && y < bits r.toNat 35 27) with
    | some r => sgn 5 (bits r.toNat 40 36)
    | none => 0)

/-- The quantiser of a block whose frame is coded at q (R391). -/
def blockQuant (s : CStream) (q off : Int) : Int :=
  if s.std == 1 then max 1 (min 255 (q + 4 * off))
  else max (if s.profile == 1 then -12 else 0) (min 51 (q + off))

/-- A list lengthened to n by repeating its last member. -/
def edgeTo {α : Type} (n : Nat) (l : List α) : List α :=
  match l.getLast? with
  | none => l
  | some x => l ++ List.replicate (n - l.length) x

/-- A plane of rows of w padded by its edge samples (R380). -/
def padPlane {α : Type} (w wide high : Nat) (l : List α) : List α := (edgeTo high ((chunks w l).map (edgeTo wide))).flatten

/-- The samples of a frame padded to the coding alignment, Y then Cb, Cr pairs (R380). Log 135 (DEDUCED). -/
def padFrame (s : CStream) (l : List Nat) : List Nat :=
  let n := s.width * s.height
  let (w, h) := s.coded
  padPlane s.width w h (l.take n) ++ (padPlane (s.width / 2) (w / 2) (h / 2) (chunks 2 (l.drop n))).flatten

/-- A frame as the coder takes it: flags, order, the block quantisers (constant QP) or offsets, the samples. -/
def codedFrame (s : CStream) (j : CodecJob) (order : Nat) : List Nat :=
  let offs := (blockOffsets s j.desc.roi).map (fun o => if s.rc == 0 then blockQuant s s.qp o else o)
  [b2n j.key, j.desc.flags, j.desc.slot, order] ++ offs.map (fun o => (o + 256).toNat) ++ padFrame s j.input

namespace Dev

/-- Buffers of a stream's pool that are neither short-term nor long-term (R388). -/
def unusedBufs (s : CStream) : List Nat :=
  (List.range s.nbuf).filter (fun i => !s.refs.contains i && !s.ltrs.any (fun p => p.2 == i))

/-- A pool buffer overwritten (R383, R388): its layout is the engine's own. -/
def writePool (s : CStream) (buf : Nat) (d : Dev) : Dev :=
  let b := poolBytes s.width s.height s.depth
  let a := s.pool + buf * b
  (d.ioStore a ((List.range b).map (fun i => Config.freeByte d.fresh (a + i))) (fun _ => false)).bump

/-- The marks after an encoded frame (R388). Log 132 (DESIGN CHOICE), 133 (PRESUMED). -/
def marksAfter (s : CStream) (j : CodecJob) (buf : Nat) : CStream :=
  let fl := j.desc.flags
  let s := if j.key then { s with refs := [], ltrs := [] } else s
  let s := if bit fl 2 then { s with ltrs := adel s.ltrs j.desc.slot } else s
  let w := match s.gop with | 0 => 0 | 1 => 1 | _ => 4
  if bit fl 1 then { s with ltrs := aset s.ltrs j.desc.slot buf } else { s with refs := (buf :: s.refs).take w }

/-- Display order number of a frame (R392): from 0 at each key frame; under random access its submission fixed it.
Log 133 (PRESUMED). -/
def orderOf (s : CStream) (j : CodecJob) : Nat :=
  if j.key then 0
  else if s.gop != 2 then s.order
  else if s.base ≤ j.desc.order then j.desc.order - s.base else j.desc.order

/-- What a frame's end leaves of a stream whatever its status (R389): after `EOS` the next frame is a key frame. -/
def atEos (j : CodecJob) (s : CStream) : CStream := { s with needKey := s.needKey || (s.gop != 2 && bit j.desc.flags 3) }

/-- A frame lost to poison or to its length: under random access a key frame's place is owed, and the next frame coded takes it with
number 0 (R392). Log 133 (PRESUMED). -/
def lostKey (j : CodecJob) (s : CStream) : CStream := { s with owed := s.owed || (s.gop == 2 && j.key) }

/-- A frame encoded (R388 to R394). One that consumes poison leaves references, rate state and the key frame it owed.
Log 134 (DEDUCED). -/
def doneEncode (n : Nat) (s : CStream) (j : CodecJob) (d : Dev) : Dev :=
  let order := orderOf s j
  let cf := codedFrame s j order
  if j.poison then
    (d.setCstream n (fun s => atEos j (lostKey j s))).codecRecord n j.desc.tag 1 0 0 0 0 0
  else
    let bs := Config.encBits s.settings s.enc cf
    if s.ringSize < bs.length then
      let d := d.setCstream n (fun s => atEos j (lostKey j { s with enc := Config.freeNat d.fresh }))
      d.bump.codecRecord n j.desc.tag 3 0 0 0 0 0
    else
      let off := if s.ringSize < s.wpos + bs.length then 0 else s.wpos
      let free := unusedBufs (if j.key then { s with refs := [], ltrs := [] } else s)
      let buf := pickFree d.fresh free
      let d := ((d.bump.writePool s buf).ioStore (s.ring + off) bs (fun _ => false)).setCstream n (fun s =>
        let s := marksAfter s j buf
        let s := if s.gop == 2 then (if j.key then { s with owed := false, base := j.desc.order } else s)
          else atEos j { s with order := order + 1, needKey := false }
        { s with wpos := off + bs.length, enc := Config.encNext s.settings s.enc cf })
      d.codecRecord n j.desc.tag 0 (b2n j.key + 2 * b2n (bit j.desc.flags 1)) buf off bs.length order

/-- Sample i of a decoded picture. -/
def decodedSample (s : CStream) (inp : List Nat) (i : Nat) : Nat := Config.decSample s.settings s.enc inp i % 2 ^ s.depth

/-- Bytes of row y of the output (R381, R385): rows of Y then of CbCr, or of R′, G′ and B′. -/
def outRow (s : CStream) (inp : List Nat) (y : Nat) : List Byte :=
  let w := s.width
  let h := s.height
  let smp := decodedSample s inp
  if s.rgb then
    let p := y / h
    let r := y % h
    (List.range w).flatMap (fun x =>
      let c := w * h + w * (r / 2) + 2 * (x / 2)
      let v := yccToRgb (Colour.of (bit s.sflags 1)) s.full s.depth (smp (w * r + x)) (smp c) (smp (c + 1))
      leBytes 2 (if p == 0 then v.1 else if p == 1 then v.2.1 else v.2.2))
  else (List.range w).flatMap (fun x => leBytes s.bps (smp (w * y + x)))

/-- A picture decoded (R381, R385, R388, R392, R394): the bitstream marks the pool's buffers, given the marks so far and the
buffer the picture took; where none is unused it takes any. After a picture dropped for poison, those up to the next key frame
end with `CSTATUS` 2, whatever they would read. Log 134 (DEDUCED). -/
def doneDecode (n : Nat) (s : CStream) (j : CodecJob) (d : Dev) : Dev :=
  let tag := j.desc.tag
  if j.poison && !(s.broken && !j.key) then (d.setCstream n (fun s => { s with broken := true })).codecRecord n tag 1 0 0 0 0 0
  else
    let key := j.key
    let bad := Config.decError s.settings s.enc j.input || (s.broken && !key)
    let nxt := Config.decNext s.settings s.enc j.input
    if bad then (d.setCstream n (fun s => { s with enc := nxt })).codecRecord n tag 2 0 0 0 0 0
    else
      let order := Config.decOrder s.settings s.enc j.input
      let buf := pickFree d.fresh (if (unusedBufs s).isEmpty then List.range s.nbuf else unusedBufs s)
      let marks := buf :: s.refs.length :: s.refs ++ s.ltrs.map (fun p => p.2)
      let short := ((Config.decShort s.settings s.enc j.input marks).filter (fun b => b < s.nbuf)).eraseDups
      let long := ((Config.decLong s.settings s.enc j.input marks).filter (fun b => b < s.nbuf && !short.contains b)).eraseDups
      let d := d.bump.writePool s buf
      let d := ((s.outRows j.desc.out j.desc.stride).zipIdx).foldl (fun d (p : (Nat × Nat) × Nat) =>
        d.ioStore p.1.1 (outRow s j.input p.2) (fun _ => false)) d
      let d := d.setCstream n (fun s => { s with
        enc := nxt, broken := false, refs := short, ltrs := long.zipIdx.map (fun p => (p.2, p.1)) })
      d.codecRecord n tag 0 (b2n key + 2 * b2n (long.contains buf)) buf 0 0 order

def frameDone (e : Nat) (d : Dev) : Dev :=
  match (d.codec.getD e {}).cur with
  | none => d
  | some j =>
    let d := d.setCodec e (fun k => { k with cur := none })
    match d.cstream j.stream with
    | none => d
    | some s =>
      ((if s.decode then d.doneDecode j.stream s j else d.doneEncode j.stream s j).endStream j.stream).tryRelease s.mbox

end Dev

/-- CODEC_FRAME_DONE (R381, R388 to R394). -/
def execCodecFrameDone (engine : Nat) (s : State) : Host.Outcome State Fault Refusal := onDev (Dev.frameDone engine) s

def closeChks (c : MbCmd) : List Chk := [lenIs c 8, (c.f 0 2 < 64, 64), (c.f 2 1 ≤ 1, 66), (c.z 3 5, 67)]

/-- A close (R395): its checks, then `body` with the command held. -/
def Dev.closing (mb : Nat) (c : MbCmd) (body : Dev → Dev) (d : Dev) : Dev :=
  let n := c.f 0 2
  match d.cstream n with
    | none => d.reply mb c 8 64
    | some s => if s.mbox != mb then d.reply mb c 8 64 else body (d.hold mb c)

/-- CODEC_CLOSE_DRAIN (R389, R395): the held frames follow the queued ones, as at `EOS`. -/
def execCodecCloseDrain (mb : Nat) (s : State) : Host.Outcome State Fault Refusal :=
  serveD mb 0xC2 (fun c => c.f 2 1 != 1) (fun _ c => closeChks c) (fun c =>
    Dev.closing mb c (fun d => (d.setCstream (c.f 0 2) (fun s => { s with
      queue := s.queue ++ s.held, held := [], closing := some (s.closing.getD 0) })).endStream (c.f 0 2))) s

/-- CODEC_CLOSE_DISCARD (R395). -/
def execCodecCloseDiscard (mb : Nat) (s : State) : Host.Outcome State Fault Refusal :=
  serveD mb 0xC2 (fun c => c.f 2 1 == 1) (fun _ c => closeChks c) (fun c =>
    Dev.closing mb c (fun d => d.closeDiscard (c.f 0 2))) s

end Sys2Proof.Machine
end

