-- ==== Sys2Proof/Machine/Fabric.lean ====
section
/-! DEFINITION. The transport as its own events (R346 to R364, R374, R375, R446): packets that arrive, bytes that become
visible, acknowledgements, timers, paths, links, PFC, neighbours. -/

namespace Sys2Proof.Machine

/-- Line poison of a payload placed at an address (R354). -/
def payloadPoison (a n : Nat) (bits : BitVec 128) (line : Nat) : Bool :=
  (List.range 128).any (fun i => bits.getLsbD i && 64 * i < n && a + 64 * i < 64 * line + 64 && 64 * line < a + Nat.min n (64 * i + 64))

/-- Whether a packet number precedes another, modulo 2³² (R356). -/
def psnBefore (a b : BitVec 32) : Bool := a != b && (b - a).toNat < 2 ^ 31

/-- Signed PFC and buffer thresholds (R360). -/
def rxPause : Nat := 3670016
def rxResume : Nat := 2097152

namespace Dev

/-- PFC pause or resume for the data priority as the receive buffer fills and empties (R360), on every link that is up. -/
def pfcUpdate (d : Dev) : Dev :=
  let send (b : Bool) : Dev :=
    let d := { d with net := { d.net with pfcSent := b } }
    (List.range 4).foldl (fun d l => if (d.net.links.getD l {}).up then (d.cnt 0x37 (l / 2) 1).cnt 0x30 (l / 2) 1 else d) d
  if !d.net.pfcSent && rxPause < d.net.rxBytes then send true
  else if d.net.pfcSent && d.net.rxBytes < rxResume then send false
  else d

/-- Whether a packet of an admitted source is taken, over the IP version in force (R349, R350, R353). Log 112 (DEDUCED). -/
def admitted (a : Arrival) (d : Dev) : Bool :=
  if a.v6 != d.net.fab.v6 then false
  else if !d.net.closed then a.pkt.otype == 1
  else match d.peerEntry a.pkt.srcId.toNat with
    | none => false
    | some p =>
      let same (x : BitVec 128) : Bool := if p.v6 then x == a.addr else x.toNat % 2 ^ 32 == a.addr.toNat % 2 ^ 32
      p.v6 == a.v6 && (same p.addrA || (p.bValid && same p.addrB))

/-- A MAC address of the part (R325, R343). -/
def ownMac (o : Otp) (m : BitVec 48) : Bool := m == o.mac0 || m == o.mac1

/-- Codewords of a frame that a port corrected or could not (R342, R375). -/
def codewords (a : Arrival) (d : Dev) : Dev :=
  let d := if a.fecCorr == 0 then d else d.cnt 0x32 (a.link / 2) a.fecCorr
  if a.fecUncorr == 0 then d else d.cnt 0x33 (a.link / 2) a.fecUncorr

/-- Whether a frame is damaged: its check sequence is bad, or a codeword of it is uncorrectable. -/
def damaged (a : Arrival) : Bool := a.badFcs || a.fecUncorr != 0

/-- A packet as a port hands it over: none when it is dropped (R343, R346, R349 to R351, R353 to R355, R375).
Log 111 (DEDUCED). -/
def taken (o : Otp) (a : Arrival) (d : Dev) : Bool × Dev :=
  let p := a.pkt
  let q := a.link / 2
  if !(d.net.links.getD a.link {}).up then (false, d)
  else if damaged a then (false, (d.codewords a).cnt 0x34 q 1)
  else
    let d := (d.codewords a).cnt 0x31 q 1
    if d.net.fab.macsecReq && !a.macsec.any (fun an => d.net.fab.keys.any (fun k => k.1 == an)) then (false, d.cnt 0x35 q 1)
    else if !ownMac o a.dst || a.port != d.net.fab.port then (false, d)
    else if p.payload.length != p.olen.toNat || p.crc != crc32c (p.header ++ p.payload) then (false, d.cnt 0x40 0 1)
    else if p.ver != 1 then (false, d)
    else if p.dstId != d.net.fab.id && p.dstId != 0xFFFF then (false, d.cnt 0x40 10 1)
    else if !d.admitted a then (false, d.cnt 0x40 1 1)
    else
      let s := d.space p.srcId.toNat
      let s := if (d.peerEntry p.srcId.toNat).isSome then s else { s with link := a.link, v6 := a.v6, addr := a.addr, mac := a.mac }
      (true, d.setSpace { s with ce := s.ce || a.ce })

/-- One more packet to acknowledge: at once after 8 (R356). -/
def noteAck (peer : Nat) (d : Dev) : Dev :=
  let s := d.space peer
  let d := d.setSpace { s with toAck := s.toAck + 1, firstNs := if s.toAck == 0 then d.now else s.firstNs }
  if 8 ≤ s.toAck + 1 then d.sendAck peer else d

/-- The received numbers folded into the cumulative one. Log 123 (DEDUCED). -/
def foldGot : Nat → Space → Space
  | 0, s => s
  | n + 1, s =>
    if s.rxGot.contains s.rxNext then foldGot n { s with rxNext := s.rxNext + 1, rxGot := s.rxGot.erase s.rxNext } else s

/-- A packet received and visible (R356, R358). -/
def gotPsn (peer : Nat) (psn : BitVec 32) (d : Dev) : Dev :=
  let s := d.space peer
  let s := { s with rxGot := s.rxGot ++ [psn] }
  d.setSpace (foldGot s.rxGot.length s)

/-- Whether every packet below a number has arrived, and none of the same window waits to be visible (R364).
Log 120 (DEDUCED). -/
def sigReady (s : Space) (psn : BitVec 32) (w : Nat) : Bool :=
  !s.placing.any (fun p => p.win == some w && (p.old || psnBefore p.psn psn)) && arrivedBelow s psn

/-- A window's signal (R338, R364). -/
def windowSignal (w : Nat) (d : Dev) : Dev :=
  match aget d.net.windows w with
  | none => d
  | some x =>
    match x.so with
    | none => d
    | some o =>
      if x.detached || !holds (d.ctx x.ctx) then d.cnt 0x40 5 1 else d.post x.ctx o 1

/-- The signals of a peer whose time has come. Log 120 (DEDUCED). -/
def fireSigs (peer : Nat) (d : Dev) : Dev :=
  (d.space peer).sigs.foldl (fun d x =>
    let s := d.space peer
    if sigReady s x.1 x.2 then (d.setSpace { s with sigs := s.sigs.erase x }).windowSignal x.2 else d) d

/-- Every mailbox looks at its head again (R318, R358). -/
def settleAll (d : Dev) : Dev := (List.range 65).foldl (fun d m => d.settle m) d

/-- Whether a space has received a packet's number (R356). Log 113 (DEDUCED). -/
def hadPsn (p : Packet) (s : Space) : Bool :=
  psnBefore p.psn s.rxNext || s.rxGot.contains p.psn || s.placing.any (fun x => !x.old && x.psn == p.psn)

/-- Whether a packet with `SYNC` is sent again in the space that it began (R356, R357, R361): a `RETX` copy of a number received,
which its sender may still hold unacknowledged, within the 45 ms that its 16 transmissions take. Log 113 (DEDUCED). -/
def syncAgain (p : Packet) (s : Space) (now : Nat) : Bool :=
  p.oflags.getLsbD 2 && hadPsn p s && (s.rxNext - p.psn).toNat ≤ 256 && now ≤ s.syncNs + 45000000

/-- The machine with the space a sequenced packet belongs to: `SYNC` restarts it, except where it is sent again in the space it
began (R361). Log 113 (DEDUCED). -/
def synced (p : Packet) (d : Dev) : Dev :=
  let peer := p.srcId.toNat
  if p.oflags.getLsbD 0 && !syncAgain p (d.space peer) d.now then
    let d := d.endSpace peer
    d.setSpace { d.space peer with rxNext := p.psn, syncNs := d.now }
  else d

/-- Numbers below a packet's that have not arrived: as its sender holds them unacknowledged with the packet, 255 at most
(R357). -/
def missingBelow (p : Packet) (s : Space) : Nat :=
  (p.psn - s.rxNext).toNat - (s.rxGot.filter (fun x => psnBefore x p.psn)).length

/-- A sequenced packet: a duplicate is acknowledged again and discarded; a number that its sender could not have reached is of
an old space (R356, R357, R361). Log 113 (DEDUCED). -/
def sequenced (a : Arrival) (body : Dev → Dev) (d : Dev) : Dev :=
  let p := a.pkt
  let peer := p.srcId.toNat
  let d := d.synced p
  if hadPsn p (d.space peer) then d.noteAck peer
  else if 256 ≤ missingBelow p (d.space peer) then d
  else body d

/-- A packet whose bytes are all there at once. -/
def atOnce (a : Arrival) (d : Dev) : Dev :=
  ((d.gotPsn a.pkt.srcId.toNat a.pkt.psn).noteAck a.pkt.srcId.toNat).fireSigs a.pkt.srcId.toNat

/-- A packet refused (R356): its number is acknowledged by the `NAK`. -/
def refuse (a : Arrival) (reason : Nat) (d : Dev) : Dev :=
  ((d.gotPsn a.pkt.srcId.toNat a.pkt.psn).sendNak a.pkt.srcId.toNat a.pkt.psn reason).fireSigs a.pkt.srcId.toNat

/-- Bytes placed and not yet visible. -/
def place (a : Arrival) (x : Placing) (addr : Nat) (d : Dev) : Dev :=
  let p := a.pkt
  let n := p.payload.length
  let d := d.ioStore addr p.payload (payloadPoison addr n p.poison)
  let s := d.space p.srcId.toNat
  let d := d.setSpace { s with placing := s.placing ++ [{ x with psn := p.psn, len := n, link := a.link }] }
  ({ d with net := { d.net with rxBytes := d.net.rxBytes + n } }).pfcUpdate

/-- Why a window does not take an access of `n` bytes (R356, R362). Log 114 (DEDUCED). -/
def windowRefusal (a : Arrival) (write : Bool) (n : Nat) (d : Dev) : Option Nat :=
  let p := a.pkt
  if !d.power.on.getLsbD 52 then some 1
  else match d.window p.obj.toNat with
    | none => some 1
    | some w =>
      if w.peer != 0xFFFF && w.peer != p.srcId.toNat then some 4
      else if !(if write then w.write else w.read) then some 3
      else if w.size < p.ooff.toNat + n then some 2
      else none

/-- A mailbox message as a packet carries it (R315 to R317). -/
def mailboxIn (a : Arrival) (d : Dev) : Dev :=
  let h := a.pkt.payload.take 64
  let body := a.pkt.payload.drop 64
  let mb := fld h 3 1
  if !(d.st == .link || d.st == .reduced || d.st == .full) then d
  else if a.pkt.payload.length < 64 || fld h 0 2 != 1 || fld h 2 1 != 0 || 64 < mb || 4096 < fld h 8 2 || fld h 8 2 != body.length then
    d.cnt 0x40 8 1
  else
    let c : MbCmd :=
      { peer := a.pkt.srcId.toNat, link := a.link, v6 := a.v6, addr := a.addr, mac := a.mac, order := d.accepted + 1
        msg := fld h 4 2, seq := fld h 6 2, tag := fld h 16 8, hdr := h, payload := body, psn := some a.pkt.psn }
    if 16 ≤ (d.mbox mb).queue.length then d.sendResponse mb c 1 0 false []
    else ({ d with accepted := d.accepted + 1 }).setMbox mb (fun m => { m with queue := m.queue ++ [c] })

/-- The position of a drain packet in the trace stream (R446). -/
def drainPos (t : Trace) (src : Nat) : Nat :=
  let n := t.cfg.size - 64
  t.rpos + ((src - (t.cfg.ring.getD 0 + 64)) + n - t.rpos % n) % n

/-- `RPOS` after acknowledgements: the first drain packet still unacknowledged (R446). -/
def drainAcked (peer : Nat) (d : Dev) : Dev :=
  let t := d.trace
  if t.dstate != 0 || t.cfg.peer != peer then d
  else
    let left := (d.space peer).unacked.filterMap (fun x => if x.owner == 0x1000 then x.src.map (drainPos t) else none)
    let waiting := (d.space peer).waiting.filterMap (fun x => if x.owner == 0x1000 then x.src.map (drainPos t) else none)
    let r := (left ++ waiting).foldl Nat.min t.sentPos
    if r == t.rpos then d
    else
      (d.setTrace { t with rpos := r }).traceHead

/-- A `NAK` that concerns the drain stops it (R446); what is not acknowledged is sent again when it resumes. -/
def drainNaked (peer reason : Nat) (d : Dev) : Dev :=
  let s := d.space peer
  let own (x : TxPkt) : TxPkt := if x.owner == 0x1000 then { x with owner := 0 } else x
  let d := d.setSpace { s with unacked := s.unacked.map own, waiting := s.waiting.filter (fun x => x.owner != 0x1000) }
  (d.setTrace { d.trace with dstate := 2, dreason := reason, sentPos := d.trace.rpos }).traceHead

/-- The path a packet of an admitted peer came by (R359). -/
def pathOf (a : Arrival) (d : Dev) : Nat :=
  2 * a.link + (match d.peerEntry a.pkt.srcId.toNat with
    | some p => b2n (p.bValid && p.addrA != a.addr && p.addrB == a.addr)
    | none => 0)

/-- Rate of the live links in Mb/s (R342, R360). -/
def liveRate (d : Dev) : Nat :=
  800000 * ((List.range 4).filter (fun l => (d.net.links.getD l {}).up)).length
    - 400000 * ((List.range 4).filter (fun l => (d.net.links.getD l {}).up && d.net.fab.linkMode.getLsbD (l / 2))).length

/-- The packets an acknowledgement retires: those below the cumulative number and those in its ranges (R356). -/
def acked (p : Packet) (x : BitVec 32) : Bool :=
  psnBefore x p.apsn || (p.otype == 5 && (List.range (p.payload.length / 8)).any (fun i =>
    let lo := BitVec.ofNat 32 (leNat ((p.payload.drop (8 * i)).take 4).reverse)
    let hi := BitVec.ofNat 32 (leNat ((p.payload.drop (8 * i + 4)).take 4).reverse)
    !psnBefore x lo && !psnBefore hi x))

/-- An `ACK` or `NAK` of an admitted peer (R356, R359, R360). -/
def ackIn (a : Arrival) (d : Dev) : Dev :=
  let p := a.pkt
  let peer := p.srcId.toNat
  let s := d.space peer
  let naked := p.otype == 6
  let hit := if naked then s.unacked.find? (fun t => t.pkt.psn == p.psn) else none
  let s := { s with unacked := s.unacked.filter (fun t => !acked p t.pkt.psn && !(naked && t.pkt.psn == p.psn)),
                    lastAckNs := aset s.lastAckNs (d.pathOf a) d.now }
  let ece := !naked && p.oflags.getLsbD 1
  let cut := ece && s.cutNs.all (fun t => t + 20000 ≤ d.now)
  let s := if !ece then s
    else { s with
      stepNs := d.now
      rate := if cut then some (Nat.max 8000 (s.rate.getD d.liveRate * 7 / 8)) else s.rate
      cutNs := if cut then some d.now else s.cutNs }
  let d := if ece then d.cnt 0x40 3 1 else d
  let d := d.setSpace s
  let d := match hit with
    | some t => if t.owner == 0x1000 then d.drainNaked peer (p.ocnt.toNat % 256) else d
    | none => d
  (d.drainAcked peer).pumpAll peer

/-- A response to a read of the part is placed where the read asked for it; any other is acknowledged and discarded
(R363). Log 119 (DESIGN CHOICE). -/
def readResp (a : Arrival) (d : Dev) : Dev :=
  let p := a.pkt
  match d.net.reads.find? (fun r => r.peer == p.srcId.toNat && r.psn == p.apsn.toNat) with
  | none => d.atOnce a
  | some r =>
    if r.len < p.ooff.toNat + p.payload.length then d.atOnce a
    else
      let d := if p.oflags.getLsbD 4 then { d with net := { d.net with reads := d.net.reads.erase r } } else d
      d.place a {} (r.base + p.ooff.toNat)

/-- The `READ_RESP` packets that answer a read (R363): the largest payloads, `LAST` on the final one, each read when it is
sent. -/
def answerRead (a : Arrival) (base : Nat) (d : Dev) : Dev :=
  let p := a.pkt
  let n := p.ocnt.toNat
  let m := maxPayload d.net.fab
  (List.range (Nat.max 1 (cdiv n m))).foldl (fun d i =>
    let len := Nat.min m (n - m * i)
    let addr := base + p.ooff.toNat + m * i
    d.sendData p.srcId.toNat { Packet.mk0 4 [] with
      apsn := p.psn, obj := p.obj, ooff := p.ooff + BitVec.ofNat 64 (m * i)
      oflags := if n ≤ m * (i + 1) then 0x10 else 0 } 0 addr len) d

/-- A peer declared lost (R361, R372): its unacknowledged packets discarded, the next packet a `SYNC`. Drain packets among
them are sent anew from `RPOS`. Log 118 (DEDUCED). -/
def losePeer (peer : Nat) (d : Dev) : Dev :=
  let s := d.space peer
  let drained := s.unacked.any (fun t => t.owner == 0x1000)
  let groups := (s.unacked.filter (fun t => 1 ≤ t.owner && t.owner < 0x1000)).map (fun t => t.owner - 1)
  let n := s.unacked.length
  let d := d.setSpace { s with
    unacked := [], sync := true, waiting := if drained then s.waiting.filter (fun t => t.owner != 0x1000) else s.waiting }
  let d := if drained then { d with trace := { d.trace with sentPos := d.trace.rpos } } else d
  let d := { d with net := { d.net with groups := d.net.groups.map (fun (g : Nat × Group) =>
    if groups.contains g.1 then (g.1, { g.2 with run := g.2.run.map (fun (r : CollRun) => { r with lost := true }) }) else g) } }
  (d.raise [] { code := 0x8012, unit := peer, arg0 := n }).pumpAll peer

/-- The modified EUI-64 identifier of a MAC address, its first octet the least significant. Log 121 (PRESUMED). -/
def eui64 (mac : BitVec 48) : List Byte :=
  let b := leBytes 6 mac.toNat
  [b.getD 0 0 ^^^ 2, b.getD 1 0, b.getD 2 0, 0xFF, 0xFE, b.getD 3 0, b.getD 4 0, b.getD 5 0]

/-- An IPv6 address of 16 octets, the first the least significant (R12). Log 121 (PRESUMED). -/
def v6Addr (net : List Byte) (mac : BitVec 48) : BitVec 128 := BitVec.ofNat 128 (leNat (net ++ eui64 mac))

/-- The part's own addresses on a port (R345, R347). Log 121 (PRESUMED). -/
def ownAddrs (o : Otp) (port : Nat) (v6 : Bool) (d : Dev) : List (BitVec 128) :=
  let mac := if port == 0 then o.mac0 else o.mac1
  if v6 then
    ([d.net.fab.ipv6.getD port 0].filter (fun a => a != 0)) ++ [v6Addr [0xFE, 0x80, 0, 0, 0, 0, 0, 0] mac]
      ++ (d.net.ports.getD port {}).slaac
  else ([(d.net.fab.ipv4.getD port 0).zeroExtend 128].filter (fun a => a != 0))

/-- Whether a port has a link up. Log 126 (DEDUCED). -/
def portUp (p : Nat) (d : Dev) : Bool := (d.portLinks p).any (fun l => (d.net.links.getD l {}).up)

/-- The effect of a packet of these types: the drops of every packet, then its own. -/
def onPacket (types : List Nat) (o : Otp) (a : Arrival) (body : Dev → Dev) (d : Dev) : Dev :=
  if !types.contains a.pkt.otype.toNat then d
  else match d.taken o a with
    | (false, d) => d
    | (true, d) => (body d).settleAll

/-- A frame of neighbour discovery as a port takes it: sound under MACsec, and addressed to the part or to a group (R343,
R348, R351). Log 111 (DEDUCED). -/
def onNeighbour (o : Otp) (fr : NdFrame) (body : Dev → Dev) (d : Dev) : Dev :=
  let port := fr.port
  if 2 ≤ port || !d.portUp port then d
  else
    let d := d.cnt 0x31 port 1
    if d.net.fab.macsecReq && !fr.secured then d.cnt 0x35 port 1
    else if !ownMac o fr.dst && !fr.dst.getLsbD 0 then d
    else body d

end Dev

/-- A packet row. -/
def packetRow (types : List Nat) (a : Arrival) (body : Dev → Dev) (s : State) : Host.Outcome State Fault Refusal :=
  onDev (Dev.onPacket types s.otp a body) s

/-- OFT_MBOX (R315 to R318, R349, R354, R358). -/
def execOftMbox (a : Arrival) (s : State) : Host.Outcome State Fault Refusal :=
  packetRow [1] a (fun d => d.sequenced a (fun d => (d.mailboxIn a).atOnce a)) s

/-- OFT_WRITE (R358, R362, R363). -/
def execOftWrite (a : Arrival) (s : State) : Host.Outcome State Fault Refusal :=
  packetRow [2] a (fun d => d.sequenced a (fun d =>
    match d.windowRefusal a true a.pkt.payload.length, d.window a.pkt.obj.toNat with
    | none, some w => d.place a { win := some a.pkt.obj.toNat, sig := a.pkt.oflags.getLsbD 3 } (w.base + a.pkt.ooff.toNat)
    | r, _ => d.refuse a (r.getD 1))) s

/-- OFT_READ_REQ (R362, R363): at most 1 MiB. -/
def execOftReadReq (a : Arrival) (s : State) : Host.Outcome State Fault Refusal :=
  packetRow [3] a (fun d => d.sequenced a (fun d =>
    let n := a.pkt.ocnt.toNat
    match d.windowRefusal a false n, d.window a.pkt.obj.toNat with
    | none, some w => if 2 ^ 20 < n then d.refuse a 2 else (d.atOnce a).answerRead a w.base
    | r, _ => d.refuse a (r.getD 1))) s

/-- OFT_READ_RESP (R363). Log 119 (DESIGN CHOICE). -/
def execOftReadResp (a : Arrival) (s : State) : Host.Outcome State Fault Refusal :=
  packetRow [4] a (fun d => d.sequenced a (fun d => d.readResp a)) s

/-- A probe or its reply put on a path, unless PFC pauses its port (R359, R360). Log 115 (DESIGN CHOICE). -/
def Dev.probe (peer path : Nat) (kind : BitVec 32) (d : Dev) : Dev :=
  let p := { Packet.mk0 9 [] with ocnt := kind }
  if d.pausedOn path p then d else d.emit peer path p

/-- OFT_PROBE (R359): the path lives; a probe is answered over it. `OCNT` 0 is a probe and 1 its reply (DESIGN CHOICE).
Log 115 (DESIGN CHOICE). -/
def execOftProbe (a : Arrival) (s : State) : Host.Outcome State Fault Refusal :=
  packetRow [9] a (fun d =>
    let peer := a.pkt.srcId.toNat
    let path := d.pathOf a
    let x := d.space peer
    let d := d.setSpace { x with dead := x.dead.erase path, lastAckNs := aset x.lastAckNs path d.now }
    let d := if a.pkt.ocnt == 0 then d.probe peer path 1 else d
    d.pumpAll peer) s

/-- ACK_DELAY_TIMER (R356): 4 µs after the first packet not acknowledged. -/
def execAckDelayTimer (peer : Nat) (s : State) : Host.Outcome State Fault Refusal :=
  onDev (fun d => if (d.space peer).toAck == 0 then d else (d.upTo ((d.space peer).firstNs + 4000)).sendAck peer) s

/-- RETRANSMIT_TIMEOUT (R357, R361). Log 3 (DESIGN CHOICE). -/
def execRetransmitTimeout (peer psn : Nat) (s : State) : Host.Outcome State Fault Refusal :=
  onDev (fun d =>
    match (d.space peer).unacked.find? (fun t => t.pkt.psn == BitVec.ofNat 32 psn) with
    | none => d
    | some t =>
      let d := d.upTo (t.sentNs + t.timeout)
      if 16 ≤ t.tries then d.losePeer peer else d.resend peer t.pkt.psn true) s

/-- PATH_ACK_TIMEOUT (R359): 250 µs without an acknowledgement over a path that carries unacknowledged packets. -/
def execPathAckTimeout (peer path : Nat) (s : State) : Host.Outcome State Fault Refusal :=
  onDev (fun d =>
    let x := d.space peer
    match x.unacked.filter (fun t => t.path == path) with
    | [] => d
    | t :: ts =>
      if x.dead.contains path then d
      else
        let first := ts.foldl (fun m t => Nat.min m t.sentNs) t.sentNs
        (d.upTo (Nat.max first ((aget x.lastAckNs path).getD 0) + 250000)).killPath peer path) s

/-- PROBE_TIMER (R359): every dead path whose link is up is probed. Log 115 (DESIGN CHOICE). -/
def execProbeTimer (s : State) : Host.Outcome State Fault Refusal :=
  onDev (fun d => d.net.spaces.foldl (fun d x => x.dead.foldl (fun d path =>
    if (d.net.links.getD (path / 2) {}).up && d.portOpen path then d.probe x.peer path 0 else d) d) d) s

/-- ECN_RATE_INCREASE (R360): 20 µs without `ECE` add 4 Gb/s, up to the rate of the live links. -/
def execEcnRateIncrease (peer : Nat) (s : State) : Host.Outcome State Fault Refusal :=
  onDev (fun d =>
    let x := d.space peer
    match x.rate with
    | none => d
    | some r =>
      let d := d.upTo (x.stepNs + 20000)
      d.setSpace { x with stepNs := d.now, rate := some (Nat.min (r + 4000) d.liveRate) }) s

/-- PFC_FRAME (R351, R360): an honoured priority of the port pauses or resumes. -/
def execPfcFrame (port prio : Nat) (pause secured : Bool) (s : State) : Host.Outcome State Fault Refusal :=
  onDev (fun d =>
    if 2 ≤ port || !d.portUp port then d
    else
      let d := (d.cnt 0x31 port 1).cnt 0x36 port 1
      if d.net.fab.macsecReq && !secured then d.cnt 0x35 port 1
      else if !d.net.fab.pfcMask.getLsbD prio then d
      else
        let bit : BitVec 8 := 1#8 <<< prio
        let d := d.setPort port (fun q => { q with paused := if pause then q.paused ||| bit else q.paused &&& ~~~bit })
        if pause then d else d.net.spaces.foldl (fun d x => d.pumpAll x.peer) d) s

/-- NEIGHBOUR_REQUEST (R348). -/
def execNeighbourRequest (fr : NdFrame) (v6 : Bool) (target : BitVec 128) (asker : BitVec 48) (s : State) :
    Host.Outcome State Fault Refusal :=
  onDev (Dev.onNeighbour s.otp fr (fun d =>
    if !(d.ownAddrs s.otp fr.port v6).contains target then d
    else
      let d := d.cnt 0x30 fr.port 1
      { d with net := { d.net with replies := (fr.port, target, asker) :: d.net.replies } })) s

/-- SLAAC_ROUTER_ADVERTISEMENT (R347, R348): the address a prefix forms is solicited once; it is the port's own unless
another station has it. -/
def execSlaacRouterAdvertisement (fr : NdFrame) (pfx : BitVec 64) (dup : Bool) (s : State) :
    Host.Outcome State Fault Refusal :=
  onDev (Dev.onNeighbour s.otp fr (fun d =>
    let port := fr.port
    let a := Dev.v6Addr (leBytes 8 pfx.toNat) (if port == 0 then s.otp.mac0 else s.otp.mac1)
    if !d.net.fab.slaac || (d.net.ports.getD port {}).slaac.contains a then d
    else
      let d := (d.cnt 0x30 port 1).setPort port (fun q => { q with dad := a :: q.dad })
      if dup then d else d.setPort port (fun q => { q with slaac := q.slaac ++ [a] }))) s

end Sys2Proof.Machine
end

