-- ==== Sys2Proof/Machine/Walk.lean ====
section
/-! DEFINITION. The tile walk (R76, R77, R472): the shape rules of every class (R58, R59 to R65, R171, R223, R229, R242 to
R256, R194, R210, R213 to R218, R191, R267), tile coordinates, footprints (R85) and tile times (R79, R177, R196, R219, R234,
R248 to R254, R472). -/

namespace Sys2Proof.Machine

/-- A walk: extents of the output, tile sizes, splits (R76, R77). -/
structure Plan where
  ext : List Nat
  t : List Nat
  s : Nat := 1
  deriving DecidableEq, Repr

/-- Tiles per dimension, and in all. -/
def Plan.n (p : Plan) : List Nat := (List.range 6).map (fun i => cdiv (nth p.ext i) (nth p.t i))
def prodOf (l : List Nat) : Nat := l.foldl (fun a b => a * b) 1

/-- Tile indices of walk index q (R77). -/
def walkCoords (n : List Nat) (order serp : Bool) (q : Nat) : List Nat :=
  let fast := b2n order
  let slow := 1 - fast
  let f := q % nth n fast
  let q := q / nth n fast
  let sl := q % nth n slow
  let q := q / nth n slow
  let f := if serp && sl % 2 == 1 then nth n fast - 1 - f else f
  let hi := (List.range' 2 4).foldl (fun (st : List Nat × Nat) d => (st.1 ++ [st.2 % nth n d], st.2 / nth n d)) ([], q)
  [if order then sl else f, if order then f else sl] ++ hi.1

namespace InFlight

/-- Fields of the macro-instruction. -/
def f (m : InFlight) (off len : Nat) : Nat := fld m.raw off len
def ten? (m : InFlight) (off : Nat) : Option Tensor := (descIdx m.raw off).bind (fun i => m.tens.find? (fun t => t.idx == i))
def ten (m : InFlight) (off : Nat) : Tensor := (m.ten? off).getD {}
def at' (m : InFlight) (q : Nat) : List Nat := walkCoords m.n (bit (miHints m.raw) 0) (bit (miHints m.raw) 1) q

/-- The box of a tile in its walk dimensions. -/
def box (m : InFlight) (q : Nat) : List (Nat × Nat) :=
  (List.range 6).map (fun k => (nth (m.at' q) k * nth m.t k, nth (m.at' q) k * nth m.t k + nth m.t k))

end InFlight

/-- Whether a source broadcasts against an output (R62). -/
def bcastOk (x d : Tensor) : Bool := (List.range 6).all (fun i => x.e i == d.e i || x.e i == 1)

/-- A destination that a class other than `MOVE` may write (R267). -/
def destOk (d : Tensor) : Bool := d.comp == 0 || ((d.comp == 1 || d.comp == 2) && d.e 0 % 32 == 0)

def DType.mxPlain (t : DType) : Bool := t.isMx && t != .ov4o

/-- Operand formats of the array (R171, R172). -/
def arrayOk (a b : DType) : Bool := (a.mxPlain && b.isMx) || (a.isHalf && b.isHalf)

/-- Output formats of the array. -/
def outOk (d : DType) : Bool := d.isFp || d.mxPlain

/-- The statistics form of R213 for a source. -/
def statsOk (st x : Tensor) (g : Nat) : Bool :=
  st.dtype == .uint32 && st.comp == 0 && st.imm.getD 0 false && st.e 0 == 4 && x.rank ≤ 5 && g % 32 == 0
    && st.e 1 == (if g == 0 then 1 else cdiv (x.e 0) g) && (List.range' 1 4).all (fun k => st.e (k + 1) == x.e k)

/-- Elements of dim 0 in a `MOVE` or `PREF` tile (R472). -/
def moveTile (t : Tensor) : Nat := if t.scaled then 32768 / (32 * t.eb) * 32 else 4096 / (t.dtype.bits / 8)

/-- Axis i of R61 (0 time, 1 height, 2 width) acts on dimension 3 − i; its parameters (R242 to R244). -/
def axK (m : InFlight) (i : Nat) : Nat := m.f (16 + i) 1
def axS (m : InFlight) (i : Nat) : Nat := m.f (19 + i) 1
def axD (m : InFlight) (i : Nat) : Nat := m.f (22 + i) 1
def axLo (m : InFlight) (i : Nat) : Nat := m.f (26 + i) 1
def axHi (m : InFlight) (i : Nat) : Nat := m.f (29 + i) 1
def axMode (m : InFlight) (i : Nat) : Nat := if i == 0 then bits (m.f 25 1) 3 2 else bits (m.f 25 1) 1 0

/-- The output extent along an axis (R243). -/
def axisOk (m : InFlight) (x d : Tensor) (i : Nat) : Bool :=
  let need := axD m i * (axK m i - 1) + 1
  let have' := x.e (3 - i) + axLo m i + axHi m i
  need ≤ have' && 1 ≤ d.e (3 - i) && d.e (3 - i) ≤ (have' - need) / axS m i + 1

/-- The coordinate a tap reads (R244): none is padding. An extent of 0 has no coordinate to read.
Log 80 (DESIGN CHOICE). -/
def mapCoord (mode n : Nat) (i : Int) : Option Nat :=
  if n == 0 then none
  else match mode with
    | 0 => if 0 ≤ i && i < (n : Int) then some i.toNat else none
    | 1 =>
      if n == 1 then some 0
      else
        let p : Int := ((2 * (n - 1) : Nat) : Int)
        let j := i % p
        some (if (n : Int) ≤ j then (p - j).toNat else j.toNat)
    | 2 => some (max 0 (min i ((n : Int) - 1))).toNat
    | _ => some (i % (n : Int)).toNat

/-- The coordinate of output position o at tap j of axis i. -/
def tapCoord (m : InFlight) (x : Tensor) (i o j : Nat) : Option Nat :=
  mapCoord (axMode m i) (x.e (3 - i)) (((o * axS m i + j * axD m i : Nat) : Int) - (axLo m i : Int))

def spatialOk (m : InFlight) (x d : Tensor) : Bool :=
  x.rank == d.rank && 2 ≤ x.rank && x.rank ≤ 5 && x.e 4 == d.e 4 && [0, 1, 2].all (axisOk m x d)

def planIf (ok : Bool) (p : Plan) : Option Plan := if ok then some p else none

/-- `MATMUL` (R59, R171, R172, R223). Log 77 (DEDUCED). -/
def planMatmul (m : InFlight) : Option Plan :=
  let d := m.ten 8
  let a := m.ten 10
  let b := m.ten 12
  let c := m.ten? 14
  let rs := m.ten? 16
  let epi := m.f 20 1
  let bat (x : Tensor) : Bool := (List.range' 2 4).all (fun i => x.e i == d.e i || x.e i == 1)
  planIf (arrayOk a.dtype b.dtype && outOk d.dtype && destOk d
      && a.e 0 == b.e 0 && a.e 1 == d.e 1 && b.e 1 == d.e 0 && bat a && bat b
      && c.all (fun c => c.dtype.isFp && c.ext == d.ext)
      && rs.all (fun r => r.dtype == .fp32 && r.ext == [d.e 1, 1, 1, 1, 1, 1])
      && (!bit epi 4 || c.isSome) && (!bit epi 5 || rs.isSome)
      && (m.ten? 18).all (fun s => d.rank == 2 && d.e 0 % 128 == 0 && s.dtype == .bf16 && s.rank == 3 && s.comp == 0
        && s.imm.getD 0 false && s.e 0 == 128 && s.e 1 == cdiv (d.e 1) 256 && s.e 2 == d.e 0 / 128))
    ⟨d.ext, [128, if bit (miVar m.raw) 2 then 256 else 128, 1, 1, 1, 1], 2 ^ (miVar m.raw % 4)⟩

/-- Parts of an `ATTEND` (R229, R230). -/
def attParts (m : InFlight) : Nat := if bit (miVar m.raw) 1 && (m.ten 8).rank == 3 then (m.ten 8).e 2 else 1

/-- `ATTEND` (R229, R260). Log 77 (DEDUCED), 82 (DEDUCED). -/
def planAttend (m : InFlight) : Option Plan :=
  let o := m.ten 8
  let q := m.ten 10
  let kp := m.ten 12
  let vp := m.ten 14
  let pl := m.ten 16
  let h := pl.e 2
  let t := q.e 1
  let hk := kp.e 0 / 128
  let v1 := bit (miVar m.raw) 1
  let fmt (x : Tensor) : Bool := x.dtype == .e4m3 || x.dtype == .e5m2 || x.dtype.isHalf
  planIf (fmt q && fmt kp && fmt vp && kp.dtype.isMx == q.dtype.isMx && vp.dtype.isMx == q.dtype.isMx
      && q.rank == 2 && q.e 0 == 128 * h
      && kp.rank == 2 && vp.rank == 2 && kp.e 0 % 128 == 0 && 1 ≤ hk && h % hk == 0 && vp.e 0 == kp.e 0 && vp.e 1 == kp.e 1
      && pl.dtype == .uint32 && pl.rank == 3 && pl.comp == 0 && 1 ≤ pl.e 0 && pl.e 0 ≤ 1024 && cdiv t 256 ≤ pl.e 1
      && o.comp == 0 && o.e 0 == q.e 0 && o.e 1 == t
      && (if v1 then o.dtype == .fp32 && (o.rank == 2 || (o.rank == 3 && 1 ≤ o.e 2 && o.e 2 ≤ 64))
          else o.rank == 2 && (o.dtype.isFp || o.dtype == .e4m3 || o.dtype == .e5m2))
      && (!v1 || (m.ten? 18).isSome)
      && (m.ten? 18).all (fun s => s.dtype == .fp32 && s.comp == 0 && s.imm.getD 0 false && s.e 0 == 2 && s.e 1 == t && s.e 2 == h
        && s.e 3 == attParts m && s.rank == (if v1 && o.rank == 3 then 4 else 3)))
    ⟨[128 * h, t, attParts m, 1, 1, 1], [128, 128, 1, 1, 1, 1], 1⟩

/-- Groups and channels of a group (R245). -/
def cvGroups (m : InFlight) : Nat := m.f 32 2
def cvCg (m : InFlight) : Nat := (m.ten 10).e 0 / cvGroups m

/-- `CONV` (R242 to R247, R250, R251). -/
def planConv (m : InFlight) : Option Plan :=
  let d := m.ten 8
  let x := m.ten 10
  let w := m.ten 12
  let bias := m.ten? 14
  let g := cvGroups m
  let cin := x.e 0
  let cout := d.e 0
  let taps := axK m 0 * axK m 1 * axK m 2
  let epi := m.f 38 1
  let kdims := w.e 2 == axK m 2 && w.e 3 == axK m 1 && w.e 4 == axK m 0 && w.e 5 == 1
  let divs := cin % g == 0 && cout % g == 0
  let wOk := match miVar m.raw with
    | 0 => w.e 0 == cvCg m && w.e 1 == cout && kdims && divs && (!x.dtype.isMx || cvCg m % 32 == 0)
    | 1 => w.e 0 == cout && w.e 1 == cvCg m && kdims && divs && 1 ≤ cvCg m && cvCg m ≤ 16 && w.dtype != .ov4o
    | _ => w.rank == 2 && w.e 0 == taps * cin && w.e 1 == cout && g == 1 && x.dtype.isHalf && w.dtype.isHalf && taps * cin ≤ 4096
  planIf (spatialOk m x d && arrayOk x.dtype w.dtype && outOk d.dtype && destOk d && wOk
      && bias.all (fun b => b.rank == 1 && b.dtype.isFp && b.e 0 == cout)
      && (!bit epi 4 || bias.isSome) && !bit epi 5 && epi % 16 != 5)
    ⟨d.ext, [128, 128, 1, 1, 1, 1], 1⟩

/-- `POOL` (R252, R254, R267). Its X is FP32, BF16 or FP16 in every variant. Log 77 (DEDUCED), 164 (DEDUCED). -/
def planPool (m : InFlight) : Option Plan :=
  let d := m.ten 8
  let x := m.ten 10
  let ix := m.ten? 12
  let one (l : List Nat) : Bool := l.all (fun o => m.f o 1 == 1)
  planIf (x.dtype.isFp && d.dtype.isFp && d.comp == 0
      && (if miVar m.raw == 2 then
          let o (t : Tensor) : Bool := t.e 0 == 1 && (List.range' 1 5).all (fun k => t.e k == x.e k)
          x.rank == d.rank && 2 ≤ x.rank && x.rank ≤ 5 && o d && one [16, 17, 18, 19, 20, 21] && zeros m.raw 25 7
            && ix.all (fun i => (i.dtype == .uint8 || i.dtype == .uint16 || i.dtype == .uint32) && i.comp == 0 && o i
              && x.e 0 < 2 ^ i.dtype.bits - 1)
        else spatialOk m x d && d.e 0 == x.e 0))
    ⟨d.ext, [512, 8, 1, 1, 1, 1], 1⟩

/-- Sources that the operation of a `VOP` uses (R62). -/
def vopSrcs (m : InFlight) : List Tensor :=
  let u := (vopUses (m.f 16 1)).getD (false, false)
  ([10] ++ (if u.1 then [12] else []) ++ (if u.2 then [14] else [])).filterMap m.ten?

/-- `VOP` (R62, R171, R178). -/
def planVop (m : InFlight) : Option Plan :=
  let d := m.ten 8
  let op := m.f 16 1
  let srcs := vopSrcs m
  let row := 0x10 ≤ op
  planIf (srcs.all (fun x => x.dtype.isFp || x.dtype.mxPlain || (op == 0 && x.dtype == .ov4o))
      && (d.dtype.isFp || (op == 0 && d.dtype.mxPlain)) && (if row then d.comp == 0 else destOk d)
      && (if row then d.e 0 == 1 && srcs.all (fun x => (List.range' 1 5).all (fun k => x.e k == d.e k || x.e k == 1))
          else srcs.all (fun x => bcastOk x d)))
    ⟨d.ext, [512, 8, 1, 1, 1, 1], 1⟩

/-- `SFN` (R194). -/
def planSfn (m : InFlight) : Option Plan :=
  let d := m.ten 8
  let s := m.ten 10
  planIf (d.dtype.isFp && s.dtype.isFp && destOk d && bcastOk s d) ⟨d.ext, [512, 8, 1, 1, 1, 1], 1⟩

/-- `NORMST` (R213, R217): walk dimension d is statistics dimension d + 1. -/
def planNormst (m : InFlight) : Option Plan :=
  let st := m.ten 8
  let x := m.ten 10
  planIf (x.dtype.isFp && statsOk st x (m.f 12 4)) ⟨st.ext.drop 1 ++ [1], [1, 8, 1, 1, 1, 1], 1⟩

/-- `NORMAP` (R218). -/
def planNormap (m : InFlight) : Option Plan :=
  let d := m.ten 8
  let x := m.ten 10
  let ch (t : Option Tensor) : Bool := t.all (fun t => t.rank == 1 && t.dtype.isFp && t.e 0 == d.e 0)
  planIf (x.dtype.isFp && outOk d.dtype && destOk d && x.ext == d.ext && statsOk (m.ten 12) x (m.f 24 4)
      && ch (m.ten? 14) && ch (m.ten? 16))
    ⟨d.ext, [512, 8, 1, 1, 1, 1], 1⟩

/-- `ROPE` (R210). -/
def planRope (m : InFlight) : Option Plan :=
  let d := m.ten 8
  let s := m.ten 10
  let pos := m.ten 12
  planIf (d.dtype.isFp && s.dtype.isFp && d.ext == s.ext && destOk d && (pos.dtype == .fp32 || pos.dtype == .uint16)
      && pos.comp == 0 && pos.e 0 == 3 && pos.e 1 == s.e 1 && (List.range' 2 4).all (fun k => pos.e k == s.e k || pos.e k == 1)
      && 2 * (m.f 16 1 + m.f 17 1 + m.f 18 1) ≤ d.e 0)
    ⟨d.ext, [512, 8, 1, 1, 1, 1], 1⟩

/-- Capacity of a slot of a side list (R187). -/
def sideCap (size : Nat) : Nat := Nat.min 1024 ((size - 64) / 4)

/-- `QUANT` (R191). Log 77 (DEDUCED). -/
def planQuant (m : InFlight) : Option Plan :=
  let d := m.ten 8
  let s := m.ten 10
  if bit (miVar m.raw) 0 then
    planIf (s.dtype.isFp && d.dtype == .ov4o && m.f 12 2 == m.f 8 2 + 1 && m.f 14 2 ≤ sideCap d.auxSize && bcastOk s d)
      ⟨d.ext, [128, 128, 1, 1, 1, 1], 1⟩
  else
    planIf (s.dtype.isFp && d.dtype.mxPlain && destOk d && bcastOk s d) ⟨d.ext, [512, 8, 1, 1, 1, 1], 1⟩

/-- `MOVE` copy and multicast (R65, R267): a multicast moves stored bytes, so both sides have one `COMP`.
Log 78 (DEDUCED). -/
def planMove (m : InFlight) : Option Plan :=
  let d := m.ten 8
  let s := m.ten 10
  planIf (d.dtype == s.dtype && d.ext == s.ext
      && (if miVar m.raw == 1 then d.comp == s.comp && d.base < 2 ^ 19
          else destOk d || (d.comp == 3 && d.e 0 == d.a 0)))
    ⟨d.ext, [moveTile d, 1, 1, 1, 1, 1], 1⟩

/-- Coordinates a `PREF` covers along its dimension (R64). -/
def prefSpan (m : InFlight) : Nat × Nat :=
  let e := (m.ten 8).e (m.f 10 1)
  (m.f 12 4, if m.f 16 4 == 0 then e else Nat.min (m.f 16 4) e)

/-- `PREF` (R64). A `DIM` at or above the rank of the tensor is a `SHAPE` fault. Log 71 (DEDUCED), 155 (DESIGN CHOICE). -/
def planPref (m : InFlight) : Option Plan :=
  let s := m.ten 8
  let r := prefSpan m
  planIf (m.f 10 1 < s.rank) ⟨s.ext.set (m.f 10 1) (r.2 - r.1), [moveTile s, 1, 1, 1, 1, 1], 1⟩

/-- The plan of a macro-instruction with tiles; none is a `SHAPE` fault (R58). Log 71 (DEDUCED). -/
def planOf (m : InFlight) : Option Plan :=
  match miOpc m.raw with
  | 0x10 => planMatmul m
  | 0x11 => planAttend m
  | 0x12 => planConv m
  | 0x13 => planPool m
  | 0x20 => planVop m
  | 0x21 => planSfn m
  | 0x22 => planNormst m
  | 0x23 => planNormap m
  | 0x24 => planRope m
  | 0x25 => planQuant m
  | 0x30 => planMove m
  | 0x31 => planPref m
  | _ => none

/-- Descriptor fields of a class. -/
def descFields (raw : List Byte) : List Nat :=
  match miOpc raw with
  | 0x10 => [8, 10, 12, 14, 16, 18]
  | 0x11 => [8, 10, 12, 14, 16, 18]
  | 0x12 | 0x20 => [8, 10, 12, 14]
  | 0x13 | 0x24 | 0x25 => [8, 10, 12]
  | 0x21 | 0x22 => [8, 10]
  | 0x23 => [8, 10, 12, 14, 16]
  | 0x30 => if miVar raw < 2 then [8, 10] else []
  | 0x31 => [8]
  | _ => []

/-- The descriptor fields whose tensors a macro-instruction reads or writes: an operand that may be none and that its `EPI`,
variant or operation does not use is left alone (R59, R61, R62). Log 71 (DEDUCED). -/
def usedFields (raw : List Byte) : List Nat :=
  match miOpc raw with
  | 0x10 => [8, 10, 12] ++ (if bit (fld raw 20 1) 4 then [14] else []) ++ (if bit (fld raw 20 1) 5 then [16] else []) ++ [18]
  | 0x12 => [8, 10, 12] ++ (if bit (fld raw 38 1) 4 then [14] else [])
  | 0x13 => [8, 10] ++ (if miVar raw == 2 then [12] else [])
  | 0x20 =>
    let u := (vopUses (fld raw 16 1)).getD (false, false)
    [8, 10] ++ (if u.1 then [12] else []) ++ (if u.2 then [14] else [])
  | _ => descFields raw

/-- A box against a source: a broadcast dimension holds coordinate 0 only. -/
def bcBox (x d : Tensor) (b : List (Nat × Nat)) : List (Nat × Nat) :=
  (List.range 6).map (fun k => if x.e k == 1 && d.e k != 1 then (0, 1) else b.getD k (0, 1))

/-- A box of R85: coordinates by dimension; whether it is an output; and the whole of dim 0 where the class takes it. -/
structure Foot where
  t : Tensor
  box : List (Nat × Nat)
  out : Bool := false

/-- Whether the in-bound coordinates of a box reach an allocation (R85). -/
def Foot.over (x : Foot) : Bool :=
  let inb (k : Nat) : Nat × Nat := ((x.box.getD k (0, 1)).1, Nat.min (x.box.getD k (0, 1)).2 (x.t.e k))
  (List.range 6).all (fun k => (inb k).1 < (inb k).2) && (List.range 6).any (fun k => x.t.a k < (inb k).2)

/-- Coordinates of an axis that a tile of a window class reads (R243, R244). -/
def axisReads (m : InFlight) (x : Tensor) (i lo hi : Nat) : List Nat :=
  ((List.range' lo (hi - lo)).flatMap (fun o => (List.range (axK m i)).filterMap (tapCoord m x i o))).eraseDups

/-- Boxes of a full tile, source by source, but for what its data decide: the keys and values of an `ATTEND`, the input of a
window class (R85, R177). -/
def feet (m : InFlight) (q : Nat) : List Foot :=
  let b := m.box q
  let g (k : Nat) : Nat × Nat := b.getD k (0, 1)
  let d := m.ten 8
  let all0 (x : Tensor) : Nat × Nat := (0, x.e 0)
  let bc (x : Tensor) : Foot := { t := x, box := bcBox x d b }
  match miOpc m.raw with
  | 0x10 =>
    let bat (x : Tensor) : List (Nat × Nat) := (bcBox x d b).drop 2
    [⟨d, b, true⟩, ⟨m.ten 10, [all0 (m.ten 10), g 1] ++ bat (m.ten 10), false⟩,
     ⟨m.ten 12, [all0 (m.ten 12), g 0] ++ bat (m.ten 12), false⟩]
      ++ (if bit (m.f 20 1) 4 then (m.ten? 14).toList.map bc else [])
      ++ (if bit (m.f 20 1) 5 then (m.ten? 16).toList.map (fun r => ⟨r, [g 1], false⟩) else [])
      ++ (m.ten? 18).toList.map (fun s => ⟨s, [(0, 128), ((g 1).1 / 256, (g 1).1 / 256 + 1), ((g 0).1 / 128, (g 0).1 / 128 + 1)], true⟩)
  | 0x11 =>
    let pl := m.ten 16
    let h := (g 0).1 / 128
    let e := pl.e 0
    let part := (g 2).1
    let gs := attParts m
    [⟨d, b, true⟩, ⟨m.ten 10, [g 0, g 1], false⟩,
     ⟨pl, [(part * e / gs, (part + 1) * e / gs), ((g 1).1 / 256, (g 1).1 / 256 + 1), (h, h + 1)], false⟩]
      ++ (m.ten? 18).toList.map (fun s => ⟨s, [(0, 2), g 1, (h, h + 1), g 2], true⟩)
  | 0x12 =>
    let w := m.ten 12
    let wb := match miVar m.raw with
      | 1 => [g 0, (0, w.e 1), (0, w.e 2), (0, w.e 3), (0, w.e 4)]
      | _ => [(0, w.e 0), g 0, (0, w.e 2), (0, w.e 3), (0, w.e 4)]
    [⟨d, b, true⟩, ⟨w, wb, false⟩]
      ++ (if bit (m.f 38 1) 4 then (m.ten? 14).toList.map (fun r => ⟨r, [g 0], false⟩) else [])
  | 0x13 =>
    if miVar m.raw == 2 then
      [⟨d, b, true⟩, ⟨m.ten 10, all0 (m.ten 10) :: b.drop 1, false⟩] ++ (m.ten? 12).toList.map (fun t => ⟨t, b, true⟩)
    else [⟨d, b, true⟩]
  | 0x20 =>
    if 0x10 ≤ m.f 16 1 then ⟨d, b, true⟩ :: (vopSrcs m).map (fun x => ⟨x, all0 x :: (bcBox x d b).drop 1, false⟩)
    else ⟨d, b, true⟩ :: (vopSrcs m).map bc
  | 0x22 =>
    let x := m.ten 10
    let grp := m.f 12 4
    let x0 := if grp == 0 then all0 x else ((g 0).1 * grp, Nat.min ((g 0).1 * grp + grp) (x.e 0))
    [⟨d, (0, 4) :: b.take 5, true⟩, ⟨x, x0 :: (b.drop 1).take 4, false⟩]
  | 0x23 =>
    let grp := m.f 24 4
    let st := m.ten 12
    let gr := if grp == 0 then (0, 1) else ((g 0).1 / grp, (Nat.min (g 0).2 (d.e 0) - 1) / grp + 1)
    [⟨d, b, true⟩, bc (m.ten 10), ⟨st, (0, 4) :: gr :: (b.drop 1).take 4, false⟩]
      ++ ([14, 16].filterMap m.ten?).map (fun t => ⟨t, [g 0], false⟩)
  | 0x24 => [⟨d, b, true⟩, bc (m.ten 10), ⟨m.ten 12, (0, 3) :: g 1 :: (bcBox (m.ten 12) d b).drop 2, false⟩]
  | 0x31 =>
    let k := m.f 10 1
    let r := prefSpan m
    [⟨d, b.set k ((g k).1 + r.1, Nat.min ((g k).2 + r.1) r.2), false⟩]
  | _ => [⟨d, b, true⟩, bc (m.ten 10)]

/-- The page that each slot of an `ATTEND` tile's run names, as its list stands: sentinels and pages at or beyond the key extent
left out (R230, R231). -/
def attPages (d : Dev) (m : InFlight) (q : Nat) : List Nat :=
  let pl := m.ten 16
  let i := m.at' q
  let s0 := nth i 2 * pl.e 0 / attParts m
  let s1 := (nth i 2 + 1) * pl.e 0 / attParts m
  ((List.range' s0 (s1 - s0)).map (fun s =>
    let a := pl.row [nth i 1 / 2, nth i 0, 0, 0, 0] + 4 * s
    leNat ((((d.lineView a).1).drop (a % 64)).take 4))).filter (fun pg => pg != 0xFFFFFFFF && 256 * pg < (m.ten 12).e 1)

/-- The first channel of the key and value rows that a head reads. -/
def attChan (m : InFlight) (h : Nat) : Nat := h / ((m.ten 16).e 2 / ((m.ten 12).e 0 / 128)) * 128

/-- Key tokens of a page that a tile reads: those that some query row sees (R231). -/
def attKeys (m : InFlight) (q pg : Nat) : Nat × Nat :=
  let nk := (m.ten 12).e 1
  let t := (m.ten 10).e 1
  let q1 := Nat.min (128 * nth (m.at' q) 1 + 128) t
  (256 * pg, Nat.min (Nat.min (256 * pg + 256) nk) (if bit (miVar m.raw) 0 then nk + q1 - t else nk))

/-- Key and value boxes of an `ATTEND` tile, whole pages (R236). -/
def pageFeet (d : Dev) (m : InFlight) (q : Nat) : List Foot :=
  let kv := attChan m (nth (m.at' q) 0)
  (attPages d m q).flatMap (fun pg => [12, 14].map (fun o =>
    (⟨m.ten o, [(kv, kv + 128), (256 * pg, Nat.min (256 * pg + 256) ((m.ten 12).e 1))], false⟩ : Foot)))

/-- Key and value boxes that an `ATTEND` tile reads. -/
def attFeet (d : Dev) (m : InFlight) (q : Nat) : List Foot :=
  let kv := attChan m (nth (m.at' q) 0)
  (attPages d m q).flatMap (fun pg => [12, 14].map (fun o => (⟨m.ten o, [(kv, kv + 128), attKeys m q pg], false⟩ : Foot)))

/-- Taps in ascending order of time, height, width (R246). -/
def taps (m : InFlight) : List (Nat × Nat × Nat) :=
  (List.range (axK m 0)).flatMap (fun a => (List.range (axK m 1)).flatMap (fun b => (List.range (axK m 2)).map (fun c => (a, b, c))))

/-- The in-bound output coordinates of a tile along an axis (R61). -/
def axisOut (m : InFlight) (q i : Nat) : List Nat :=
  let b := (m.box q).getD (3 - i) (0, 1)
  List.range' b.1 (Nat.min b.2 ((m.ten 8).e (3 - i)) - b.1)

/-- Taps that read an element for some output position of a tile; the others lie wholly in padding and read nothing
(R249). -/
def liveTaps (m : InFlight) (q : Nat) : List (Nat × Nat × Nat) :=
  let live (i j : Nat) : Bool := (axisOut m q i).any (fun o => (tapCoord m (m.ten 10) i o j).isSome)
  (taps m).filter (fun tp => live 0 tp.1 && live 1 tp.2.1 && live 2 tp.2.2)

/-- Whether a class reads its input through windows (R243, R252). -/
def windowed (m : InFlight) : Bool := miOpc m.raw == 0x12 || (miOpc m.raw == 0x13 && miVar m.raw != 2)

/-- Channels of the input that a window class reads for a tile: first, and beyond the last (R245, R250 to R252). -/
def windowCh (m : InFlight) (q : Nat) : Nat × Nat :=
  let b := (m.box q).getD 0 (0, 1)
  if miOpc m.raw == 0x13 then (b.1, Nat.min b.2 ((m.ten 10).e 0))
  else if miVar m.raw == 2 then (0, (m.ten 10).e 0)
  else
    let per := Nat.max 1 ((m.ten 8).e 0 / cvGroups m)
    (b.1 / per * cvCg m, (Nat.min b.2 ((m.ten 8).e 0) - 1) / per * cvCg m + cvCg m)

/-- Input positions that a window class reads for a tile: coordinates of dims 1 to 5 (R243, R244). -/
def windowRows (m : InFlight) (q : Nat) : List (List Nat) :=
  let rd (i : Nat) : List Nat :=
    let o := axisOut m q i
    axisReads m (m.ten 10) i (o.headD 0) (o.headD 0 + o.length)
  (rd 0).flatMap (fun t => (rd 1).flatMap (fun h => (rd 2).map (fun w => [w, h, t, nth (m.at' q) 4, 0])))

/-- Weight boxes of a `CONV` tile (R249 to R251). -/
def weightFeet (m : InFlight) (q : Nat) : List Foot :=
  let w := m.ten 12
  let n := (m.box q).getD 0 (0, 1)
  (liveTaps m q).map (fun tp =>
    let k := [(tp.2.2, tp.2.2 + 1), (tp.2.1, tp.2.1 + 1), (tp.1, tp.1 + 1)]
    match miVar m.raw with
    | 0 => ⟨w, [(0, w.e 0), n] ++ k, false⟩
    | 1 => ⟨w, [n, (0, w.e 1)] ++ k, false⟩
    | _ =>
      let j := (tp.1 * axK m 1 + tp.2.1) * axK m 2 + tp.2.2
      ⟨w, [(j * (m.ten 10).e 0, (j + 1) * (m.ten 10).e 0), n], false⟩)

/-- What a tile reads and writes, box by box (R85), the input of a window class aside. -/
def footprint (d : Dev) (m : InFlight) (q : Nat) : List Foot :=
  match miOpc m.raw with
  | 0x11 => feet m q ++ attFeet d m q
  | 0x12 => (feet m q).filter (fun x => x.t.idx != (m.ten 12).idx || x.out) ++ weightFeet m q
  | _ => feet m q

/-- Footprint overflow of the tile at walk index q (R85). Log 82 (DEDUCED). -/
def tileOver (d : Dev) (m : InFlight) (q : Nat) : Bool :=
  (footprint d m q).any Foot.over
    || windowed m &&
      (let x := m.ten 10
       let ch := windowCh m q
       ch.1 < ch.2 && (windowRows m q).any (fun c => x.a 0 < ch.2 || (List.range 5).any (fun k => x.a (k + 1) ≤ nth c k)))

/-- Whole lines of elements [lo, hi) of a row, scale lines included, in bytes (R177). -/
def rowLines (b : Nat) (sc : Bool) (lo hi : Nat) : Nat :=
  if hi ≤ lo then 0
  else 64 * (((hi * b + 511) / 512 - lo * b / 512) + (if sc then (hi - 1) / 2048 + 1 - lo / 2048 else 0))

/-- Bytes of the whole lines of a full tile's box, stored (R177). -/
def Foot.bytes (x : Foot) : Nat :=
  let r := x.box.getD 0 (0, 1)
  rowLines x.t.eb x.t.scaled r.1 r.2 * prodOf ((x.box.drop 1).map (fun p => p.2 - p.1))

/-- The same in the form of its `DTYPE` (R280). -/
def Foot.plainBytes (x : Foot) : Nat :=
  let r := x.box.getD 0 (0, 1)
  rowLines x.t.dtype.bits x.t.dtype.isMx r.1 r.2 * prodOf ((x.box.drop 1).map (fun p => p.2 - p.1))

def sumBytes (l : List Foot) : Nat := l.foldl (fun a x => a + x.bytes) 0

/-- Cost factor of an array pair, with the outlier path (R172, R190, R248). -/
def arrayCost (a b : Tensor) : Nat :=
  let c := Nat.max a.dtype.cost b.dtype.cost
  if b.dtype == .ov4o then Nat.max c (cdiv (sideCap b.auxSize) 256) else c

/-- Passes of an activation (R196, R219). -/
def actPasses (a : Nat) : Nat := match a with | 0 => 0 | 5 => 1 | 2 => 3 | _ => 2
def sfnPasses (f : Nat) : Nat := match f with | 7 | 8 | 9 => 2 | 10 => 3 | _ => 1

/-- The class time of an item, in tc. -/
def classTc (m : InFlight) (q k : Nat) : Nat :=
  let ft := feet m q
  let rd := sumBytes (ft.filter (fun x => !x.out))
  let wr := sumBytes (ft.filter (fun x => x.out))
  let ports := Nat.max (cdiv rd 256) (cdiv wr 128)
  let d := m.ten 8
  let halves := ft.all (fun x => x.t.dtype.isHalf)
  let lanes := if halves then 512 else 256
  let taps := axK m 0 * axK m 1 * axK m 2
  match miOpc m.raw with
  | 0x10 =>
    let nb := cdiv ((m.ten 10).e 0) 32
    let kb := (k + 1) * nb / m.s - k * nb / m.s
    (kb * 32 * arrayCost (m.ten 10) (m.ten 12) + 64) * (if bit (miVar m.raw) 2 then 2 else 1)
  | 0x11 =>
    let e := (m.ten 16).e 0
    let g := attParts m
    let part := nth (m.at' q) 2
    ((part + 1) * e / g - part * e / g) * 512 * (m.ten 10).dtype.cost + 96
  | 0x12 =>
    let c := arrayCost (m.ten 10) (m.ten 12)
    let n0 := 128 * nth (m.at' q) 0
    let per := Nat.max 1 (d.e 0 / cvGroups m)
    match miVar m.raw with
    | 0 => taps * ((Nat.min (n0 + 128) (d.e 0) - 1) / per + 1 - n0 / per) * cdiv (cvCg m) 32 * 32 * c + 64
    | 1 => taps * cvCg m * 4 * c + 64
    | _ => cdiv (taps * (m.ten 10).e 0) 32 * 32 * c + 64
  | 0x13 =>
    let x := m.ten 10
    let lanes := if x.dtype.isHalf && d.dtype.isHalf then 512 else 256
    let rb := 8 * rowLines x.eb x.scaled 0 512
    if miVar m.raw == 2 then cdiv (x.e 0) 512 * Nat.max (cdiv 4096 lanes) (cdiv rb 256) + 24
    else taps * Nat.max (cdiv 4096 lanes) (cdiv rb 256)
      + Nat.max (if miVar m.raw == 1 then cdiv 4096 lanes else 0) (cdiv wr 128) + 24
  | 0x20 =>
    if 0x10 ≤ m.f 16 1 then
      let x := m.ten 10
      cdiv (x.e 0) 512 * Nat.max (cdiv 4096 lanes) (cdiv (8 * rowLines x.eb x.scaled 0 512) 256)
        + cdiv (8 * rowLines d.eb d.scaled 0 1) 128 + 24
    else Nat.max (cdiv 4096 lanes * (if d.dtype.isMx then 2 else 1)) ports + 24
  | 0x21 => Nat.max (64 * sfnPasses (m.f 12 1) * (if bit (miVar m.raw) 0 then 2 else 1)) ports + 48
  | 0x22 =>
    let x := m.ten 10
    let grp := m.f 12 4
    let g := nth (m.at' q) 0
    let len := if grp == 0 then x.e 0 else Nat.min (g * grp + grp) (x.e 0) - g * grp
    cdiv len 512 * (Nat.max 32 (cdiv (4096 * (x.dtype.bits / 8)) 256) + 12) + 24
  | 0x23 => Nat.max (32 + 64 * actPasses (m.f 28 1)) ports + 48
  | 0x24 => Nat.max 64 ports + 48
  | 0x25 =>
    if bit (miVar m.raw) 0 then
      Nat.max (cdiv 16384 lanes * 3) (Nat.max (cdiv rd 256) (cdiv (wr + d.auxSize) 128)) + 24
    else Nat.max (cdiv 4096 lanes * 2) ports + 24
  | 0x30 =>
    if miVar m.raw == 1 then
      let b := rd
      cdiv b 256 + 180 + (if m.f 12 1 % 4 == 3 then 90 else 0)
    else
      let t := ports + 24
      if d.comp == 3 then Nat.max t (cdiv (Nat.min 4096 d.rb) 16 + 32) else t
  | _ => cdiv (sumBytes ft) 256 + 24

/-- Whether a `MOVE` moves stored bytes and decodes nothing (R267). -/
def storedMove (m : InFlight) : Bool :=
  miOpc m.raw == 0x30 && (miVar m.raw == 1
    || ((m.ten 8).comp == (m.ten 10).comp && ((m.ten 8).comp == 0 || (m.ten 8).ctab == (m.ten 10).ctab)))

/-- Whether a tile passes a compressed source through the expander (R280). -/
def hasComp (m : InFlight) : Bool :=
  !storedMove m && ((usedFields m.raw).drop 1).any (fun o => (m.ten? o).any (fun t => t.comp != 0))

/-- Whole lines in `DTYPE` form of n elements from lo of so many rows. -/
def cbRows (t : Tensor) (lo hi rows : Nat) : Nat :=
  if t.comp == 1 || t.comp == 2 then rowLines t.dtype.bits t.dtype.isMx lo hi * rows else 0

/-- The blocks of 32 along K that split k of a `MATMUL` tile takes (R78), as elements. -/
def splitK (m : InFlight) (k : Nat) : Nat × Nat :=
  let nb := cdiv ((m.ten 10).e 0) 32
  (32 * (k * nb / m.s), 32 * ((k + 1) * nb / m.s))

/-- The sources of item k of a tile (R78, R85): a `MATMUL` split reads its part of K of A and B, the last one the rest. -/
def itemFeet (m : InFlight) (q k : Nat) : List Foot :=
  let src := (feet m q).filter (fun x => !x.out)
  if miOpc m.raw != 0x10 then src
  else (src.take 2).map (fun x => { x with box := x.box.set 0 (splitK m k) }) ++ (if k + 1 == m.s then src.drop 2 else [])

/-- Bytes its CB sources pass through the expander for one item (R280): of an `ATTEND` the pages it processes, of a window
class the input rows it reads. Log 85 (DESIGN CHOICE). -/
def cbBytes (d : Dev) (m : InFlight) (q k : Nat) : Nat :=
  (itemFeet m q k).foldl (fun a x => if x.t.comp == 1 || x.t.comp == 2 then a + x.plainBytes else a) 0
    + (if miOpc m.raw == 0x11 then
        let kv := attChan m (nth (m.at' q) 0)
        cbRows (m.ten 12) kv (kv + 128) (256 * (attPages d m q).length) + cbRows (m.ten 14) kv (kv + 128) (256 * (attPages d m q).length)
      else 0)
    + (if windowed m then cbRows (m.ten 10) (windowCh m q).1 (windowCh m q).2 (windowRows m q).length else 0)

end Sys2Proof.Machine
end

