-- ==== Sys2Proof/Machine/Kernels.lean ====
section
/-! DEFINITION. The arithmetic of one work item of `MATMUL`, `VOP`, `SFN`, `NORMST`, `NORMAP`, `ROPE`, `QUANT`, `MOVE` and
`PREF` (R173 to R193, R194 to R218, R65, R123, R224, R267). A tile reads everything before it writes anything. -/

namespace Sys2Proof.Machine

/-- What a tile works on: the device, the core that works it (counted from 1), the expander time of its LZP blocks in
1/128 tc, the blocks it read through a `DROP_AFTER_USE` descriptor. -/
structure TileSt where
  d : Dev
  core : Nat := 0
  exp : Nat := 0
  drop : List Nat := []

/-- A tile ends, or faults with its cause. -/
abbrev T := ExceptT Err (StateM TileSt)

namespace T

def fail {α : Type} (cls : FClass) (info : Nat) : T α := throw (.fault cls info)
def dev : T Dev := do return (← get).d
def run (f : Dev → Dev) : T Unit := modify (fun s => { s with d := f s.d })

/-- Program of the context. -/
def prog (m : InFlight) : T Program := do return ((← dev).ctx m.ctx).prog.getD {}

/-- Blocks noted for R111. -/
def noteDrop (chint a n : Nat) : T Unit :=
  if chint != 2 then pure ()
  else modify (fun s => { s with drop := (List.range' (a / 4096) ((a + n + 4095) / 4096 - a / 4096)).foldl (fun l b => l.insert b) s.drop })

/-- Whether reads of the macro-instruction allocate: those of a `MOVE` into scratch do not (R109). -/
def allocates (m : InFlight) : Bool := !(miOpc m.raw == 0x30 && miVar m.raw == 0 &&
  (0x200000000000 ≤ (m.ten 8).base && (m.ten 8).base < 0x300000000000))

def ld (core : Nat) (m : InFlight) (t : Tensor) (cls : Nat) : Ld :=
  { ctx := m.ctx, acc := { alloc := allocates m, chint := t.chint, cls := cls, core := core }, tabs := m.tabs }

/-- A load of a tensor: its expander time, the blocks it read, its fault. -/
def load (m : InFlight) (cls : Nat) (t : Tensor) (f : Ld → Dev → Dev.Loaded × Dev) : T Ab := do
  let s ← get
  let (r, d) := f (ld s.core m t cls) s.d
  set { s with d := d, exp := s.exp + r.exp }
  for x in r.rd do noteDrop x.1 x.2.1 x.2.2
  match r.bad with
  | some a => fail .address a
  | none => pure r.ab

/-- Plain bytes of memory. -/
def plain (m : InFlight) (t : Tensor) (a n : Nat) : T Ab := load m 0 t (fun l d => d.loadPlain l a n)

/-- Elements [lo, hi) of a row, with the poison of each. Each load of an LZP block is a touch of it (R280), a tap's or a
broadcast row's too. Log 169 (DESIGN CHOICE). -/
def seg (m : InFlight) (cls : Nat) (t : Tensor) (c : List Nat) (lo hi : Nat) : T (List El) := do
  let s ← get
  let (r, d) := s.d.loadSeg (ld s.core m t cls) t c lo hi
  set { s with d := d, exp := s.exp + r.exp }
  for x in r.rd do noteDrop x.1 x.2.1 x.2.2
  match r.bad with
  | some a => fail .address a
  | none => pure r.els

/-- Elements used: the first poisoned one is consumed (R84). -/
def use (l : List El) : T (List FV) :=
  match l.findSome? El.p with
  | some a => fail .poison a
  | none => pure (l.map (fun x => x.v))

/-- Values of a row, exact. -/
def vals (m : InFlight) (t : Tensor) (c : List Nat) (lo hi : Nat) : T (List FV) := do use (← seg m 0 t c lo hi)

/-- Values of a row decoded to FP32 (R178). -/
def vals32 (m : InFlight) (t : Tensor) (c : List Nat) (lo hi : Nat) : T (List FV) := do
  return (← vals m t c lo hi).map toF32

/-- The row of a source that broadcasts against an output: dims 1 to 5, then dim 0 (R62). -/
def bcRow (x d : Tensor) (c : List Nat) : List Nat :=
  (List.range 5).map (fun k => if x.e (k + 1) == 1 && d.e (k + 1) != 1 then 0 else nth c k)
def bcVals (m : InFlight) (x d : Tensor) (c : List Nat) (lo hi : Nat) : T (List FV) := do
  if x.e 0 == 1 && d.e 0 != 1 then
    let v ← vals32 m x (bcRow x d c) 0 1
    return List.replicate (hi - lo) (v.headD .nan)
  else vals32 m x (bcRow x d c) lo hi

/-- Plain bytes of memory used as data: lookup tables, side lists. -/
def bytes (m : InFlight) (t : Tensor) (a n : Nat) : T (List Byte) := do
  let b ← plain m t a n
  match b.findSome? Prod.snd with
  | some l => fail .poison l
  | none => pure (b.map Prod.fst)

/-- The side list or companion of a source, as a tensor of its bytes: it belongs to the source (R187, R258). -/
def auxOf (t : Tensor) : Option Tensor :=
  let n := if t.dtype == .ov4o then sideTiles t.alloc else 1
  let w := if t.dtype == .ov4o then t.auxSize else 8 * rowBlocks t.dtype t.comp (t.a 0) * prodFrom1 t.alloc
  if t.dtype == .ov4o || t.comp != 0 then
    some { base := t.aux, dtype := .uint8, rank := 2, ext := [w, n, 1, 1, 1, 1], alloc := [w, n, 1, 1, 1, 1], stride := [0, t.auxStride, 0, 0, 0, 0] }
  else none

/-- Whether two tensors share a byte of their in-bound elements is tested only where their extents of memory meet. -/
def spanEnd (t : Tensor) : Nat := t.base + (List.range 5).foldl (fun s i => s + (t.e (i + 1) - 1) * nth t.stride (i + 1)) 0 + t.rb
def und (d : Tensor) (srcs : List Tensor) : Nat → Bool :=
  let l := (srcs ++ srcs.filterMap auxOf).filter (fun x => d.base < spanEnd x && x.base < spanEnd d)
  fun a => l.any (fun x => x.holdsByte a)

/-- Whether D and a source may be one memory (R193). Log 84 (DESIGN CHOICE). -/
def sameMem (d x : Tensor) : Bool := d.base == x.base && d.stride == x.stride && d.dtype == x.dtype

/-- How results of the macro-instruction are written to a tensor (R182, R185). -/
def wr (m : InFlight) (t : Tensor) (sr : Bool) (salt : Nat) (u : Nat → Bool) : T Dev.St := do
  let p ← prog m
  let s ← get
  return { ctx := m.ctx, user := m.id, acc := { alloc := true, chint := t.chint, cls := 0, core := s.core }, sr := sr, seed := p.srSeed, salt := BitVec.ofNat 32 salt,
           tabs := m.tabs, und := u }

/-- The addresses a write of elements needs, checked for backing memory before anything is written (R69).
Log 83 (DESIGN CHOICE). -/
def backed (l : List (Nat × Nat)) : T Unit := do
  let d ← dev
  match l.findSome? (fun r => d.unbacked r.1 r.2) with
  | some a => fail .address a
  | none => pure ()

/-- A row of results: coordinates of dims 1 to 5, first element, values. -/
abbrev Row (α : Type) := List Nat × Nat × List α

/-- Rows of results written in the format of the tensor. -/
def put (w : Dev.St) (t : Tensor) (rows : List (Row FV)) : T Unit := do
  backed (rows.flatMap (fun (r : Row FV) => t.runs r.1 r.2.1 (r.2.1 + r.2.2.length)
    ++ (if t.comp == 0 then [] else [(t.hdrAddr r.1 0, 8)])))
  run (fun d => rows.foldl (fun d (r : Row FV) => d.storeSeg w t r.1 r.2.1 r.2.2) d)

/-- Rows of plain words written. -/
def putWords (w : Dev.St) (t : Tensor) (rows : List (Row Nat)) : T Unit := do
  backed (rows.flatMap (fun (r : Row Nat) => t.runs r.1 r.2.1 (r.2.1 + r.2.2.length)))
  run (fun d => rows.foldl (fun d (r : Row Nat) => d.storeWords w t r.1 r.2.1 r.2.2) d)

/-- In-bound range of a dimension of a tile. -/
def span (m : InFlight) (d : Tensor) (q k : Nat) : Nat × Nat :=
  let b := (m.box q).getD k (0, 1)
  (b.1, Nat.min b.2 (d.e k))

/-- The in-bound rows of a tile: coordinates of dims 1 to 5. -/
def rowsOf (m : InFlight) (d : Tensor) (q : Nat) : List (List Nat) :=
  let s := span m d q 1
  (List.range' s.1 (s.2 - s.1)).map (fun r => r :: (m.at' q).drop 2)

/-- The lookup table the macro-instruction took at issue (R209). -/
def lutOf (m : InFlight) : T Lut := do
  match m.lut with
  | none => pure (Lut.ofBytes [])
  | some l => return Lut.ofBytes (← bytes m {} l.2.2.2 1088)

/-- Activation codes of `EPI` (R59, R204). -/
def activate (a : Nat) (lut : Lut) (x : FV) : FV :=
  match a with
  | 0 => x
  | 1 => sfnFunc .native 9 lut x
  | 2 => sfnFunc .native 10 lut x
  | 3 => sfnFunc .native 7 lut x
  | 4 => sfnFunc .native 8 lut x
  | _ => lut.eval x

def actLut (m : InFlight) (a : Nat) : T Lut := if a == 5 then lutOf m else pure (Lut.ofBytes [])

/-- Slot index of a tile of an OV4-O tensor, from its allocations (R187). -/
def sideIndex (t : Tensor) (i : List Nat) : Nat :=
  let n (k : Nat) : Nat := if k < 2 then cdiv (t.a k) 128 else t.a k
  (List.range 6).foldr (fun k acc => nth i k + n k * acc) 0

/-- Entries of a slot of a side list: dim 0 and dim 1 coordinates and value, in list order, those beyond the extents left
out (R188, R189). -/
def sideEntries (m : InFlight) (t : Tensor) (i : List Nat) : T (List (Nat × Nat × FV)) := do
  let a := t.aux + sideIndex t i * t.auxStride
  let h ← bytes m t.side a 64
  let n := Nat.min (fld h 0 2) (sideCap t.auxSize)
  let b ← (if n == 0 then pure [] else bytes m t.side (a + 64) (4 * n))
  return ((List.range n).map (fun j =>
      let p := fld b (4 * j) 2 % 2 ^ 14
      (128 * nth i 0 + p % 128, 128 * nth i 1 + p / 128, Fmt.fp16.decode (fld b (4 * j + 2) 2)))).filter
    (fun e => e.1 < t.e 0 && e.2.1 < t.e 1)

/-- Entries of every slot that holds dim 0 coordinates [lo, hi) of rows [r0, r1). -/
def sideSpan (m : InFlight) (t : Tensor) (lo hi r0 r1 : Nat) (rest : List Nat) : T (List (Nat × Nat × FV)) := do
  if t.dtype != .ov4o || hi ≤ lo || r1 ≤ r0 then return []
  let l ← ((List.range' (r0 / 128) ((r1 + 127) / 128 - r0 / 128)).flatMap (fun y =>
    (List.range' (lo / 128) ((hi + 127) / 128 - lo / 128)).map (fun x => x :: y :: rest))).mapM (sideEntries m t)
  return l.flatten.filter (fun e => lo ≤ e.1 && e.1 < hi && r0 ≤ e.2.1 && e.2.1 < r1)

/-- A K block of an element: the operand values, and the outlier products added after it (R173, R190). -/
abbrev KBlk := List FV × List FV × List FV

/-- The accumulation of R173. -/
def accumulate (acc : FV) (l : List KBlk) : FV :=
  l.foldl (fun acc b =>
    b.2.2.foldl (fun acc x => rne32 (acc.add x)) (addr32 acc (rne32 (sumx (b.1.zipWith FV.mul b.2.1))))) acc

/-- Dot product of two rows in blocks of 32, with outliers of the second: element number within the row and value. -/
def dotRow (a b : List FV) (ents : List (Nat × FV)) : FV :=
  accumulate .zero (((chunks 32 a).zip (chunks 32 b)).zipIdx.map (fun x =>
    (x.1.1, x.1.2, (ents.filter (fun e => e.1 / 32 == x.2)).map (fun e => FV.mul e.2 (a.getD e.1 .zero)))))

/-- The epilogue of `MATMUL` on rows of FP32 sums, and the summary (R174, R224). -/
def matmulEnd (m : InFlight) (q : Nat) (sums : List (List FV)) : T Unit := do
  let d := m.ten 8
  let epi := m.f 20 1
  let bat := (m.at' q).drop 2
  let n := span m d q 0
  let mr := span m d q 1
  let rows := List.range' mr.1 (mr.2 - mr.1)
  let lut ← actLut m (epi % 16)
  let rs ← (if bit epi 5 then vals32 m (m.ten 16) [0, 0, 0, 0, 0] mr.1 mr.2 else pure [])
  let cs ← (if bit epi 4 then rows.mapM (fun r => vals32 m (m.ten 14) (r :: bat) n.1 n.2) else pure [])
  let v := sums.zipIdx.map (fun x =>
    let a := if bit epi 5 then x.1.map (fun e => mulr32 e (rs.getD x.2 .nan)) else x.1
    let a := if bit epi 4 then a.zipWith addr32 (cs.getD x.2 []) else a
    a.map (activate (epi % 16) lut))
  let srcs := [m.ten 10, m.ten 12] ++ ((m.ten? 14).toList.filter (fun c => c.idx != d.idx)) ++ (m.ten? 16).toList
  let w ← wr m d (m.f 22 1 == 1) (m.f 24 4) (und d srcs)
  match m.ten? 18 with
  | none => put w d ((rows.zip v).map (fun x => (x.1 :: bat, n.1, x.2)))
  | some s =>
    let sm := (List.range (n.2 - n.1)).map (fun e =>
      rne32 ((treeSum256 (v.map (fun r => r.getD e .zero))).mul (crecip rows.length)))
    let ws ← wr m s false 0 (fun _ => false)
    backed (s.runs [mr.1 / 256, n.1 / 128] 0 128)
    put w d ((rows.zip v).map (fun x => (x.1 :: bat, n.1, x.2)))
    put ws s [([mr.1 / 256, n.1 / 128, 0, 0, 0], 0, sm)]

/-- One item of a `MATMUL`: split k of the tile (R78, R173, R190). -/
def matmul (m : InFlight) (q k : Nat) : T Unit := do
  let d := m.ten 8
  let a := m.ten 10
  let b := m.ten 12
  let bat := (m.at' q).drop 2
  let n := span m d q 0
  let mr := span m d q 1
  let lo := (splitK m k).1
  let hi := Nat.min (splitK m k).2 (a.e 0)
  let rowOf (x : Tensor) (r : Nat) : List Nat := r :: (bcRow x d (0 :: bat)).drop 1
  let ar ← (List.range' mr.1 (mr.2 - mr.1)).mapM (fun r => vals m a (rowOf a r) lo hi)
  let br ← (List.range' n.1 (n.2 - n.1)).mapM (fun r => vals m b (rowOf b r) lo hi)
  let ents ← sideSpan m b lo hi n.1 n.2 ((rowOf b 0).drop 1)
  let part := ar.map (fun x => br.zipIdx.map (fun y =>
    dotRow x y.1 ((ents.filter (fun e => e.2.1 == n.1 + y.2)).map (fun e => (e.1 - lo, e.2.2)))))
  if m.s == 1 then matmulEnd m q part
  else
    run (fun d => d.setMi m.id (fun x => { x with partials := x.partials ++ [(q, k, part.flatten.map f32bits)] }))
    let all := (((← dev).mis.find? (fun x => x.id == m.id)).map (fun x => x.partials)).getD []
    let mine := all.filter (fun x => x.1 == q)
    if mine.length < m.s then pure ()
    else
      let got (j : Nat) : List FV := ((mine.find? (fun x => x.2.1 == j)).map (fun x => x.2.2.map f32)).getD []
      let tot := (List.range' 1 (m.s - 1)).foldl (fun s j => s.zipWith addr32 (got j)) (got 0)
      run (fun d => d.setMi m.id (fun x => { x with partials := x.partials.filter (fun y => y.1 != q) }))
      matmulEnd m q (chunks (n.2 - n.1) tot)

/-- An element-wise tile: every source row against the output row, then the results written (R178, R193). -/
def elementwise (m : InFlight) (q : Nat) (srcs : List Tensor) (sr : Bool) (salt : Nat) (u : Nat → Bool)
    (fn : List FV → FV) : T Unit := do
  let d := m.ten 8
  let n := span m d q 0
  let rows ← (rowsOf m d q).mapM (fun c => do
    let vs ← srcs.mapM (fun x => bcVals m x d c n.1 n.2)
    pure ((c, n.1, (List.range (n.2 - n.1)).map (fun e => fn (vs.map (fun v => v.getD e .nan)))) : Row FV))
  put (← wr m d sr salt u) d rows

/-- Operations of `VOP` on decoded values (R62, R178). -/
def vopFn (op : Nat) (i0 i1 : FV) (v : List FV) : FV :=
  let a := v.getD 0 .nan
  let b := v.getD 1 .nan
  let c := v.getD 2 .nan
  match op with
  | 0x01 => addr32 a b
  | 0x02 => subr32 a b
  | 0x03 => mulr32 a b
  | 0x04 => fma32 a b c
  | 0x05 => FV.max a b
  | 0x06 => FV.min a b
  | 0x07 => if a.isZero then c else b
  | 0x08 => fma32 a i0 i1
  | 0x09 => a.abs
  | 0x0A => FV.min (FV.max a i0) i1
  | _ => a

/-- MXFP4 rows of an OV4-O source with their outliers added, exactly (R189). -/
def ovVals (m : InFlight) (x : Tensor) (c : List Nat) (lo hi : Nat) : T (List FV) := do
  let v ← vals m x c lo hi
  let es ← sideSpan m x lo hi (nth c 0) (nth c 0 + 1) (c.drop 1)
  return v.zipIdx.map (fun p => es.foldl (fun a e => if e.1 == lo + p.2 then a.add e.2.2 else a) p.1)

/-- One tile of an element-wise `VOP`. An OV4-O element whose sum is not an FP32 number is rounded once, to nearest even.
Log 155 (DESIGN CHOICE). -/
def vop (m : InFlight) (q : Nat) : T Unit := do
  let d := m.ten 8
  let srcs := vopSrcs m
  let u := und d (srcs.filter (fun x => !sameMem d x))
  let fn := vopFn (m.f 16 1) (f32n (m.f 20 4)) (f32n (m.f 24 4))
  if srcs.any (fun x => x.dtype == .ov4o) then
    let x := m.ten 10
    let n := span m d q 0
    let rows ← (rowsOf m d q).mapM (fun c => do
      let v ← (if x.e 0 == 1 && d.e 0 != 1 then do
          let v ← ovVals m x (bcRow x d c) 0 1
          pure (List.replicate (n.2 - n.1) (v.headD .nan))
        else ovVals m x (bcRow x d c) n.1 n.2)
      pure ((c, n.1, v.map toF32) : Row FV))
    put (← wr m d (m.f 17 1 == 1) (m.f 28 4) u) d rows
  else elementwise m q srcs (m.f 17 1 == 1) (m.f 28 4) u fn

/-- The reduction of a row operation (R178, R80): no chunk where the source extent is 0, for which the spec states no
result. -/
def rowReduce (op : Nat) (open' : FV) (l : List FV) : FV :=
  let (f, z) : (FV → FV → FV) × FV := match op with
    | 0x10 => (addr32, .zero)
    | 0x11 => (FV.max, .inf true)
    | _ => (FV.min, .inf false)
  fold1 f open' ((chunks 512 l).map (fun c => treeRed f 9 (padTo 512 z c)))

/-- One tile of a row operation. Log 80 (DESIGN CHOICE). -/
def vopRow (m : InFlight) (q : Nat) : T Unit := do
  let d := m.ten 8
  let x := m.ten 10
  let fresh := (← dev).fresh
  let rows ← (rowsOf m d q).mapM (fun c => do
    let v ← vals32 m x (bcRow x d c) 0 (x.e 0)
    pure ((c, 0, [rowReduce (m.f 16 1) (f32 (BitVec.ofNat 32 (Config.freeNat fresh))) v]) : Row FV))
  run Dev.bump
  put (← wr m d (m.f 17 1 == 1) (m.f 28 4) (und d [x])) d rows

/-- One tile of an `SFN` (R194, R205, R207). -/
def sfn (m : InFlight) (q : Nat) : T Unit := do
  let fu := m.f 12 1
  let lut ← (if fu == 11 then lutOf m else pure (Lut.ofBytes []))
  let p : SfnP := if bit (miVar m.raw) 0 then .compat else .native
  let pre := f32n (m.f 16 4)
  elementwise m q [m.ten 10] false 0 (fun _ => false) (fun v => sfnFunc p fu lut (mulr32 (v.getD 0 .nan) pre))

/-- A statistics record (R213). -/
structure Stat where
  n : Nat
  mean : FV
  m2 : FV

/-- The record of a chunk (R215). -/
def chunkStat (l : List FV) : Stat :=
  let mean := rne32 ((treeSum512 l).mul (crecip l.length))
  let sq (x : FV) : FV := let e := subr32 x mean; rne32 (e.mul e)
  ⟨l.length, mean, treeSum512 (l.map sq)⟩

/-- combine of R216; none when the count passes the word. -/
def combine (a b : Stat) : Option Stat :=
  if a.n == 0 then some b
  else if b.n == 0 then some a
  else if 0xFFFFFFFF < a.n + b.n then none
  else
    let n := a.n + b.n
    let qq := crecip n
    let fa := rne32 (.ofNat a.n)
    let fb := rne32 (.ofNat b.n)
    let dl := subr32 b.mean a.mean
    some ⟨n, addr32 a.mean (rne32 (dl.mul (rne32 (fb.mul qq)))),
      addr32 (addr32 a.m2 b.m2) (mulr32 (mulr32 dl dl) (mulr32 (mulr32 fa fb) qq))⟩

/-- The record of a group, folded over its chunks (R215). -/
def groupStat (l : List FV) : Option Stat :=
  (chunks 512 l).foldl (fun a c => a.bind (fun a => combine a (chunkStat c))) (some ⟨0, .zero, .zero⟩)

def statWords (s : Stat) : List Nat := [s.n, (f32bits s.mean).toNat, (f32bits s.m2).toNat, 0]

/-- A stored record read; its poison is consumed (R217). -/
def readStat (m : InFlight) (st : Tensor) (c : List Nat) : T Stat := do
  let b ← bytes m st (st.row c) 16
  return ⟨fld b 0 4, f32n (fld b 4 4), f32n (fld b 8 4)⟩

/-- One tile of `NORMST` (R215 to R217). -/
def normst (m : InFlight) (q : Nat) : T Unit := do
  let st := m.ten 8
  let x := m.ten 10
  let i := m.at' q
  let g := nth i 0
  let grp := m.f 12 4
  let lo := g * grp
  let hi := if grp == 0 then x.e 0 else Nat.min (lo + grp) (x.e 0)
  let r0 := 8 * nth i 1
  let r1 := Nat.min (r0 + 8) (x.e 1)
  let rows ← (List.range' r0 (r1 - r0)).mapM (fun r => do
    let v ← vals32 m x (r :: i.drop 2) lo hi
    let c := g :: r :: (i.drop 2).take 3
    let new := groupStat v
    let new ← (if bit (miVar m.raw) 0 then do
        let old ← readStat m st c
        pure (new.bind (combine old))
      else pure new)
    match new with
    | some s => pure ((c, 0, statWords s) : Row Nat)
    | none => fail .illegal 0)
  putWords (← wr m st false 0 (fun _ => false)) st rows

/-- One tile of `NORMAP` (R218). -/
def normap (m : InFlight) (q : Nat) : T Unit := do
  let d := m.ten 8
  let x := m.ten 10
  let st := m.ten 12
  let grp := m.f 24 4
  let n := span m d q 0
  let act := m.f 28 1
  let lut ← actLut m act
  let eps := f32n (m.f 20 4)
  let chan (o : Nat) : T (Option (List FV)) := match m.ten? o with
    | some t => do return some (← vals32 m t [0, 0, 0, 0, 0] n.1 n.2)
    | none => pure none
  let ga ← chan 14
  let be ← chan 16
  let rows ← (rowsOf m d q).mapM (fun c => do
    let v ← vals32 m x c n.1 n.2
    let g0 := if grp == 0 then 0 else n.1 / grp
    let g1 := if grp == 0 then 1 else cdiv n.2 grp
    let recs ← (List.range' g0 (g1 - g0)).mapM (fun g => readStat m st (g :: c.take 4))
    let fs := recs.map (fun s =>
      (s.mean, SfnP.native.rsqrt (addr32 (rne32 (s.m2.mul (crecip s.n))) eps)))
    let y := v.zipIdx.map (fun p =>
      let f := fs.getD ((if grp == 0 then 0 else (n.1 + p.2) / grp) - g0) (.nan, .nan)
      let y := mulr32 (subr32 p.1 f.1) f.2
      let y := match ga, be with
        | some gm, some bt => fma32 y (gm.getD p.2 .nan) (bt.getD p.2 .nan)
        | some gm, none => fma32 y (gm.getD p.2 .nan) .zero
        | none, some bt => addr32 y (bt.getD p.2 .nan)
        | none, none => y
      activate act lut y)
    pure ((c, n.1, y) : Row FV))
  put (← wr m d false 0 (fun _ => false)) d rows

/-- The frequency factor of pair j of P pairs on base θ (R211). -/
def ropeFreq (p j : Nat) (theta : FV) : FV :=
  let ex := mulr32 (mulr32 (.ofNat j) (crecip p)) (SfnP.native.log2 theta)
  mulr32 (SfnP.native.exp2 ex.neg) SfnP.inv2pi

/-- Axis, number within the axis, and pairs of the axis of pair k: none beyond the rotated ones (R210). -/
def ropeAxis (p0 p1 p2 k : Nat) : Option (Nat × Nat × Nat) :=
  if k < p0 then some (0, k, p0)
  else if k < p0 + p1 then some (1, k - p0, p1)
  else if k < p0 + p1 + p2 then some (2, k - p0 - p1, p2)
  else none

/-- One tile of `ROPE` (R210, R211). -/
def rope (m : InFlight) (q : Nat) : T Unit := do
  let d := m.ten 8
  let x := m.ten 10
  let pos := m.ten 12
  let n := span m d q 0
  let th (a : Nat) : FV := f32n (m.f (20 + 4 * a) 4)
  let rows ← (rowsOf m d q).mapM (fun c => do
    let v ← vals32 m x c n.1 n.2
    let ps ← vals32 m pos (bcRow pos d c) 0 3
    let y := (List.range (n.2 - n.1)).map (fun e =>
      let self := v.getD e .nan
      match ropeAxis (m.f 16 1) (m.f 17 1) (m.f 18 1) ((n.1 + e) / 2) with
      | none => self
      | some (a, j, p) =>
        let t := mulr32 (ps.getD a .nan) (ropeFreq p j (th a))
        let (s, c) := SfnP.native.sincos t
        let e0 := e / 2 * 2
        let x0 := v.getD e0 .nan
        let x1 := v.getD (e0 + 1) .nan
        if e % 2 == 0 then fma32 x0 c (mulr32 x1 s).neg else fma32 x0 s (mulr32 x1 c))
    pure ((c, n.1, y) : Row FV))
  put (← wr m d false 0 (fun _ => false)) d rows

/-- One tile of a plain `QUANT` (R191). -/
def quantPlain (m : InFlight) (q : Nat) : T Unit :=
  let x := m.ten 10
  elementwise m q [x] (m.f 16 1 == 1) (m.f 20 4)
    (und (m.ten 8) ([x].filter (fun x => !sameMem (m.ten 8) x))) (fun v => v.getD 0 .nan)

/-- The outcome of one block of R192: candidates are marked; entries hold 0, clamped candidates the extreme code.
Log 81 (DEDUCED). -/
def ovBlock (l : List (FV × Rnd × Option Bool)) : Nat × List Nat :=
  let plain := (l.filter (fun p => p.2.2.isNone)).map (fun p => p.1)
  let code (e : Int) (p : FV × Rnd × Option Bool) : Nat :=
    match p.2.2 with
    | none => DType.mxfp4.elemCode p.2.1 p.1 e
    | some true => 0
    | some false => if p.1.negSign then 15 else 7
  match DType.mxfp4.blockExp plain with
  | none => (0xFF, l.map (fun _ => 0))
  | some none => (0, l.map (fun p => if p.2.2 == some false then code (-127) p else 0))
  | some (some e) => ((e + 127).toNat, l.map (code e))

/-- One tile of `QUANT` to OV4-O (R192). The bytes of its side-list slot beyond the last entry stay as they were (R188).
Log 163 (DESIGN CHOICE). -/
def quantOv (m : InFlight) (q : Nat) : T Unit := do
  let d := m.ten 8
  let x := m.ten 10
  let i := m.at' q
  let n := span m d q 0
  let rows ← (rowsOf m d q).mapM (fun c => do pure (c, ← bcVals m x d c n.1 n.2))
  let w ← wr m d (m.f 16 1 == 1) (m.f 20 4) (und d ([x].filter (fun x => !sameMem d x)))
  let cap := m.f 14 2
  let all := rows.flatMap Prod.snd
  let s := all.foldl (fun s v => addr32 s (rne32 (v.mul v))) FV.zero
  let cand (v : FV) : Bool := FV.lt (s.scale 6) ((v.mul v).mul (.ofNat all.length))
  -- candidates in ascending position: row offset, element offset, value
  let cs : List (Nat × Nat × FV) := rows.zipIdx.flatMap (fun r =>
    (r.1.2.zipIdx.filter (fun p => cand p.1)).map (fun p => (r.2, p.2, p.1)))
  let kept := cs.take cap
  let mark (r e : Nat) (v : FV) : Option Bool := if cand v then some (kept.any (fun k => k.1 == r && k.2.1 == e)) else none
  let clamped := cs.length - kept.length
  let rnd (c : List Nat) (e : Nat) : Rnd := rndOf w.sr w.seed w.salt ((n.1 + e) :: c)
  let sa := d.aux + sideIndex d i * d.auxStride
  let hdr := leBytes 2 kept.length ++ leBytes 2 cap ++ leBytes 1 (b2n (clamped != 0)) ++ leBytes 3 0 ++ leBytes 4 clamped
    ++ leBytes 52 0
  let ents := kept.flatMap (fun k =>
    leBytes 2 (k.1 * 128 + k.2.1) ++ leBytes 2 (Fmt.fp16.encode .ne k.2.2))
  backed ((rows.flatMap (fun r => d.runs r.1 n.1 n.2)) ++ [(sa, 64 + 4 * kept.length)])
  run (fun dv =>
    let dv := rows.zipIdx.foldl (fun dv r =>
      let blks := (chunks 32 (r.1.2.zipIdx.map (fun p => (p.1, rnd r.1.1 p.2, mark r.2 p.2 p.1)))).map ovBlock
      let a := d.row r.1.1
      let dv := dv.putBytes w (a + n.1 / 2) (pack 4 (blks.flatMap Prod.snd)) (fun _ => false)
      dv.putBytes w (a + d.vb + n.1 / 32) (blks.map (fun b => BitVec.ofNat 8 b.1)) (fun _ => false)) dv
    let dv := dv.putBytes (w.side d) sa (hdr ++ ents) (fun _ => false)
    if clamped == 0 then dv
    else (dv.cnt 0x62 m.ctx 1).setMi m.id (fun y => { y with clamped := y.clamped + 1 }))

/-- Bytes with poison written: the lines that hold a poisoned byte become poisoned (R128). -/
def putAb (w : Dev.St) (a : Nat) (b : Ab) : T Unit := do
  backed [(a, b.length)]
  let bad := (b.zipIdx.filter (fun p => p.1.2.isSome)).map (fun p => (a + p.2) / 64)
  run (fun d => d.putBytes w a (b.map Prod.fst) (fun l => bad.contains l))

/-- Bytes [off, off + n) of a row in the layout of its format, decoded from any compression. -/
def plainRow (m : InFlight) (t : Tensor) (c : List Nat) (off n : Nat) : T Ab := do
  if t.comp == 1 || t.comp == 2 then
    let w := t.dtype.bits / 8
    let els ← seg m 0 t c (off / w) (Nat.min ((off + n + w - 1) / w) (t.a 0))
    let pad := (← dev).fresh
    let b : Ab := els.flatMap (fun x => (leBytes w (t.dtype.encodeScalar .ne x.v)).map (fun y => (y, x.p)))
    let b := b ++ (List.range (n - b.length)).map (fun k => (Config.freeByte pad (off + b.length + k), none))
    return b.take n
  else
    load m 0 t (fun l d => d.loadRow l t c off n)

/-- One LZP block of a destination encoded from its raw bytes (R264, R268, R281). The slot's bytes after `LEN` stay as they were
(R265). Log 167 (DESIGN CHOICE). -/
def putLzp (m : InFlight) (w : Dev.St) (d : Tensor) (c : List Nat) (j : Nat) (b : Ab) : T Unit := do
  let tab := (m.tabs.find? (fun x => x.slot == d.ctab)).getD {}
  let enc := lzpEncode tab.active (planes d.dtype) (b.map Prod.fst)
  let bad := b.any (fun x => x.2.isSome)
  let raw := bad || enc.2
  let out : Ab := if raw then b else enc.1.map (fun x => (x, none))
  putAb w (d.row c + 4096 * j) out
  putAb (w.side d) (d.hdrAddr c j) ((leBytes 8 (BlkHdr.toNat ⟨out.length, raw, tab.gen, d.ctab⟩)).map (fun x => (x, none)))

/-- The stored bytes and header of one LZP block moved, whatever the two allocations (R267); what passes the end of the slot
of D is left out. Under a poisoned header line the whole slot is moved. Log 78 (DEDUCED), 79 (DEDUCED), 168 (DESIGN CHOICE). -/
def moveLzp (m : InFlight) (w : Dev.St) (s d : Tensor) (c : List Nat) (j : Nat) : T Unit := do
  let h ← plain m s.side (s.hdrAddr c j) 8
  let z := Nat.min (Nat.min 4096 (s.rb - 4096 * j)) (d.rb - 4096 * j)
  let n := if (h.findSome? Prod.snd).isSome then z else Nat.min z (BlkHdr.ofNat (leNat (h.map Prod.fst))).len
  let b ← plain m s (s.row c + 4096 * j) n
  putAb w (d.row c + 4096 * j) b
  putAb (w.side d) (d.hdrAddr c j) h

/-- Stored bytes of a run moved. -/
def moveRun (m : InFlight) (w : Dev.St) (s : Tensor) (a b n : Nat) : T Unit := do
  putAb w b (← plain m s a n)

/-- Two runs of a row, the second beyond the first: an LZP block that holds bytes of both is decoded once (R280, R281). -/
def twoRuns (m : InFlight) (t : Tensor) (c : List Nat) (a n b k : Nat) : T (Ab × Ab) := do
  if t.comp == 3 && 0 < n && 0 < k && b / 4096 < (a + n + 4095) / 4096 then
    let v ← plainRow m t c a (b + k - a)
    return (v.take n, v.drop (b - a))
  else
    let v ← (if n == 0 then pure [] else plainRow m t c a n)
    let e ← (if k == 0 then pure [] else plainRow m t c b k)
    return (v, e)

/-- Bytes [off, off + n) of a row of D in its uncompressed layout, as the elements and scales of S give them: the scale areas
of the two begin where their own allocations put them (R169). -/
def layoutRow (m : InFlight) (s d : Tensor) (c : List Nat) (off n : Nat) : T Ab := do
  let dv := valBytes d.dtype 0 (d.a 0)
  let sv := valBytes s.dtype 0 (s.a 0)
  let o := Nat.max off dv - dv
  let r ← twoRuns m s c off (Nat.min n (Nat.min dv (rowBytes s.dtype 0 (s.a 0)) - off)) (sv + o)
    (if s.dtype.isMx then off + n - dv - o else 0)
  return r.1 ++ r.2

/-- LZP blocks of a destination row that a tile writes: those that begin in its values, and beyond the values for the last
tile of the row. Log 79 (DEDUCED). -/
def lzpBlocks (m : InFlight) (d : Tensor) (q : Nat) : List Nat :=
  let n := span m d q 0
  let lo := n.1 * d.eb / 8
  let hi := if d.e 0 ≤ n.2 then d.rb else n.2 * d.eb / 8
  (List.range (cdiv d.rb 4096)).filter (fun j => lo ≤ 4096 * j && 4096 * j < hi)

/-- One tile of a `MOVE` copy (R65, R267). Log 78 (DEDUCED). -/
def moveCopy (m : InFlight) (q : Nat) : T Unit := do
  let d := m.ten 8
  let s := m.ten 10
  let c := (m.at' q).drop 1
  let n := span m d q 0
  let w ← wr m d false 0 (fun _ => false)
  if storedMove m then
    if d.comp == 3 then for j in lzpBlocks m d q do moveLzp m w s d c j
    else
      for r in (s.runs c n.1 n.2).zip (d.runs c n.1 n.2) do moveRun m w s r.1.1 r.2.1 r.1.2
      if d.comp != 0 then moveRun m (w.side d) s.side (s.hdrAddr c 0) (d.hdrAddr c 0) 8
  else if d.comp == 0 then
    let r ← twoRuns m s c (n.1 * d.dtype.bits / 8) (cdiv (n.2 * d.dtype.bits) 8 - n.1 * d.dtype.bits / 8)
      (valBytes s.dtype 0 (s.a 0) + n.1 / 32) (if d.dtype.isMx then (n.2 - 1) / 32 + 1 - n.1 / 32 else 0)
    putAb w (d.row c + n.1 * d.dtype.bits / 8) r.1
    if d.dtype.isMx then putAb w (d.row c + d.vb + n.1 / 32) r.2
  else if d.comp == 3 then
    for j in lzpBlocks m d q do
      let z := Nat.min 4096 (d.rb - 4096 * j)
      let b ← layoutRow m s d c (4096 * j) z
      let pad := (← dev).fresh
      let b := b ++ (List.range (z - b.length)).map (fun k => (Config.freeByte pad (4096 * j + b.length + k), none))
      putLzp m w d c j b
  else
    let els ← seg m 0 s c n.1 n.2
    backed (d.runs c n.1 n.2 ++ [(d.hdrAddr c 0, 8)])
    let bad := (els.zipIdx.filter (fun p => p.1.p.isSome)).flatMap (fun p =>
      let e := n.1 + p.2
      [(d.row c + e * d.eb / 8) / 64, (d.row c + d.vb + e / 32) / 64])
    let tab := (m.tabs.find? (fun x => x.slot == d.ctab)).getD {}
    let blks := (chunks 32 (els.map (fun x => (x.v, Rnd.ne)))).map (Dev.cbBlock (cbLevels tab.active d.comp))
    run (fun dv =>
      let dv := dv.putBytes w (d.row c + n.1 * d.eb / 8) (pack d.eb (blks.flatMap Prod.snd)) (fun l => bad.contains l)
      let dv := dv.putBytes w (d.row c + d.vb + n.1 / 32) (blks.map (fun b => BitVec.ofNat 8 b.1)) (fun l => bad.contains l)
      dv.putBytes (w.side d) (d.hdrAddr c 0) (leBytes 8 (BlkHdr.toNat ⟨0, false, tab.gen, d.ctab⟩)) (fun _ => false))

/-- Cores named by a multicast (R65). -/
def castCores (m : InFlight) : List Nat :=
  (List.range 2).flatMap (fun die => if bit (m.f 12 1) die then
    (List.range 16).flatMap (fun cl => if bit (m.f 16 2) cl then
      ((List.range 12).filter (fun c => bit (m.f 14 2) c)).map (fun c => 192 * die + 12 * cl + c) else []) else [])

/-- One tile of a multicast: stored bytes into every named core buffer (R65, R123). Log 78 (DEDUCED). -/
def multicast (m : InFlight) (q : Nat) : T Unit := do
  let d := m.ten 8
  let s := m.ten 10
  let c := (m.at' q).drop 1
  let n := span m d q 0
  let w ← wr m d false 0 (fun _ => false)
  for r in (s.runs c n.1 n.2).zip (d.runs c n.1 n.2) do
    let v ← plain m s r.1.1 r.1.2
    for k in castCores m do putAb w (0x300000000000 + k * 2 ^ 20 + r.2.1) v

/-- One tile of a `PREF`: lines of stacked memory enter the home cache under the hint; nothing is consumed (R109, R110).
Log 75 (DESIGN CHOICE). -/
def pref (m : InFlight) (q : Nat) : T Unit := do
  let s := m.ten 8
  let k := m.f 10 1
  let r := prefSpan m
  let at0 (j : Nat) : Nat := (((m.box q).getD j (0, 1)).1) + (if j == k then r.1 else 0)
  let e0 := if k == 0 then Nat.min r.2 (s.e 0) else s.e 0
  let c := (List.range' 1 5).map at0
  let hi := Nat.min (at0 0 + moveTile s) e0
  for x in s.runs c (at0 0) hi do
    match (← dev).unbacked x.1 x.2 with
    | some a => fail .address a
    | none =>
      run (fun d => (d.fetch { alloc := true, chint := s.chint, cls := 0 } x.1 x.2).2)
      noteDrop s.chint x.1 x.2

end T

end Sys2Proof.Machine
end

