-- ==== Sys2Proof/Machine/Conv.lean ====
section
/-! DEFINITION. The arithmetic of one `CONV` or `POOL` tile (R244 to R254) and the halo tiles of a `CONV` (R255). -/

namespace Sys2Proof.Machine
namespace T

/-- The position of X that a tap of an output position reads: width, height, time (R243, R244); none is padding. -/
def tapPos (m : InFlight) (x : Tensor) (c : List Nat) (tp : Nat × Nat × Nat) : Option (List Nat) :=
  match tapCoord m x 0 (nth c 2) tp.1, tapCoord m x 1 (nth c 1) tp.2.1, tapCoord m x 2 (nth c 0) tp.2.2 with
  | some t, some h, some w => some [w, h, t, nth c 3, 0]
  | _, _, _ => none

/-- Products summed block by block, blocks without an in-bound product skipped (R246). -/
def skipAcc (acc : FV) (l : List KBlk) : FV := accumulate acc (l.filter (fun b => !b.1.isEmpty))

/-- Weight rows of output channels [n0, n1) at a tap, in full. -/
def wRows (m : InFlight) (w : Tensor) (n0 n1 : Nat) (tp : Nat × Nat × Nat) : T (List (List FV)) :=
  (List.range' n0 (n1 - n0)).mapM (fun n => vals m w [n, tp.2.2, tp.2.1, tp.1, 0] 0 (w.e 0))

/-- Sums of a dense tile: for each position the FP32 sum of each channel of [n0, n1) (R246, R190). -/
def convDense (m : InFlight) (q : Nat) (pos : List (List Nat)) (n0 n1 : Nat) : T (List (List FV)) := do
  let x := m.ten 10
  let w := m.ten 12
  let d := m.ten 8
  let per := Nat.max 1 (d.e 0 / cvGroups m)
  let cg := cvCg m
  let ks ← (liveTaps m q).mapM (fun tp => do
    let rows ← wRows m w n0 n1 tp
    let es ← sideSpan m w 0 (w.e 0) n0 n1 [tp.2.2, tp.2.1, tp.1, 0]
    return (tp, rows, es))
  pos.mapM (fun c => do
    let init := List.replicate (n1 - n0) FV.zero
    ks.foldlM (fun acc k => do
      match tapPos m x c k.1 with
      | none => return acc
      | some p =>
        let g0 := n0 / per
        let xs ← vals m x p (g0 * cg) ((n1 - 1) / per * cg + cg)
        return acc.zipIdx.map (fun a =>
          let n := n0 + a.2
          let xr := (xs.drop ((n / per - g0) * cg)).take cg
          let wr := k.2.1.getD a.2 []
          let es := k.2.2.filter (fun e => e.2.1 == n)
          skipAcc a.1 (((chunks 32 wr).zip (chunks 32 xr)).zipIdx.map (fun b =>
            (b.1.1, b.1.2, (es.filter (fun e => e.1 / 32 == b.2)).map (fun e => FV.mul e.2.2 (xr.getD e.1 .zero))))))) init)

/-- Sums of a diagonal tile (R250). -/
def convDiag (m : InFlight) (q : Nat) (pos : List (List Nat)) (n0 n1 : Nat) : T (List (List FV)) := do
  let x := m.ten 10
  let w := m.ten 12
  let d := m.ten 8
  let per := Nat.max 1 (d.e 0 / cvGroups m)
  let cg := cvCg m
  let ks ← (liveTaps m q).mapM (fun tp => do
    return (tp, ← (List.range cg).mapM (fun c => vals m w [c, tp.2.2, tp.2.1, tp.1, 0] n0 n1)))
  pos.mapM (fun c => do
    ks.foldlM (fun acc k => do
      match tapPos m x c k.1 with
      | none => return acc
      | some p =>
        let g0 := n0 / per
        let xs ← vals m x p (g0 * cg) ((n1 - 1) / per * cg + cg)
        return acc.zipIdx.map (fun a =>
          let xr := (xs.drop (((n0 + a.2) / per - g0) * cg)).take cg
          accumulate a.1 (((k.2.map (fun r => r.getD a.2 .zero)).zip xr).map (fun b => ([b.1], [b.2], []))))) (List.replicate (n1 - n0) FV.zero))

/-- Sums of a space-to-channel tile (R251). -/
def convSpace (m : InFlight) (q : Nat) (pos : List (List Nat)) (n0 n1 : Nat) : T (List (List FV)) := do
  let x := m.ten 10
  let w := m.ten 12
  let cin := x.e 0
  let live := liveTaps m q
  let wr ← (List.range' n0 (n1 - n0)).mapM (fun n => do
    let l ← (taps m).zipIdx.mapM (fun tp =>
      if live.contains tp.1 then vals m w [n, 0, 0, 0, 0] (tp.2 * cin) (tp.2 * cin + cin) else pure (List.replicate cin FV.zero))
    return l.flatten)
  pos.mapM (fun c => do
    let col ← (taps m).mapM (fun tp => do
      match tapPos m x c tp with
      | none => return List.replicate cin (none : Option FV)
      | some p => return (← vals m x p 0 cin).map some)
    let xs := col.flatten
    return wr.map (fun r => skipAcc .zero (((chunks 32 r).zip (chunks 32 xs)).map (fun b =>
      let inb := (b.1.zip b.2).filterMap (fun y => y.2.map (fun v => (y.1, v)))
      (inb.map Prod.fst, inb.map Prod.snd, [])))))

/-- One tile of `CONV`, with its epilogue (R247). -/
def convTile (m : InFlight) (q : Nat) (sums : List (List Nat) → Nat → Nat → T (List (List FV))) : T Unit := do
  let d := m.ten 8
  let n := span m d q 0
  let epi := m.f 38 1
  let pos := rowsOf m d q
  let bias ← (if bit epi 4 then vals32 m (m.ten 14) [0, 0, 0, 0, 0] n.1 n.2 else pure [])
  let s ← sums pos n.1 n.2
  let v := s.map (fun r =>
    (if bit epi 4 then r.zipWith addr32 bias else r).map (activate (epi % 16) (Lut.ofBytes [])))
  let w ← wr m d false 0 (und d ([m.ten 10, m.ten 12] ++ (m.ten? 14).toList))
  put w d ((pos.zip v).map (fun x => (x.1, n.1, x.2)))

/-- One tile of `POOL` under `VAR` 0 and 1 (R252). -/
def poolTile (m : InFlight) (q : Nat) (avg : Bool) : T Unit := do
  let d := m.ten 8
  let x := m.ten 10
  let n := span m d q 0
  let rows ← (rowsOf m d q).mapM (fun c => do
    let ps := (taps m).filterMap (tapPos m x c)
    let vs ← ps.mapM (fun p => vals32 m x p n.1 n.2)
    let v := (List.range (n.2 - n.1)).map (fun e =>
      let l := vs.map (fun r => r.getD e .nan)
      if avg then (if l.isEmpty then FV.zero else rne32 ((l.foldl addr32 .zero).mul (crecip l.length)))
      else l.foldl FV.max (.inf true))
    pure ((c, n.1, v) : Row FV))
  put (← wr m d false 0 (fun _ => false)) d rows

/-- The first largest value of a position (R254). -/
def argmax (l : List FV) : Option (FV × Nat) :=
  l.zipIdx.foldl (fun b p =>
    match b with
    | none => if p.1.isNan then none else some p
    | some k => if FV.lt k.1 p.1 then some p else some k) none

/-- One tile of `POOL` `VAR` 2 (R254). -/
def poolArgmax (m : InFlight) (q : Nat) : T Unit := do
  let d := m.ten 8
  let x := m.ten 10
  let ix := m.ten 12
  let rows ← (rowsOf m d q).mapM (fun c => do return (c, argmax (← vals32 m x c 0 (x.e 0))))
  let w ← wr m d false 0 (fun _ => false)
  let wi ← wr m ix false 0 (fun _ => false)
  backed (rows.flatMap (fun r => ix.runs r.1 0 1))
  put w d (rows.map (fun r => (r.1, 0, [(r.2.map Prod.fst).getD .nan])))
  putWords wi ix (rows.map (fun r => (r.1, 0, [(r.2.map Prod.snd).getD (2 ^ ix.dtype.bits - 1)])))

end T

/-- The band of a cluster for a time and batch of D: lowest and highest output row of its tiles [lo, hi) (R255). -/
def haloBand (m : InFlight) (lo hi t b : Nat) : Option (Nat × Nat) :=
  ((List.range' lo (hi - lo)).filterMap (fun q =>
    let i := m.at' q
    if nth i 3 == t && nth i 4 == b then some (nth i 2) else none)).foldl
    (fun a h => match a with
      | none => some (h, h + 1)
      | some r => some (Nat.min r.1 h, Nat.max r.2 (h + 1))) none

/-- Whether a tile reads a halo row above and below (R255). -/
def haloOf (m : InFlight) (lo hi q : Nat) : Bool × Bool :=
  if bit (m.f 34 2) 15 then (false, false)
  else
    let x := m.ten 10
    let d := m.ten 8
    let i := m.at' q
    match haloBand m lo hi (nth i 3) (nth i 4) with
    | none => (false, false)
    | some (h0, h1) =>
      let w := (m.box q).getD 1 (0, 1)
      let anyT := !(axisReads m x 0 (nth i 3) (nth i 3 + 1)).isEmpty
      let anyW := !(axisReads m x 2 w.1 (Nat.min w.2 (d.e 1))).isEmpty
      let hs := if anyT && anyW then axisReads m x 1 (nth i 2) (nth i 2 + 1) else []
      (hs.any (fun h => h < h0 * axS m 1), hs.any (fun h => h1 * axS m 1 ≤ h))

/-- Whether a tile is a halo tile. -/
def isHalo (m : InFlight) (lo hi q : Nat) : Bool := (haloOf m lo hi q).1 || (haloOf m lo hi q).2

end Sys2Proof.Machine
end

