-- ==== Sys2Proof/Machine/Ahead.lean ====
section
/-! DEFINITION. What the stream prefetchers fetch ahead (R124, R125, R236): the lines of a core's next tiles, and a stretch of
memory. -/

namespace Sys2Proof.Machine

/-- All coordinates of ranges, the first one fastest. -/
def coordsIn : List (Nat × Nat) → List (List Nat)
  | [] => [[]]
  | r :: rs => (coordsIn rs).flatMap (fun c => (List.range' r.1 (r.2 - r.1)).map (fun i => i :: c))

/-- A range read ahead: the class, the hint, address, length. -/
abbrev Ahead := Nat × Nat × Nat × Nat

namespace Dev

/-- The stored ranges of elements [lo, hi) of a row, each with the hint of its descriptor: compressed blocks with their headers, an LZP block up to the length that
its header gives (R169, R259). -/
def storedRow (d : Dev) (t : Tensor) (c : List Nat) (lo hi : Nat) : List (Nat × Nat × Nat) :=
  let own := (t.runs c lo hi).map (fun r => (t.chint, r))
  if t.comp == 0 then own
  else if t.comp != 3 then (t.auxChint, t.hdrAddr c 0, 8) :: own
  else
    let js := (t.runs c lo hi).flatMap (fun r =>
      let o := r.1 - t.row c
      List.range' (o / 4096) ((o + r.2 + 4095) / 4096 - o / 4096))
    js.eraseDups.flatMap (fun j =>
      let h := BlkHdr.ofNat (leNat (d.peek (t.hdrAddr c j) 8).1)
      [(t.auxChint, t.hdrAddr c j, 8), (t.chint, t.row c + 4096 * j, Nat.min h.len (Nat.min 4096 (t.rb - 4096 * j)))])

/-- The stored ranges of a box, within the extents. -/
def storedBox (d : Dev) (x : Foot) : List (Nat × Nat × Nat) :=
  let inb (k : Nat) : Nat × Nat := ((x.box.getD k (0, 1)).1, Nat.min (x.box.getD k (0, 1)).2 (x.t.e k))
  (coordsIn ((List.range' 1 5).map inb)).flatMap (fun c => d.storedRow x.t c (inb 0).1 (inb 0).2)

/-- The side-list slots of a box of an OV4-O tensor (R187, R188). -/
def storedSlots (d : Dev) (x : Foot) : List (Nat × Nat × Nat) :=
  if x.t.dtype != .ov4o then []
  else
    let inb (k : Nat) : Nat × Nat := ((x.box.getD k (0, 1)).1, Nat.min (x.box.getD k (0, 1)).2 (x.t.e k))
    let tile (k : Nat) : Nat × Nat := if k < 2 then ((inb k).1 / 128, ((inb k).2 + 127) / 128) else inb k
    (coordsIn ((List.range 6).map tile)).map (fun i =>
      let a := x.t.aux + T.sideIndex x.t i * x.t.auxStride
      (x.t.auxChint, a, 64 + 4 * Nat.min (leNat (d.peek a 2).1) (sideCap x.t.auxSize)))

/-- What item w of a macro-instruction reads, in the order its lines are fetched ahead (R125, R236). -/
def itemReads (d : Dev) (m : InFlight) (w : Nat) : List Ahead :=
  let q := w / m.s
  let of' (cls : Nat) (l : List Foot) : List Ahead :=
    l.flatMap (fun x => (d.storedBox x ++ d.storedSlots x).map (fun r => (cls, r)))
  let src := itemFeet m q (w % m.s)
  match miOpc m.raw with
  | 0x10 => of' 0 src
  | 0x11 => of' 0 (src.reverse) ++ of' 1 (pageFeet d m q)
  | _ =>
    of' 0 (src.filter (fun x => miOpc m.raw != 0x12 || x.t.idx != (m.ten 12).idx) ++ (if miOpc m.raw == 0x12 then weightFeet m q else []))
      ++ (if windowed m then (windowRows m q).flatMap (fun c =>
            (d.storedRow (m.ten 10) c (windowCh m q).1 (windowCh m q).2).map (fun r => (0, r))) else [])

/-- Ranges fetched ahead for a core, transfer by transfer (R124). -/
def fetchAhead (core mi : Nat) (l : List Ahead) (d : Dev) : Dev :=
  l.foldl (fun d x =>
    let ts := transfers x.2.2.1 x.2.2.2
    (ts.flatMap groups).foldl (fun d as =>
      d.prefetchLines { alloc := true, chint := x.2.1, cls := x.1 } core mi as) (d.metered (core + 1) 9 ts.length)) d

/-- What the core in hand has counted added to its counters (R439, R448): `val` gives the count of an event, none where timing
decides it. Log 85 (DESIGN CHOICE). -/
def addCounts (m : InFlight) (core : Nat) (val : Nat → Option Nat) (d : Dev) : Dev :=
  let c := d.trace.cfg
  if !c.cores || (c.tctx != 0 && c.tctx != m.ctx) then d
  else (List.range 8).foldl (fun d i =>
    let sel := nth c.csel i
    if sel % 256 == 0 || (bit sel 8 && !m.marks.contains c.mark) then d
    else
      let n := (val (sel % 256)).getD (Config.freeNat d.fresh)
      ({ d with trace := { d.trace with core := amod d.trace.core (8 * core + i) 0 (fun v => v + BitVec.ofNat 48 n) } }).bump) d

/-- What a prefetch moved, counted: transfers, and bytes read from the Square. -/
def countAhead (m : InFlight) (core : Nat) (d : Dev) : Dev :=
  let l := d.trace.meter
  if l.isEmpty then d
  else ({ d with trace := { d.trace with meter := [] } }).addCounts m core (fun ev =>
    some (if ev == 7 || ev == 9 then (aget l ev).getD 0 else 0))

/-- The lines of an item fetched ahead (R125): of every class, and of a tile that later overflows or holds for its halo too.
Log 75 (DESIGN CHOICE). -/
def aheadItem (m : InFlight) (core w : Nat) (d : Dev) : Dev := (d.fetchAhead core m.id (d.itemReads m w)).countAhead m core

/-- The first two items of each core, when a macro-instruction has issued. -/
def aheadDealt (m : InFlight) (d : Dev) : Dev :=
  m.todo.foldl (fun d p => (p.2.take 2).foldl (fun d w => d.aheadItem m p.1 w) d) d

/-- The second item ahead of a core that has finished one. -/
def aheadNext (id core : Nat) (d : Dev) : Dev :=
  match d.mis.find? (fun m => m.id == id) with
  | none => d
  | some m =>
    match ((m.todo.find? (fun p => p.1 == core)).map (fun p => p.2)).getD [] with
    | _ :: w :: _ => d.aheadItem m core w
    | _ => d

/-- Lines fetched ahead for a macro-instruction that is gone. -/
def dropStaged (id : Nat) (d : Dev) : Dev := { d with staged := d.staged.filter (fun x => x.mi != id) }

end Dev

end Sys2Proof.Machine
end

