-- ==== Sys2Proof/Machine/Issue.lean ====
section
/-! DEFINITION. Issue of macro-instructions (R51, R53, R58, R70 to R78, R90 to R99, R208, R209, R272 to R275): the fetch, the
header wait, the resolved operands, the deal of shares, and the classes without tiles. One row of the table is one class;
it runs when the stream's next macro-instruction is of that row. -/

namespace Sys2Proof.Machine
namespace Dev

/-- The stream of an executing context that stands at an issue with the given hold: it may issue (R40, R431). -/
def atIssue (d : Dev) (st : Nat) (h : Hold) : Option (Nat × Stream) :=
  let i := d.executing
  let x := (d.ctx i).streams.getD st { halted := true }
  if i == 0 || (d.ctx i).st != .running || x.halted || x.yielded || x.hold != h || d.mustYield i || (d.cluster st).svc != .inService
  then none else some (i, x)

def setStream (i st : Nat) (f : Stream → Stream) (d : Dev) : Dev :=
  d.setCtx i (fun c => { c with streams := c.streams.modify st f })

def streamOf (d : Dev) (i st : Nat) : Stream := (d.ctx i).streams.getD st {}
def progOf (d : Dev) (i : Nat) : Program := (d.ctx i).prog.getD {}

/-- Offset of a stream's next macro-instruction in its stream. Log 76 (DESIGN CHOICE). -/
def miOff (d : Dev) (i st : Nat) : Nat :=
  (d.streamOf i st).pc - ((d.progOf i).streams.getD (32 * (d.ctx i).entry + st) none).getD 0

/-- Descriptors read through a cluster's cache, which keeps the 64 read last (R53). Log 75 (DESIGN CHOICE). -/
def noteDescs (i st : Nat) (l : List Nat) (d : Dev) : Dev :=
  d.setCtx i (fun c => { c with descs := amod c.descs st [] (fun x => (l.reverse ++ x.filter (fun j => !l.contains j)).take 64) })

/-- A fault found by a stream (R421). -/
def miFault (i st : Nat) (cls : FClass) (info : Nat) (d : Dev) : Dev := d.faultCtx i cls st 0 (d.miOff i st) info

/-- Advances of the loops a stream is in (R96); two entries that name one descriptor add. Log 154 (DESIGN CHOICE). -/
def loopAdv (x : Stream) (j : Nat) : Int :=
  x.loops.foldl (fun a l => l.adv.foldl (fun a e => if e.1 == j then a + (l.iter : Int) * e.2 else a) a) 0

/-- The index written before an iteration (R96). -/
def writeIdx (i : Nat) (l : LoopLevel) (d : Dev) : Dev :=
  match l.idx with
  | some r => d.setBound i r l.iter
  | none => d

/-- Learned prefetch (R125): once 8 consecutive iterations of a loop have been seen, the first 64 KiB of what each advanced
descriptor names in the next iteration are fetched ahead. Log 75 (DESIGN CHOICE). -/
def learn (i st : Nat) (d : Dev) : Dev :=
  match (d.streamOf i st).loops with
  | [] => d
  | l :: rest =>
    if l.seen < 8 || l.count ≤ l.iter + 1 then d
    else
      let p := d.progOf i
      let x := { d.streamOf i st with loops := { l with iter := l.iter + 1 } :: rest }
      ((l.adv.map Prod.fst).eraseDups).foldl (fun d j =>
        match Desc.parse (d.peek (p.table + 64 * j) 64).1 p.boundBlock.isSome with
        | none => d
        | some y => (d.fetchAhead (12 * st) 0 [(0, y.chint, ((p.addr y.base : Int) + loopAdv x j).toNat, 65536)]).countAhead
            { ctx := i, st := st, marks := x.marks } (12 * st)) d

/-- Loops whose body the stream has reached the end of: the next iteration, or out (R96, R125). -/
def loopEnds : Nat → Nat → Nat → Dev → Dev
  | 0, _, _, d => d
  | n + 1, i, st, d =>
    let x := d.streamOf i st
    match x.loops with
    | [] => d
    | l :: rest =>
      if x.pc != l.off + 64 * (l.body + 1) then d
      else if l.iter + 1 < l.count then
        let l := { l with iter := l.iter + 1, seen := l.seen + 1 }
        ((d.setStream i st (fun x => { x with pc := l.off + 64, loops := l :: rest })).writeIdx i l).learn i st
      else loopEnds n i st (d.setStream i st (fun x => { x with loops := rest }))

/-- A stream moves on past what it has issued. -/
def moveOn (i st n : Nat) (d : Dev) : Dev :=
  loopEnds 5 i st (d.setStream i st (fun x => { x with pc := x.pc + 64 * n, hold := .none, met := false, raw := [] }))

/-- Records and counts of an issue (R434, R436, R444). Log 73 (DEDUCED). -/
def noteIssue (i st tiles : Nat) (raw : List Byte) (d : Dev) : Dev :=
  ((d.cnt 0x02 st 1).progressed i).traceRec 1 0x10 i st (d.markOf i st) (miOpc raw + 256 * d.miOff i st) tiles

/-- Completion in the issue step: the header signal once, the records (R91, R444). Log 72 (DEDUCED). -/
def doneAtIssue (i st : Nat) (raw : List Byte) (d : Dev) : Dev :=
  let off := d.miOff i st
  let d := if sigMode raw == 0 then d else d.signal i (sigSo raw) (sigN raw) false st 0 off 0
  (d.progressed i).traceRec 1 0x11 i st (d.markOf i st) (miOpc raw + 256 * off) 0

/-- A macro-instruction read for issue (R425). Log 65 (DESIGN CHOICE). -/
def fetchMi (pc : Nat) : M (List Byte) := readCtl pc 64

/-- Malformed beyond its operands: a `HALT` or too deep or overlapping a `LOOP` in a body (R97). Log 69 (DEDUCED). -/
def nestOk (x : Stream) (raw : List Byte) : Bool :=
  match miOpc raw with
  | 0x5F => x.loops.isEmpty
  | 0x51 => x.loops.length < 4 && (match x.loops with
    | l :: _ => x.pc + 64 * (fld raw 8 2 + 1) ≤ l.off + 64 * (l.body + 1)
    | [] => true)
  | _ => true

/-- The header wait (R90): none when unmet, else the device with the consumption made. -/
def headerWait (i : Nat) (raw : List Byte) (d : Dev) : Option Dev :=
  let v := d.objVal i (waitSo raw)
  match waitMode raw with
  | 0 => some d
  | 1 => if waitN raw ≤ v then
      some (d.setCtx i (fun c => { c with objs := aset c.objs (waitSo raw) (BitVec.ofNat 32 (v - waitN raw)) })) else none
  | 2 => if waitN raw ≤ v then some d else none
  | _ => if v == 0 then some d else none

/-- A stream held at issue (R90, R97). Log 66 (DEDUCED). -/
def holdAt (i st : Nat) (raw : List Byte) (h : Hold) (met : Bool) (d : Dev) : Dev :=
  (d.setStream i st (fun x => { x with hold := h, met := met, raw := raw, since := d.fresh })).bump

/-- The sum each listed object must reach (R94). -/
def syncNeed (raw : List Byte) : List (Nat × Nat) :=
  (syncEntries raw).foldl (fun l e => amod l e.1 0 (fun v => v + e.2)) ([] : AMap Nat)

/-- The objects that a wait tests, and whether it is met: the header's, or a `SYNC`'s own once that is met (R90, R94). -/
def waitObjs (met : Bool) (raw : List Byte) : List Nat :=
  if met then (syncNeed raw).map Prod.fst else if waitMode raw == 0 then [] else [waitSo raw]
def waitMet (i : Nat) (met : Bool) (raw : List Byte) (d : Dev) : Bool :=
  if met then (syncNeed raw).all (fun e => e.2 ≤ d.objVal i e.1) else (headerWait i raw d).isSome

/-- Whether a wait on one of the objects, held from an earlier arrival, is met: it is tested first (R92).
Log 68 (DEDUCED). -/
def earlierWait (d : Dev) (i st since : Nat) (objs : List Nat) : Bool :=
  (List.range 32).any (fun k =>
    k != st && (match d.atIssue k .wait with
      | none => false
      | some (_, y) => (y.since < since || (y.since == since && k < st)) && (waitObjs y.met y.raw).any (fun o => objs.contains o)
          && d.waitMet i y.met y.raw))

/-- `SYNC` (R94). `VAR` 2 sets its objects first; then the header's signal adds, to one that was set too.
Log 161 (DESIGN CHOICE). -/
def syncBody (i st : Nat) (raw : List Byte) (d : Dev) : Dev :=
  let off := d.miOff i st
  let fin (d : Dev) : Dev := ((d.noteIssue i st 0 raw).doneAtIssue i st raw).moveOn i st 1
  match miVar raw with
  | 0 =>
    let need := syncNeed raw
    if need.any (fun e => d.objVal i e.1 < e.2) || (!(d.streamOf i st).met && d.earlierWait i st d.fresh (need.map Prod.fst)) then
      d.holdAt i st raw .wait true
    else fin (if bit (fld raw 9 1) 0 then
        d.setCtx i (fun c => { c with objs := need.foldl (fun o e =>
          aset o e.1 (((aget c.objs e.1).getD 0) - BitVec.ofNat 32 e.2)) c.objs }) else d)
  | 1 => fin ((syncEntries raw).foldl (fun d e => d.signal i e.1 e.2 false st 0 off 0) d)
  | _ => fin (d.setCtx i (fun c => { c with objs := (syncEntries raw).foldl (fun o e => aset o e.1 (BitVec.ofNat 32 e.2)) c.objs }))

/-- `LOOP` (R95, R96). Log 69 (DEDUCED). -/
def loopBody (i st : Nat) (raw : List Byte) (d : Dev) : Dev :=
  let count := if fld raw 10 1 == 1 then d.boundVal i (fld raw 11 1) else fld raw 12 4
  if fld raw 16 4 < count then d.miFault i st .shape 0
  else
    let d := (d.noteIssue i st 0 raw).doneAtIssue i st raw
    if count == 0 then d.moveOn i st (fld raw 8 2 + 1)
    else
      let l : LoopLevel :=
        { off := (d.streamOf i st).pc, body := fld raw 8 2, count := count, seen := 1
          idx := if bit (fld raw 20 1) 6 then some (fld raw 20 1 % 64) else none
          adv := (List.range (fld raw 21 1)).map (fun k => (fld raw (28 + 8 * k) 2 % 2 ^ 12, sgn 48 (fld raw (30 + 8 * k) 6))) }
      ((d.setStream i st (fun x =>
        { x with pc := x.pc + 64, hold := .none, met := false, raw := [], loops := l :: x.loops })).writeIdx i l)

/-- `MARK` (R98, R447). Log 73 (DEDUCED). -/
def markBody (i st : Nat) (raw : List Byte) (d : Dev) : Dev :=
  let mk := BitVec.ofNat 32 (fld raw 8 4)
  let x := d.streamOf i st
  let bad := miVar raw == 1 && x.marks.head? != some mk
  let d := d.noteIssue i st 0 raw
  let d := d.traceRec 0 (miVar raw + 1) i st (d.markOf i st) mk.toNat (d.miOff i st + (if bad then 2 ^ 63 else 0))
  let ms :=
    match miVar raw with
    | 0 => if x.marks.length < 8 then mk :: x.marks else x.marks
    | 1 => x.marks.drop 1
    | _ => x.marks
  let d := d.setStream i st (fun x => { x with marks := ms })
  (d.doneAtIssue i st raw).moveOn i st 1

/-- `HALT` (R99). -/
def haltBody (i st : Nat) (raw : List Byte) (d : Dev) : Dev :=
  ((d.noteIssue i st 0 raw).doneAtIssue i st raw).setStream i st (fun x => { x with halted := true, hold := .none, met := false, raw := [] })

/-- The core set entry of a macro-instruction (R74). -/
def coreset (p : Program) (st : Nat) (raw : List Byte) : Nat := ((aget p.coresets (256 * st + miCoreset raw)).getD 0).toNat
def csOk (cs : Nat) : Bool := bits cs 11 0 != 0 && bits cs 31 24 != 0 && bits cs 23 16 < bits cs 31 24
def csCores (st cs : Nat) : List Nat := ((List.range 12).filter (bit cs)).map (fun c => 12 * st + c)

/-- This cluster's range of tiles (R77). -/
def tileRange (cs tiles : Nat) : Nat × Nat :=
  (bits cs 23 16 * tiles / bits cs 31 24, (bits cs 23 16 + 1) * tiles / bits cs 31 24)

/-- The lookup slot a macro-instruction uses (R208). -/
def lutUse (raw : List Byte) : Option Nat :=
  match miOpc raw with
  | 0x10 => if fld raw 20 1 % 16 == 5 then some (fld raw 21 1) else none
  | 0x21 => if fld raw 12 1 == 11 then some (fld raw 13 1) else none
  | 0x23 => if fld raw 28 1 == 5 then some 0 else none
  | _ => none

/-- The lookup slots and banks that an output descriptor is: it may serve several slots (R208, R209). -/
def lutBanksOf (d : Dev) (p : Program) (i : Nat) : List (Nat × Nat × LutSlot) :=
  (List.range 8).filterMap (fun s => match lutSlot d p s with
    | some l => if l.bank0 == i then some (s, 0, l) else if l.bank1 == i then some (s, 1, l) else none
    | none => none)

/-- A compression slot as its directory and banks stand (R269, R272). -/
def ctabAt (d : Dev) (p : Program) (s : Nat) : CTab :=
  let e := leNat (d.peek (p.ctDir + 8 * s) 8).1
  { slot := s, gen := bits e 15 0, act := bits e 16 16, b0 := (d.peek (p.ctBank s 0) 1024).1, b1 := (d.peek (p.ctBank s 1) 1024).1 }

/-- The compression slot and bank that a `MOVE` copy's output is (R274). -/
def ctabBankOf (p : Program) (t : Tensor) : Option (Nat × Nat) :=
  if t.rank == 1 && t.dtype == .uint8 && t.imm.getD 0 false && t.e 0 == 1024 then
    (List.range p.ctSlots).findSome? (fun s =>
      if t.base == p.ctBank s 0 then some (s, 0) else if t.base == p.ctBank s 1 then some (s, 1) else none)
  else none

/-- Whether a macro-instruction writes its first descriptor. -/
def writesFirst (raw : List Byte) : Bool := miOpc raw != 0x31

/-- Whether a context's lookup directory has a slot (R58, R208); a poisoned entry is found when it is used (R425). -/
def lutListed (d : Dev) (i s : Nat) : Bool := (d.lineView ((d.progOf i).lutDir + 8 * s)).2 || (lutSlot d (d.progOf i) s).isSome

/-- The slots of compressed operands taken at issue (R272). -/
def takeTabs (p : Program) (raw : List Byte) (tens : List Tensor) : M (List CTab) := do
  let cs := tens.filter (fun t => t.comp != 0 && ((usedFields raw).filterMap (descIdx raw)).contains t.idx)
  let slots := (cs.map (fun t => t.ctab)).eraseDups
  M.need (slots.length ≤ 4) .shape
  slots.mapM (fun s => do
    let _ ← readCtl (p.ctDir + 8 * s) 8
    let _ ← readCtl (p.ctBank s 0) 2048
    let t := (← get).ctabAt p s
    M.need (cs.all (fun x => x.ctab != s || bankKind t.active == 0 || bankKind t.active == x.comp)) .shape
    pure t)

/-- The lookup bank that a macro-instruction takes at issue: slot, bank, generation, and its descriptor (R208, R209, R260). Its
directory entry is used, and a poisoned one is consumed (R127, R425). -/
def takeLut (p : Program) (raw : List Byte) : M (Option (Nat × Nat × Nat × Named)) := do
  if let some s := lutUse raw then let _ ← readCtl (p.lutDir + 8 * s) 8
  let d ← get
  match (lutUse raw).bind (fun s => (lutSlot d p s).map (fun l => (s, l))) with
  | none => pure none
  | some (s, l) =>
    let n ← readNamed p .illegal (if l.act == 0 then l.bank0 else l.bank1)
    pure (some (s, l.act, l.gen, n))

/-- Operands and walk of a macro-instruction with tiles, as they stand at issue: every descriptor, then the bounds, then the
shapes (R53, R58, R70 to R75); the hold a reload must wait for (R209, R274). -/
def prepare (i st : Nat) (raw : List Byte) : M (InFlight × Plan × Hold) := do
  let d ← get
  let p := d.progOf i
  let x := d.streamOf i st
  let named ← (((descFields raw).filterMap (descIdx raw)).eraseDups).mapM (readNamed p .illegal)
  let lutN ← takeLut p raw
  modify (fun d => d.noteDescs i st ((named ++ lutN.toList.map (fun l => l.2.2.2)).flatMap (fun n => n.i :: (n.y.map (fun _ => n.i + 1)).toList)))
  let tens ← named.mapM (bindNamed i p (loopAdv x))
  M.need ((named.zip tens).all (fun n => namedOk n.1 n.2) && lutN.all (fun l => l.2.2.2.x.comp == 0) && csOk (coreset p st raw)) .shape
  let m : InFlight := { ctx := i, st := st, off := d.miOff i st, raw := raw, tens := tens, marks := x.marks, issuedNs := d.now }
  let pl ← (match planOf m with
    | some pl => pure pl
    | none => M.fail .shape 0 : M Plan)
  let tabs ← takeTabs p raw tens
  let d ← get
  let lut := lutN.map (fun l => (l.1, l.2.1, l.2.2.1, ((p.addr l.2.2.2.x.base : Int) + loopAdv x l.2.2.2.i).toNat))
  let m := { m with n := pl.n, t := pl.t, s := pl.s, tabs := tabs, lut := lut }
  let out := if writesFirst raw then (m.ten? 8) else none
  let banks := (out.map (fun t => d.lutBanksOf p t.idx)).getD []
  M.need (banks.all (fun b => b.2.1 != b.2.2.act) && (banks.isEmpty || out.all (fun t => t.comp == 0))) .shape
  let h1 : Hold := if banks.any (fun b => d.mis.any (fun y => y.ctx == i && y.lut.any (fun u => u.1 == b.1 && u.2.1 == b.2.1))) then .lut
    else .none
  let h2 ← (match (if miRow raw == some (0x30, 0) then out.bind (ctabBankOf p) else none) with
    | none => pure Hold.none
    | some (s, b) =>
      let t := d.ctabAt p s
      if b == t.act then M.fail .shape 0
      else
        let gen := bankGen (if b == 0 then t.b0 else t.b1)
        pure (if d.mis.any (fun y => y.ctx == i && y.tabs.any (fun u => u.slot == s && u.gen == gen)) then .ctab else .none) : M Hold)
  pure (m, pl, if h1 == .none then h2 else h1)

/-- The items of each core (R77); under the halo protocol the halo tiles come last (R256). -/
def shares (m : InFlight) (cs lo hi : Nat) : List (Nat × List Nat) :=
  let cores := csCores m.st cs
  let c := cores.length
  let first := lo * m.s
  let items := (hi - lo) * m.s
  cores.zipIdx.map (fun k =>
    let mine := if bit cs 32 then (List.range items).filter (fun j => j % c == k.2) |>.map (fun j => first + j)
      else List.range' (first + k.2 * items / c) ((k.2 + 1) * items / c - k.2 * items / c)
    let h (w : Nat) : Bool := miOpc m.raw == 0x12 && isHalo m lo hi (w / m.s)
    (k.1, mine.filter (fun w => !h w) ++ mine.filter h))

/-- Shares dealt (R51, R73, R77, R91). Log 74 (DESIGN CHOICE). -/
def deal (i st : Nat) (m : InFlight) (d : Dev) : Dev :=
  let cs := coreset (d.progOf i) st m.raw
  let tiles := prodOf m.n
  let (lo, hi) := tileRange cs tiles
  if tiles == 0 then ((d.noteIssue i st 0 m.raw).doneAtIssue i st m.raw).moveOn i st 1
  else
    let todo := shares m cs lo hi
    let done := (todo.filter (fun p => p.2.isEmpty)).map Prod.fst
    let halo := if miOpc m.raw == 0x12 && m.f 36 2 != 0 then
      (todo.flatMap Prod.snd).filter (fun w => isHalo m lo hi (w / m.s)) else []
    let m := { m with id := d.fresh + 1, todo := todo, doneCores := done, halo := halo }
    let d := (({ d with mis := d.mis ++ [m] }.bump).noteIssue i st (hi - lo) m.raw).aheadDealt m
    let off := d.miOff i st
    let d := if sigMode m.raw == 2 then
        done.foldl (fun d _ => d.signal i (sigSo m.raw) (sigN m.raw) false st 0 off 0) d
      else d
    d.moveOn i st 1

/-- Classes with tiles. Log 72 (DEDUCED). -/
def tileBody (i st : Nat) (raw : List Byte) (d : Dev) : Dev :=
  match (prepare i st raw).run.run d with
  | (.error (.fault cls info), d) => d.miFault i st cls info
  | (.ok (m, _, h), d) => if h == .none then d.deal i st m else d.holdAt i st raw h true

/-- `MOVE` `VAR` 2 and 3 (R65, R72, R473): `VAR` 3 writes its bound register and signals in its issue slot; `VAR` 2 is dealt to
the dispatcher, which reads the word and writes the register when it completes. Log 70 (DEDUCED). -/
def boundBody (i st : Nat) (raw : List Byte) (d : Dev) : Dev :=
  if !csOk (coreset (d.progOf i) st raw) then d.miFault i st .shape 0
  else if miVar raw == 3 then
    (((d.noteIssue i st 0 raw).setBound i (fld raw 13 1) (fld raw 28 4)).doneAtIssue i st raw).moveOn i st 1
  else
    let m : InFlight :=
      { id := d.fresh + 1, ctx := i, st := st, off := d.miOff i st, raw := raw, marks := (d.streamOf i st).marks, issuedNs := d.now }
    (({ d with mis := d.mis ++ [m] }.bump).noteIssue i st 0 raw).moveOn i st 1

/-- The body of a class other than `KRB`. -/
def miBody (i st : Nat) (raw : List Byte) (d : Dev) : Dev :=
  match miOpc raw with
  | 0x50 => d.syncBody i st raw
  | 0x51 => d.loopBody i st raw
  | 0x52 => d.markBody i st raw
  | 0x5F => d.haltBody i st raw
  | 0x30 => if 2 ≤ miVar raw then d.boundBody i st raw else d.tileBody i st raw
  | _ => d.tileBody i st raw

/-- Issue at the head of a stream: fetch and decode (R51, R58), then the wait, then the class. A row changes nothing when
the next macro-instruction is of another row; malformed and unreadable ones fault under any.
Log 65 (DESIGN CHOICE), 67 (DEDUCED). -/
def issue (row : Nat × Nat) (body : Nat → Nat → List Byte → Dev → Dev) (st : Nat) (d : Dev) : Dev :=
  match d.atIssue st .none with
  | none => d
  | some (i, x) =>
    match (fetchMi x.pc).run.run d with
    | (.error (.fault cls info), d) => d.miFault i st cls info
    | (.ok raw, d') =>
      if (miRow raw).isSome && miRow raw != some row then d
      else if !miOk (d.progOf i) (d.lutListed i) raw || !nestOk x raw then d'.miFault i st .illegal 0
      else if miOpc raw == 0x5F && d.mis.any (fun m => m.ctx == i && m.st == st) then d
      else if x.met then body i st raw d'
      else match (if d'.earlierWait i st d'.fresh (waitObjs false raw) then none else headerWait i raw d') with
        | none => d'.holdAt i st raw .wait false
        | some d' => body i st raw d'

end Dev

/-- MATMUL (R59, R171 to R175, R223). -/
def execMatmul (st : Nat) (s : State) : Host.Outcome State Fault Refusal := onDev (Dev.issue (0x10, 0) Dev.miBody st) s
/-- ATTEND (R229). -/
def execAttend (st : Nat) (s : State) : Host.Outcome State Fault Refusal := onDev (Dev.issue (0x11, 0) Dev.miBody st) s
/-- CONV_DENSE (R245, R246). -/
def execConvDense (st : Nat) (s : State) : Host.Outcome State Fault Refusal := onDev (Dev.issue (0x12, 0) Dev.miBody st) s
/-- CONV_DEPTHWISE_DIAGONAL (R250). -/
def execConvDepthwiseDiagonal (st : Nat) (s : State) : Host.Outcome State Fault Refusal := onDev (Dev.issue (0x12, 1) Dev.miBody st) s
/-- CONV_SPACE_TO_CHANNEL (R251). -/
def execConvSpaceToChannel (st : Nat) (s : State) : Host.Outcome State Fault Refusal := onDev (Dev.issue (0x12, 2) Dev.miBody st) s
/-- POOL_MAX (R252). -/
def execPoolMax (st : Nat) (s : State) : Host.Outcome State Fault Refusal := onDev (Dev.issue (0x13, 0) Dev.miBody st) s
/-- POOL_AVERAGE (R252). -/
def execPoolAverage (st : Nat) (s : State) : Host.Outcome State Fault Refusal := onDev (Dev.issue (0x13, 1) Dev.miBody st) s
/-- POOL_CHANNEL_ARGMAX (R254). -/
def execPoolChannelArgmax (st : Nat) (s : State) : Host.Outcome State Fault Refusal := onDev (Dev.issue (0x13, 2) Dev.miBody st) s
/-- VOP_COPY_CONVERT (R178). -/
def execVopCopyConvert (st : Nat) (s : State) : Host.Outcome State Fault Refusal := onDev (Dev.issue (0x20, 0x00) Dev.miBody st) s
/-- VOP_ADD (R178). -/
def execVopAdd (st : Nat) (s : State) : Host.Outcome State Fault Refusal := onDev (Dev.issue (0x20, 0x01) Dev.miBody st) s
/-- VOP_SUBTRACT (R178). -/
def execVopSubtract (st : Nat) (s : State) : Host.Outcome State Fault Refusal := onDev (Dev.issue (0x20, 0x02) Dev.miBody st) s
/-- VOP_MULTIPLY (R178). -/
def execVopMultiply (st : Nat) (s : State) : Host.Outcome State Fault Refusal := onDev (Dev.issue (0x20, 0x03) Dev.miBody st) s
/-- VOP_FMA (R178). -/
def execVopFma (st : Nat) (s : State) : Host.Outcome State Fault Refusal := onDev (Dev.issue (0x20, 0x04) Dev.miBody st) s
/-- VOP_SCALE_OFFSET (R178). -/
def execVopScaleOffset (st : Nat) (s : State) : Host.Outcome State Fault Refusal := onDev (Dev.issue (0x20, 0x08) Dev.miBody st) s
/-- VOP_MAX (R178). -/
def execVopMax (st : Nat) (s : State) : Host.Outcome State Fault Refusal := onDev (Dev.issue (0x20, 0x05) Dev.miBody st) s
/-- VOP_MIN (R178). -/
def execVopMin (st : Nat) (s : State) : Host.Outcome State Fault Refusal := onDev (Dev.issue (0x20, 0x06) Dev.miBody st) s
/-- VOP_SELECT (R178). -/
def execVopSelect (st : Nat) (s : State) : Host.Outcome State Fault Refusal := onDev (Dev.issue (0x20, 0x07) Dev.miBody st) s
/-- VOP_ABSOLUTE_VALUE (R178). -/
def execVopAbsoluteValue (st : Nat) (s : State) : Host.Outcome State Fault Refusal := onDev (Dev.issue (0x20, 0x09) Dev.miBody st) s
/-- VOP_CLAMP (R178). -/
def execVopClamp (st : Nat) (s : State) : Host.Outcome State Fault Refusal := onDev (Dev.issue (0x20, 0x0A) Dev.miBody st) s
/-- VOP_ROW_SUM (R178). -/
def execVopRowSum (st : Nat) (s : State) : Host.Outcome State Fault Refusal := onDev (Dev.issue (0x20, 0x10) Dev.miBody st) s
/-- VOP_ROW_MAX (R178). -/
def execVopRowMax (st : Nat) (s : State) : Host.Outcome State Fault Refusal := onDev (Dev.issue (0x20, 0x11) Dev.miBody st) s
/-- VOP_ROW_MIN (R178). -/
def execVopRowMin (st : Nat) (s : State) : Host.Outcome State Fault Refusal := onDev (Dev.issue (0x20, 0x12) Dev.miBody st) s
/-- SFN_RECIPROCAL (R194, R199). -/
def execSfnReciprocal (st : Nat) (s : State) : Host.Outcome State Fault Refusal := onDev (Dev.issue (0x21, 0) Dev.miBody st) s
/-- SFN_RSQRT (R199). -/
def execSfnRsqrt (st : Nat) (s : State) : Host.Outcome State Fault Refusal := onDev (Dev.issue (0x21, 1) Dev.miBody st) s
/-- SFN_SQRT (R199). -/
def execSfnSqrt (st : Nat) (s : State) : Host.Outcome State Fault Refusal := onDev (Dev.issue (0x21, 2) Dev.miBody st) s
/-- SFN_EXP2 (R200). -/
def execSfnExp2 (st : Nat) (s : State) : Host.Outcome State Fault Refusal := onDev (Dev.issue (0x21, 3) Dev.miBody st) s
/-- SFN_LOG2 (R200). -/
def execSfnLog2 (st : Nat) (s : State) : Host.Outcome State Fault Refusal := onDev (Dev.issue (0x21, 4) Dev.miBody st) s
/-- SFN_SINE (R201). -/
def execSfnSine (st : Nat) (s : State) : Host.Outcome State Fault Refusal := onDev (Dev.issue (0x21, 5) Dev.miBody st) s
/-- SFN_COSINE (R201). -/
def execSfnCosine (st : Nat) (s : State) : Host.Outcome State Fault Refusal := onDev (Dev.issue (0x21, 6) Dev.miBody st) s
/-- SFN_SIGMOID (R204). -/
def execSfnSigmoid (st : Nat) (s : State) : Host.Outcome State Fault Refusal := onDev (Dev.issue (0x21, 7) Dev.miBody st) s
/-- SFN_TANH (R204). -/
def execSfnTanh (st : Nat) (s : State) : Host.Outcome State Fault Refusal := onDev (Dev.issue (0x21, 8) Dev.miBody st) s
/-- SFN_SILU (R204). -/
def execSfnSilu (st : Nat) (s : State) : Host.Outcome State Fault Refusal := onDev (Dev.issue (0x21, 9) Dev.miBody st) s
/-- SFN_GELU (R204). -/
def execSfnGelu (st : Nat) (s : State) : Host.Outcome State Fault Refusal := onDev (Dev.issue (0x21, 10) Dev.miBody st) s
/-- SFN_LOOKUP (R207, R209). -/
def execSfnLookup (st : Nat) (s : State) : Host.Outcome State Fault Refusal := onDev (Dev.issue (0x21, 11) Dev.miBody st) s
/-- NORMST (R213, R217). -/
def execNormst (st : Nat) (s : State) : Host.Outcome State Fault Refusal := onDev (Dev.issue (0x22, 0) Dev.miBody st) s
/-- NORMAP (R218). -/
def execNormap (st : Nat) (s : State) : Host.Outcome State Fault Refusal := onDev (Dev.issue (0x23, 0) Dev.miBody st) s
/-- ROPE (R210). -/
def execRope (st : Nat) (s : State) : Host.Outcome State Fault Refusal := onDev (Dev.issue (0x24, 0) Dev.miBody st) s
/-- QUANT (R191). -/
def execQuant (st : Nat) (s : State) : Host.Outcome State Fault Refusal := onDev (Dev.issue (0x25, 0) Dev.miBody st) s
/-- MOVE_COPY (R65, R267, R274). -/
def execMoveCopy (st : Nat) (s : State) : Host.Outcome State Fault Refusal := onDev (Dev.issue (0x30, 0) Dev.miBody st) s
/-- MOVE_MULTICAST (R65, R123). -/
def execMoveMulticast (st : Nat) (s : State) : Host.Outcome State Fault Refusal := onDev (Dev.issue (0x30, 1) Dev.miBody st) s
/-- MOVE_BOUND_LOAD (R71, R473). -/
def execMoveBoundLoad (st : Nat) (s : State) : Host.Outcome State Fault Refusal := onDev (Dev.issue (0x30, 2) Dev.miBody st) s
/-- MOVE_BOUND_SET (R71, R473). -/
def execMoveBoundSet (st : Nat) (s : State) : Host.Outcome State Fault Refusal := onDev (Dev.issue (0x30, 3) Dev.miBody st) s
/-- PREF (R64). -/
def execPref (st : Nat) (s : State) : Host.Outcome State Fault Refusal := onDev (Dev.issue (0x31, 0) Dev.miBody st) s
/-- SYNC_WAIT_ALL (R94). -/
def execSyncWaitAll (st : Nat) (s : State) : Host.Outcome State Fault Refusal := onDev (Dev.issue (0x50, 0) Dev.miBody st) s
/-- SYNC_ADD (R94). -/
def execSyncAdd (st : Nat) (s : State) : Host.Outcome State Fault Refusal := onDev (Dev.issue (0x50, 1) Dev.miBody st) s
/-- SYNC_SET (R94). -/
def execSyncSet (st : Nat) (s : State) : Host.Outcome State Fault Refusal := onDev (Dev.issue (0x50, 2) Dev.miBody st) s
/-- LOOP (R95, R96). -/
def execLoopMi (st : Nat) (s : State) : Host.Outcome State Fault Refusal := onDev (Dev.issue (0x51, 0) Dev.miBody st) s
/-- MARK_BEGIN (R447). -/
def execMarkBegin (st : Nat) (s : State) : Host.Outcome State Fault Refusal := onDev (Dev.issue (0x52, 0) Dev.miBody st) s
/-- MARK_END (R447). -/
def execMarkEnd (st : Nat) (s : State) : Host.Outcome State Fault Refusal := onDev (Dev.issue (0x52, 1) Dev.miBody st) s
/-- MARK_POINT (R447). -/
def execMarkPoint (st : Nat) (s : State) : Host.Outcome State Fault Refusal := onDev (Dev.issue (0x52, 2) Dev.miBody st) s
/-- HALT (R99). -/
def execHaltMi (st : Nat) (s : State) : Host.Outcome State Fault Refusal := onDev (Dev.issue (0x5F, 0) Dev.miBody st) s

end Sys2Proof.Machine
end

