-- ==== Sys2Proof/Machine/Krb.lean ====
section
/-! DEFINITION. Kerb commands as a `KRB` issues them (R132 to R139, R159): their form, their operands, delivery to the
queues of the engines named, and what a delivery that holds resumes with. -/

namespace Sys2Proof.Machine

/-- Fields of a command (R135, R149 to R156). -/
def KCmd.f (c : KCmd) (o n : Nat) : Nat := fld c.raw o n
def KCmd.kop (c : KCmd) : Nat := c.f 0 1
def KCmd.kvar (c : KCmd) : Nat := c.f 1 1
def KCmd.fence (c : KCmd) : Bool := bit (c.f 2 1) 0
def KCmd.deal (c : KCmd) : Bool := bit (c.f 2 1) 1
def KCmd.cls (c : KCmd) : Nat := bits (c.f 2 1) 3 2
def KCmd.chunk (c : KCmd) : Nat := if bit (c.f 8 2) 15 then 0 else c.f 10 2
def KCmd.ten? (c : KCmd) (k : Nat) : Option Tensor := c.tens.getD k none
def KCmd.ten (c : KCmd) (k : Nat) : Tensor := (c.ten? k).getD {}

/-- The lane of an operation (R131): 0 scan, 1 arithmetic, 2 move. -/
def kLane (kop : Nat) : Nat := match kop with | 1 => 0 | 2 | 3 | 5 => 1 | _ => 2

/-- Commands that divide by ownership (R142). -/
def KCmd.owned (c : KCmd) : Bool := c.kop == 5 || c.kop == 6 || c.kop == 7 || (c.kop == 4 && c.kvar == 3)

/-- Whether a command is a `KGATH` fill (R154). -/
def KCmd.fills (c : KCmd) : Bool := c.kop == 4 && c.kvar == 3

/-- Commands with a result word (R146, R149, R154). -/
def kResult (kop kvar : Nat) : Bool := kop == 1 || (kop == 4 && kvar != 2)

/-- Descriptor fields of an operation (R149 to R155). -/
def kFields (kop kvar : Nat) : List (Nat × DescUse) :=
  match kop with
  | 1 => [(12, .must), (14, .must), (16, .must), (18, .opt), (20, .opt)]
  | 2 => [(12, .must), (14, .must)]
  | 3 => [(12, .must), (14, .opt), (16, .must), (18, .opt), (20, .opt), (22, .opt)]
  | 4 => [(12, if kvar == 3 then .no else .must), (14, .must), (16, if kvar == 2 then .no else .must)]
  | 5 => [(12, .must)]
  | _ => []

/-- Progress objects of a command over e engines (R145): one cluster, all listed. -/
def progressOk (p : Program) (raw : List Byte) (e : Nat) : Bool :=
  let f := fld raw 8 2
  let o := f % 2 ^ 14
  !bit f 14 && (if bit f 15 then zeros raw 10 2
    else fld raw 10 2 != 0 && (List.range e).all (fun r => p.lists (o + r)) && o / 512 == (o + e - 1) / 512)

/-- Whether a command of a list is well formed, its shapes aside (R13, R135, R136, R142, R146, R149 to R156).
Log 90 (DEDUCED). -/
def kcmdOk (p : Program) (raw : List Byte) (e : Nat) : Bool :=
  let kop := fld raw 0 1
  let v := fld raw 1 1
  let cls := bits (fld raw 2 1) 3 2
  let br := fld raw 3 1
  let sm := fld raw 4 2 / 2 ^ 14
  let own := kop == 5 || (kop == 4 && v == 3)
  1 ≤ kop && kop ≤ 5 && v < (match kop with | 1 => 2 | 2 | 4 => 4 | _ => 1)
    && fld raw 2 1 / 16 == 0 && (cls == 0 || (cls == 1 && kop == 4 && v == 3)) && (!own || !bit (fld raw 2 1) 1)
    && (if bit br 7 then kResult kop v else br == 0) && sm != 3 && (sm == 0 || p.lists (fld raw 4 2 % 2 ^ 14))
    && progressOk p raw e && (kFields kop v).all (fun x => descOk p raw x.2 x.1)
    && (match kop with
      | 1 => 1 ≤ fld raw 22 2 && fld raw 22 2 ≤ 256 && fld raw 24 2 ≤ 64 && zeros raw 26 38
      | 2 => (v < 2 || zeros raw 16 4) && zeros raw 20 44
      | 3 => fld raw 24 8 < 2 ^ 48 && fld raw 24 8 % 64 == 0 && fld raw 36 1 ≤ 1 && zeros raw 37 27
      | 4 => (if v == 2 then zeros raw 18 1 else 1 ≤ fld raw 18 1 && fld raw 18 1 ≤ 5) && zeros raw 19 45
      | _ => fld raw 14 2 < p.ctSlots && fld raw 16 1 ≤ 2 && zeros raw 17 47)

/-- What a command may name (R103, R132): not the core-buffer window, 1 MiB for each of 384 cores, and not the control and
status space. Log 91 (DEDUCED). -/
def kReach (a : Nat) : Bool := !(coreBase ≤ a && a < coreBase + 384 * 2 ^ 20) && a < 0x7F0000000000

/-- Whether every row of an operand lies where a command may reach (R132). -/
def kReaches (t : Tensor) : Bool :=
  let far := T.spanEnd t
  (t.base < 0x7F0000000000 && far ≤ 0x7F0000000000)
    && (far ≤ coreBase || coreBase + 384 * 2 ^ 20 ≤ t.base
      || (coordsOf (t.ext.drop 1)).all (fun c => (t.runs c 0 (t.e 0)).all (fun r => kReach r.1 && kReach (r.1 + r.2 - 1))))

/-- The statistics form of R213 for records of `KRED` mode 1 (R151). -/
def recOk (t : Tensor) : Bool := t.dtype == .uint32 && t.comp == 0 && t.imm.getD 0 false && t.e 0 == 4

/-- Shapes and formats of a command's operands (R134, R149, R151, R152, R154, R155, R226, R276). -/
def kshapeOk (c : KCmd) : Bool :=
  let plain (t : Tensor) (dt : DType) : Bool := t.dtype == dt && t.comp == 0
  match c.kop with
  | 1 =>
    let (qs, ks, pl) := (c.ten 0, c.ten 1, c.ten 2)
    plain qs .bf16 && plain ks .bf16 && plain pl .uint32 && qs.e 0 == 128 && ks.e 0 == 128 && ks.e 1 ≤ 16384
      && pl.e 1 == qs.e 1 && c.f 22 2 + c.f 24 2 ≤ pl.e 0
      && (c.ten? 3).all (fun t => plain t .uint32 && t.rank == 2 && c.f 24 2 ≤ t.e 0 && (t.e 1 == 1 || t.e 1 == qs.e 1))
      && (c.ten? 4).all (fun t => plain t .uint8 && t.rank == 1 && ks.e 1 ≤ t.e 0)
  | 2 =>
    let (d, s) := (c.ten 0, c.ten 1)
    match c.kvar with
    | 0 => s.dtype.isFp && s.comp == 0 && statsOk d s (c.f 16 4)
    | 1 => recOk s && recOk d && d.e 5 == 1 && (List.range' 1 4).all (fun k => d.e k == s.e (k + 1))
    | _ => (s.dtype == .fp32 || s.dtype == .bf16) && s.comp == 0 && d.dtype.isFp && d.comp == 0 && s.rank == d.rank + 1
        && (List.range d.rank).all (fun k => s.e k == d.e k)
  | 3 =>
    let d := c.ten 0
    (c.tens.filterMap id).all (fun t => t.dtype.isFp && t.comp == 0) && (c.ten? 1).all (fun t => t.ext == d.ext)
      && ((c.tens.drop 2).filterMap id).all (fun t => (List.range 6).all (fun k => t.e k == d.e k || t.e k == 1))
  | 4 =>
    let (d, s) := (c.ten 0, c.ten 1)
    let sel := c.f 18 1
    (c.kvar == 3 || (d.dtype == s.dtype && d.comp == s.comp))
      && (match c.kvar with
        | 2 => d.ext == s.ext
        | 3 => true
        | _ => (List.range 6).all (fun k => k == sel || d.e k == s.e k))
      && (c.ten? 2).all (fun t => plain t .uint32 && t.rank == 1
          && (c.kvar == 3 || t.e 0 ≤ (if c.kvar == 0 then d else s).e sel))
  | _ => c.f 16 1 == 2 || (c.ten 0).dtype.isFp

/-- A command of a list read, checked and its operands resolved (R134, R137, R159, R170). -/
def readKcmd (i : Nat) (p : Program) (adv : Nat → Int) (engs : List Nat) (a : Nat) : M KCmd := do
  M.need (inScratch a && ((← get).canon a).isSome) .kerb
  let raw ← readCtl a 64
  M.need (kcmdOk p raw engs.length) .kerb
  let tens ← (kFields (fld raw 0 1) (fld raw 1 1)).mapM (fun x =>
    match descIdx raw x.1 with
    | none => pure none
    | some j => do
      let t ← resolve i p adv .kerb j
      M.need (kReaches t && (List.range 6).all (fun k => t.e k ≤ t.a k)) .kerb
      pure (some t))
  let pr := if fld raw 0 1 == 3 then p.addr (fld raw 24 8) else 0
  M.need (kReach pr && kReach (pr + 127)) .kerb
  let c : KCmd := { ctx := i, addr := a, raw := raw, tens := tens, engs := engs, left := engs, prog := pr }
  M.need (kshapeOk c) .kerb
  pure c

namespace Dev

/-- Whether an engine takes the commands of a `KRB` (R159, R163). -/
def engineReady (d : Dev) (s : Nat) : Bool := s < d.nStacks && (d.eng s).svc == .inService && (d.stack s).st == 0

/-- Queue entries a context holds in an engine (R139). -/
def entriesOf (d : Dev) (i s : Nat) : Nat :=
  ((d.eng s).queue.filter (fun e => (aget d.kcmds e.cmd).any (fun c => c.ctx == i))).length

/-- The commands of a list, or the index, class and information of the first that fails (R159, R421).
Log 95 (DEDUCED). -/
def readKrb (i st : Nat) (raw : List Byte) (d : Dev) : Except (Nat × FClass × Nat) (List KCmd) × Dev :=
  let p := d.progOf i
  let engs := (List.range 8).filter (bit (fld raw 8 1))
  let list := p.addr (fld raw 16 8)
  let adv := loopAdv (d.streamOf i st)
  (List.range (fld raw 10 2)).foldl (fun (r : Except (Nat × FClass × Nat) (List KCmd) × Dev) k =>
    match r.1 with
    | .error e => (.error e, r.2)
    | .ok l =>
      match (readKcmd i p adv engs (list + 64 * k)).run.run r.2 with
      | (.ok c, d) => (.ok (l ++ [{ c with idx := k }]), d.noteDescs i st ((c.tens.filterMap id).map (fun t => t.idx)))
      | (.error (.fault cls info), d) => (.error (k, cls, if cls == .kerb then list + 64 * k else info), d)) (.ok [], d)

/-- A command delivered to the queue of every engine named (R137). An engine a fence has stopped takes nothing, nor one
that is `DISABLED` by then. Log 96 (DEDUCED), 162 (DESIGN CHOICE). -/
def deliverCmd (id : Nat) (c : KCmd) (d : Dev) : Dev :=
  { d with kerb := d.kerb.zipIdx.map (fun (p : KEngine × Nat) =>
      if c.engs.contains p.2 && p.1.svc != .disabled then
        { p.1 with queue := p.1.queue ++ [{ cmd := id, lane := kLane c.kop }] }
      else p.1) }

/-- Commands of a `KRB` delivered in list order while every claim has room (R139). -/
def deliver : Nat → Nat → Dev → Dev
  | 0, _, d => d
  | n + 1, mi, d =>
    match d.mis.find? (fun m => m.id == mi) with
    | none => d
    | some m =>
      match m.kleft with
      | [] => d
      | id :: rest =>
        match aget d.kcmds id with
        | none => d
        | some c =>
          if c.engs.any (fun s => nth (d.progOf m.ctx).kqEntries s ≤ d.entriesOf m.ctx s) then d
          else deliver n mi ((d.deliverCmd id c).setMi mi (fun x => { x with kleft := rest }))

/-- Delivery as far as it goes: the stream moves on when the last command is delivered (R138), else it holds. -/
def deliverOn (i st mi : Nat) (d : Dev) : Dev :=
  let d := deliver 64 mi d
  match d.mis.find? (fun m => m.id == mi) with
  | none => d
  | some m =>
    if m.kleft.isEmpty then d.moveOn i st 1
    else if (d.streamOf i st).hold == .krb then d
    else d.holdAt i st [] .krb true

/-- `KRB` after its wait (R137, R139, R159). -/
def krbBody (i st : Nat) (raw : List Byte) (d : Dev) : Dev :=
  let engs := (List.range 8).filter (bit (fld raw 8 1))
  let p := d.progOf i
  let list := p.addr (fld raw 16 8)
  if engs.any (fun s => !d.engineReady s || nth p.kqEntries s < fld raw 10 2) then
    d.faultCtx i .kerb st 0 (d.miOff i st) list
  else match d.readKrb i st raw with
    | (.error (k, cls, info), d) => d.faultCtx i cls st k (d.miOff i st) info
    | (.ok cs, d) =>
      let mi := d.fresh + 1
      let off := d.miOff i st
      let ids := (List.range cs.length).map (fun k => mi + 1 + k)
      let m : InFlight :=
        { id := mi, ctx := i, st := st, off := off, raw := raw, kcmds := ids, kleft := ids
          marks := (d.streamOf i st).marks, issuedNs := d.now }
      let d := { d with
        fresh := mi + cs.length, mis := d.mis ++ [m]
        kcmds := (ids.zip cs).foldl (fun l (x : Nat × KCmd) =>
          aset l x.1 { x.2 with id := x.1, mi := mi, st := st, off := off }) d.kcmds }
      (d.noteIssue i st 0 raw).deliverOn i st mi

/-- The body of any class. -/
def anyBody (i st : Nat) (raw : List Byte) (d : Dev) : Dev :=
  if miOpc raw == 0x40 then d.krbBody i st raw else d.miBody i st raw

/-- A stream held at issue tests its hold again, waits in the order of their arrival (R92), and, when that has ended, issues
the macro-instruction it holds, its operands read then (R53, R90, R97, R209, R274). A hold that stands changes nothing.
Log 66 (DEDUCED). -/
def resume (st : Nat) (h : Hold) (d : Dev) : Dev :=
  match d.atIssue st h with
  | none => d
  | some (i, x) =>
    let go (d' : Dev) : Dev :=
      let r := d'.anyBody i st x.raw
      if (r.ctx i).st == .running && { r.streamOf i st with since := x.since } == x then d else r
    if h == .wait && d.earlierWait i st x.since (waitObjs x.met x.raw) then d
    else if miOpc x.raw == 0x5F && d.mis.any (fun m => m.ctx == i && m.st == st) then d
    else if x.met then go d
    else match headerWait i x.raw d with
      | none => d
      | some d' => go d'

end Dev

/-- KRB (R137 to R139, R159). -/
def execKrb (st : Nat) (s : State) : Host.Outcome State Fault Refusal := onDev (Dev.issue (0x40, 0) Dev.krbBody st) s

/-- ISSUE_WAIT_SATISFIED (R90, R94): the wait of a stream held at issue is tested again. -/
def execIssueWaitSatisfied (st : Nat) (s : State) : Host.Outcome State Fault Refusal := onDev (Dev.resume st .wait) s

/-- LUT_RELOAD_HOLD_RELEASE (R209). -/
def execLutReloadHoldRelease (st : Nat) (s : State) : Host.Outcome State Fault Refusal := onDev (Dev.resume st .lut) s

/-- KRB_DELIVERY_RESUME (R139): a delivery that held goes on, whatever stop or yield waits for its stream: the stream is
within the macro-instruction (R138). -/
def execKrbDeliveryResume (st : Nat) (s : State) : Host.Outcome State Fault Refusal :=
  onDev (fun d =>
    let i := d.executing
    if i == 0 || (d.ctx i).st != .running || (d.streamOf i st).hold != .krb || 32 ≤ st then d
    else match d.mis.find? (fun m => m.ctx == i && m.st == st && !m.kleft.isEmpty) with
      | none => d
      | some m => d.deliverOn i st m.id) s

end Sys2Proof.Machine
end

