-- ==== Sys2Proof/Machine/KerbOps.lean ====
section
/-! DEFINITION. What Kerb commands compute (R149 to R155, R184, R185, R225 to R228, R276 to R278): one share of one command
in one engine. Results of an item are written after everything it reads (R147). -/

namespace Sys2Proof.Machine

/-- Bytes read by a Kerb engine (R113, R132), each with the poisoned line it comes from. -/
def kBytes (cls a n : Nat) : M Ab := do
  match (← get).unbacked a n with
  | some x => M.fail .address x
  | none =>
    let (r, d) := (← get).kerbFetch cls a n
    set d
    pure (annotate a r.1 r.2)

/-- Bytes used: poison is consumed (R160). -/
def kUse (b : Ab) : M (List Byte) :=
  match b.findSome? Prod.snd with
  | some l => M.fail .poison l
  | none => pure (b.map Prod.fst)

/-- Elements of byte-wide formats as codes. -/
def codesOf (t : Tensor) (b : List Byte) : List Nat := (unpack t.eb (b.map (fun x => (x, none)))).map Prod.fst

/-- Codes and exact values of elements [lo, hi) of a row (R134). -/
def kWords (t : Tensor) (c : List Nat) (lo hi : Nat) : M (List Nat) := do
  if hi ≤ lo then pure []
  else return codesOf t (← kUse (← kBytes 0 (t.row c + lo * t.eb / 8) ((hi - lo) * t.eb / 8)))
def kVals (t : Tensor) (c : List Nat) (lo hi : Nat) : M (List FV) := do return (← kWords t c lo hi).map t.dtype.elem

/-- A write of a command: address, bytes, poisoned lines. -/
abbrev KWr := Nat × List Byte × List Nat

/-- The writes of an item, their addresses checked before any is made (R69). -/
def kPut (cls : Nat) (l : List KWr) : M Unit := do
  let d ← get
  match l.findSome? (fun w => d.unbacked w.1 w.2.1.length) with
  | some x => M.fail .address x
  | none => modify (fun d => l.foldl (fun d (w : KWr) => d.kerbStore cls w.1 w.2.1 (fun n => w.2.2.contains n)) d)

/-- Codes written to elements [lo, …) of a row. -/
def kRow (t : Tensor) (c : List Nat) (lo : Nat) (v : List Nat) : KWr := (t.row c + lo * t.eb / 8, pack t.eb v, [])

/-- A number cut into digits of the radices given, the first fastest. -/
def digits : List Nat → Nat → List Nat
  | [], _ => []
  | r :: rs, n => n % r :: digits rs (n / r)

/-- Items of a command divided by count (R141, R149, R151, R152, R154). -/
def KCmd.count (c : KCmd) : Nat :=
  let d := c.ten 0
  let s := c.ten 1
  match c.kop with
  | 1 => d.e 1
  | 2 => match c.kvar with
    | 0 => d.e 1 * prodOf (s.ext.drop 1)
    | 1 => prodOf (s.ext.drop 2)
    | _ => cdiv (d.e 0) 512 * prodOf (d.ext.drop 1)
  | 3 => cdiv (d.e 0) 512 * prodOf (d.ext.drop 1)
  | 4 => if c.kvar == 2 then cdiv (d.e 0) (moveTile d) * prodOf (d.ext.drop 1) else (c.ten 2).e 0
  | _ => 0

/-- The share of an engine (R141). -/
def KCmd.share (c : KCmd) (s : Nat) : List Nat :=
  let e := c.engs.length
  let r := (c.engs.filter (fun x => x < s)).length
  let n := c.count
  if c.deal then (List.range n).filter (fun i => i % e == r)
  else List.range' (r * n / e) ((r + 1) * n / e - r * n / e)

/-- A share worked item by item: items done, and the largest or the sum of what they give to the result word. -/
def eachItem (big : Bool) (l : List Nat) (f : Nat → M Nat) : M (Nat × Nat) := do
  l.foldlM (fun (r : Nat × Nat) k => do
    let v ← f k
    pure (r.1 + 1, if big then Nat.max r.2 v else r.2 + v)) (0, 0)

/-- A Kerb buffer word lost to an uncorrectable error poisons its line, which an arithmetic command consumes (R160); the
spec does not say which line: a free value. Log 94 (DESIGN CHOICE). -/
def bufLost (lost : Bool) : M Unit := do
  if lost then
    let n := Config.freeNat (← get).fresh
    modify Dev.bump
    M.fail .poison n

/-- A score (R149). -/
def kscore (q k : List FV) : FV := (q.zip k).foldl (fun a p => rne32 (a.add (p.1.mul p.2))) .zero

/-- The order of R227: score, then distance from the aligned page, then page; smaller first. -/
def kBefore (x y : FV × Nat × Nat) : Bool :=
  let c := FV.cmp x.1 y.1
  c == 1 || (c == 0 && (x.2.1 < y.2.1 || (x.2.1 == y.2.1 && x.2.2 ≤ y.2.2)))

/-- The pins of a query block (R226, R227). Log 89 (DEDUCED). -/
def kPins (c : KCmd) (q : Nat) (a : Int) (np : Nat) : M (List Nat) := do
  match c.ten? 3 with
  | none => pure []
  | some t =>
    let ws ← kWords t [if 1 < t.e 1 then q else 0] 0 (c.f 24 2)
    M.need (ws.all (fun w => w == 0xFFFFFFFF || !bit w 31 || bits w 30 16 == 0)) .kerb
    pure (ws.foldl (fun l w =>
      if w == 0xFFFFFFFF then l
      else
        let pg : Int := if bit w 31 then a + sgn 16 w else (w : Int)
        if pg < 0 || (np : Int) ≤ pg || (bit c.kvar 0 && a < pg) || l.contains pg.toNat then l else l ++ [pg.toNat]) [])

/-- The page summaries that `KSCAN` loads into the Kerb buffer as it starts (R149, R150). -/
def kscanLoad (c : KCmd) : M Ab := do
  let ks := c.ten 1
  return (← (List.range (ks.e 1)).mapM (fun p => kBytes 0 (ks.row [p]) 256)).flatten

/-- `KSCAN` (R149, R225 to R228). Log 89 (DEDUCED). -/
def kscanBody (c : KCmd) (buf : Ab) (l : List Nat) (lost : Option Nat) : M (Nat × Nat) := do
  let (qs, ks, pl) := (c.ten 0, c.ten 1, c.ten 2)
  let np := ks.e 1
  let pages := chunks 256 buf
  let dec (b : Ab) : List FV := (codesOf ks (b.map Prod.fst)).map ks.dtype.elem
  let pv := pages.map dec
  eachItem true l (fun q => do
    bufLost (lost == some q)
    let a : Int := (np : Int) - (qs.e 1 : Int) + (q : Int)
    let pins ← kPins c q a np
    let valid ← (match c.ten? 4 with
      | none => pure []
      | some t => kWords t [] 0 np : M (List Nat))
    let cand := (List.range np).filter (fun p => !pins.contains p && !(bit c.kvar 0 && a < (p : Int)))
    let qb ← kBytes 0 (qs.row [q]) 256
    let qv := dec qb
    let keys ← cand.mapM (fun p => do
      let s ← (if (valid.getD p 1) % 2 == 0 then pure (FV.inf false)
        else do
          let _ ← kUse qb
          let _ ← kUse (pages.getD p [])
          let s := kscore qv (pv.getD p [])
          pure (if s.isNan then FV.inf true else s) : M FV)
      pure (s, ((p : Int) - a).natAbs, p))
    let chosen := ((keys.mergeSort kBefore).take (c.f 22 2)).map (fun k => k.2.2)
    let out := (pins ++ chosen).mergeSort (fun x y => x ≤ y)
    kPut 0 [kRow pl [q] 0 (out ++ List.replicate (pl.e 0 - out.length) 0xFFFFFFFF)]
    pure out.length)

/-- A record folded into another; past the word it is a `KERB` fault (R216). -/
def kStat (s : Option T.Stat) : M (List Nat) :=
  match s with
  | some s => pure (T.statWords s)
  | none => M.fail .kerb 0

/-- `KRED` mode 0 (R151, R215). -/
def kredStat (c : KCmd) (l : List Nat) (lost : Option Nat) : M (Nat × Nat) := do
  let (d, s) := (c.ten 0, c.ten 1)
  let g := c.f 16 4
  eachItem false l (fun k => do
    bufLost (lost == some k)
    let i := digits (d.e 1 :: s.ext.drop 1) k
    let lo := nth i 0 * g
    let hi := if g == 0 then s.e 0 else Nat.min (lo + g) (s.e 0)
    let w ← kStat (T.groupStat ((← kVals s (i.drop 1) lo hi).map toF32))
    kPut 0 [kRow d (i.take 5) 0 w]
    pure 0)

/-- `KRED` mode 1 (R151, R216). -/
def kredComb (c : KCmd) (l : List Nat) (lost : Option Nat) : M (Nat × Nat) := do
  let (d, s) := (c.ten 0, c.ten 1)
  eachItem false l (fun k => do
    bufLost (lost == some k)
    let i := digits (s.ext.drop 2) k
    let rs ← (List.range (s.e 1)).mapM (fun p => kWords s (p :: i) 0 4)
    let st := rs.foldl (fun (a : Option T.Stat) w =>
      a.bind (fun a => T.combine a ⟨nth w 0, f32n (nth w 1), f32n (nth w 2)⟩)) (some ⟨0, .zero, .zero⟩)
    kPut 0 [kRow d i 0 (← kStat st)]
    pure 0)

/-- `KRED` modes 2 and 3 (R151). Log 90 (DEDUCED). -/
def kredFold (c : KCmd) (op : FV → FV → FV) (zero : FV) (l : List Nat) (lost : Option Nat) : M (Nat × Nat) := do
  let (d, s) := (c.ten 0, c.ten 1)
  eachItem false l (fun k => do
    bufLost (lost == some k)
    let i := digits (cdiv (d.e 0) 512 :: d.ext.drop 1) k
    let lo := 512 * nth i 0
    let hi := Nat.min (lo + 512) (d.e 0)
    let vs ← (List.range (s.e d.rank)).mapM (fun x => kVals s ((i.drop 1).set (d.rank - 1) x) lo hi)
    let r := fold1 (fun a b => a.zipWith op b) (List.replicate (hi - lo) zero) vs
    kPut 0 [kRow d (i.drop 1) lo (r.map (d.dtype.encodeScalar .ne))]
    pure 0)

/-- An operation word of `KSTREAM` (R153). -/
def wOp (w : Nat) : Nat := bits w 7 0
def wDst (w : Nat) : Nat := bits w 11 8
def wA (w : Nat) : Nat := bits w 15 12
def wB (w : Nat) : Nat := bits w 19 16
def wC (w : Nat) : Nat := bits w 23 20

/-- The words of a program block, those up to its end, and whether it is well formed (R153). -/
def kprogAll (b : List Byte) : List Nat := (List.range 16).map (fun k => fld b (4 * k) 4)
def kprogWords (b : List Byte) : List Nat := (kprogAll b).takeWhile (fun w => wOp w != 0)
def kprogOk (c : KCmd) (all ws : List Nat) : Bool :=
  (all.find? (fun w => wOp w == 0)).all (fun w => w / 2 ^ 24 == 0) && ws.all (fun w => 1 ≤ wOp w && wOp w ≤ 0x0E && w / 2 ^ 24 == 0
      && (wOp w != 1 || (wA w < 4 && (c.ten? (2 + wA w)).isSome)) && (wOp w != 2 || (c.ten? (wDst w)).isSome && wDst w < 2))
    && (List.range 2).all (fun k => (ws.filter (fun w => wOp w == 2 && wDst w == k)).length ≤ 1)

/-- Registers, outputs and the number of `RAND`s so far of one element. -/
abbrev KElem := List FV × AMap FV × Nat

/-- One operation on one element (R153, R178, R185). -/
def kstreamOp (consts ins : List FV) (seed : BitVec 64) (salt : BitVec 32) (co : List Nat) (x : KElem) (w : Nat) : KElem :=
  let r (k : Nat) : FV := x.1.getD k .zero
  let a := r (wA w)
  let b := r (wB w)
  let put (v : FV) : KElem := (x.1.set (wDst w) v, x.2)
  match wOp w with
  | 0x01 => put (ins.getD (wA w) .zero)
  | 0x02 => (x.1, aset x.2.1 (wDst w) a, x.2.2)
  | 0x03 => put (consts.getD (wA w) .zero)
  | 0x04 => put (addr32 a b)
  | 0x05 => put (subr32 a b)
  | 0x06 => put (mulr32 a b)
  | 0x07 => put (fma32 a b (r (wC w)))
  | 0x08 => put (FV.min a b)
  | 0x09 => put (FV.max a b)
  | 0x0A => put a.abs
  | 0x0B => put a.neg
  | 0x0C => put (if a.isZero then r (wC w) else b)
  | 0x0D => put (if FV.lt a b then FV.one else FV.zero)
  | 0x0E =>
    let h := srWord seed (salt + 1 + BitVec.ofNat 32 x.2.2) co
    (x.1.set (wDst w) ((FV.ofNat (h.toNat / 2 ^ 8)).scale (-24)), x.2.1, x.2.2 + 1)
  | _ => x

/-- The program block of `KSTREAM`, read and checked as the command starts in an engine (R152, R153): in each engine that has a
share, at that engine's own start. One with an empty share reads no program, and a malformed one faults nothing there.
Log 156 (DESIGN CHOICE). -/
def kstreamLoad (c : KCmd) : M Ab := do
  let blk ← kBytes 0 c.prog 128
  let b ← kUse blk
  M.need (kprogOk c (kprogAll b) (kprogWords b)) .kerb
  pure blk

/-- `KSTREAM` (R152, R153, R185). -/
def kstreamBody (c : KCmd) (buf : Ab) (l : List Nat) (lost : Option Nat) : M (Nat × Nat) := do
  let d := c.ten 0
  let blk := buf.map Prod.fst
  let ws := kprogWords blk
  let consts := (List.range 16).map (fun k => f32n (fld blk (64 + 4 * k) 4))
  let seed := ((← get).progOf c.ctx).srSeed
  let salt := BitVec.ofNat 32 (c.f 32 4)
  eachItem false l (fun k => do
    bufLost (lost == some k)
    let i := digits (cdiv (d.e 0) 512 :: d.ext.drop 1) k
    let lo := 512 * nth i 0
    let hi := Nat.min (lo + 512) (d.e 0)
    let co := i.drop 1
    let ins ← (List.range 4).mapM (fun j => match c.ten? (2 + j) with
      | none => pure []
      | some t => if !ws.any (fun w => wOp w == 1 && wA w == j) then pure []
        else if t.e 0 == 1 && d.e 0 != 1 then do
          return List.replicate (hi - lo) ((← kVals t (T.bcRow t d co) 0 1).headD .nan)
        else kVals t (T.bcRow t d co) lo hi)
    let outs := (List.range (hi - lo)).map (fun e =>
      (ws.foldl (kstreamOp consts (ins.map (fun v => v.getD e .zero)) seed salt ((lo + e) :: co))
        (List.replicate 16 FV.zero, [], 0)).2.1)
    let wr (j : Nat) : List KWr := match c.ten? j with
      | none => []
      | some t => if !ws.any (fun w => wOp w == 2 && wDst w == j) then []
        else
          let sj := if j == 0 then salt else salt ^^^ 0x80000000#32
          [kRow t co lo (outs.zipIdx.map (fun x =>
            t.dtype.encodeScalar (rndOf (c.f 36 1 == 1) seed sj ((lo + x.2) :: co)) ((aget x.1 j).getD .zero)))]
    kPut 0 (wr 0 ++ wr 1)
    pure 0)

/-- The stored bytes of elements [lo, hi) of a row (R134): a compressed row keeps its block slots whole. -/
def storedRuns (t : Tensor) (c : List Nat) (lo hi : Nat) : List (Nat × Nat) :=
  if t.comp == 3 then
    let a := lo * t.eb / 8
    if hi ≤ lo then [] else [(t.row c + a, if t.e 0 ≤ hi then t.rb - a else (hi - lo) * t.eb / 8)]
  else t.runs c lo hi

/-- One of n things, open which: a free value. Log 94 (DESIGN CHOICE). -/
def freePick (lost : Bool) (n : Nat) : M (Option Nat) := do
  if lost && n != 0 then
    let k := Config.freeNat (← get).fresh % n
    modify Dev.bump
    return some k
  else return none

/-- A copy of stored bytes, poison carried (R128, R160); a lost buffer word poisons its line alone, one of those written. -/
def kCopy (cls : Nat) (s d : List (Nat × Nat)) (lost : Bool) : M Unit := do
  let ws ← (s.zip d).mapM (fun x => do
    let n := Nat.min x.1.2 x.2.2
    let b ← kBytes cls x.1.1 n
    let bad := (b.zipIdx.filter (fun p => p.1.2.isSome)).map (fun p => (x.2.1 + p.2) / 64)
    pure ((x.2.1, b.map Prod.fst, bad.eraseDups) : KWr))
  let lines := (ws.flatMap (fun w => List.range' (w.1 / 64) ((w.1 + w.2.1.length + 63) / 64 - w.1 / 64))).eraseDups
  let k ← freePick lost lines.length
  kPut cls (ws.map (fun w => (w.1, w.2.1, w.2.2 ++ (k.map (fun k => nth lines k)).toList)))

/-- Rows of a slice: coordinates of dims 1 to 5 with dimension `sel` at `x`. -/
def sliceRows (t : Tensor) (sel x : Nat) : List (List Nat) :=
  (coordsOf ((t.ext.drop 1).set (sel - 1) 1)).map (fun c => c.set (sel - 1) x)

/-- `KGATH` variants 0 and 1 (R154). Log 92 (DEDUCED). -/
def kgathBody (c : KCmd) (l : List Nat) (lost : Option Nat) : M (Nat × Nat) := do
  let (d, s, ix) := (c.ten 0, c.ten 1, c.ten 2)
  let sel := c.f 18 1
  let gather := c.kvar == 0
  eachItem false l (fun j => do
    let x := nth (← kWords ix [] j (j + 1)) 0
    if x == 0xFFFFFFFF then pure 0
    else
      M.need (x < (if gather then s else d).e sel) .kerb
      let runs (t : Tensor) (k : Nat) : List (Nat × Nat) := (sliceRows t sel k).flatMap (fun r => storedRuns t r 0 (t.e 0))
      kCopy 0 (runs s (if gather then x else j)) (runs d (if gather then j else x)) (lost == some j)
      pure 1)

/-- `KGATH` variant 2 (R154). Log 92 (DEDUCED). -/
def kgathMove (c : KCmd) (l : List Nat) (lost : Option Nat) : M (Nat × Nat) := do
  let (d, s) := (c.ten 0, c.ten 1)
  let w := moveTile d
  eachItem false l (fun k => do
    let i := digits (cdiv (d.e 0) w :: d.ext.drop 1) k
    let lo := w * nth i 0
    let hi := Nat.min (lo + w) (d.e 0)
    kCopy 0 (storedRuns s (i.drop 1) lo hi) (storedRuns d (i.drop 1) lo hi) (lost == some k)
    pure 0)

/-- Whether the granule of a device address maps to a stack (R142). -/
def Dev.ownedBy (d : Dev) (s a : Nat) : Bool :=
  match d.canon (a / 4096 * 4096) with
  | some k => Dev.isStk k && Dev.stkOf k == s
  | none => false

/-- Index entries up to the first out of range, and whether one was (R154). -/
def entriesUpTo (limit : Nat) : List Nat → List Nat × Bool
  | [] => ([], false)
  | x :: xs => if x != 0xFFFFFFFF && limit ≤ x then ([], true) else let r := entriesUpTo limit xs; (x :: r.1, r.2)

/-- What `KGATH` variant 3 finds in its index as it starts (R142, R154): the lines of the slices in the engine's granules, in
ascending order, the entries it does not skip, and whether one is out of range. Log 92 (DEDUCED). -/
def kgathLines (c : KCmd) (s : Nat) : M (List Nat × Nat × Bool) := do
  let (t, ix) := (c.ten 1, c.ten 2)
  let sel := c.f 18 1
  let ws ← kWords ix [] 0 (ix.e 0)
  let (es, bad) := entriesUpTo (t.e sel) ws
  let es := es.filter (fun x => x != 0xFFFFFFFF)
  let lines := (es.eraseDups.flatMap (fun x => (sliceRows t sel x).flatMap (fun r => (storedRuns t r 0 (t.e 0)).flatMap (fun y =>
    List.range' (y.1 / 64) ((y.1 + y.2 + 63) / 64 - y.1 / 64))))).eraseDups
  let d ← get
  match lines.find? (fun l => (d.canon (64 * l)).isNone) with
  | some l => M.fail .address (64 * l)
  | none => pure ((lines.filter (fun l => d.ownedBy s (64 * l))).mergeSort (fun x y => x ≤ y), es.length, bad)

/-- `KGATH` variant 3 (R154): lines read and installed clean, a lost buffer word poisoning its own; items are granules. Past the
last line an index out of range is a `KERB` fault. Log 92 (DEDUCED), 94 (DESIGN CHOICE). -/
def kgathFill (c : KCmd) (l : List Nat) (lost : Option Nat) (bad : Bool) : M (Nat × Nat) := do
  modify (fun d => l.foldl (fun d l =>
    match d.canon (64 * l) with
    | none => d
    | some k =>
      let home := Dev.homeOf k
      if (d.square home).g == 0 then d
      else
        let (v, d) := d.kerbLine c.cls (64 * l)
        d.install home (64 * l) v.1 (v.2 || lost == some l) false true) d)
  M.need (!bad) .kerb
  return (((l.map (fun l => l / 64)).eraseDups).length, 0)

/-- Blocks of a row as R276 cuts them: first element and length. -/
def survBlocks (r w n : Nat) : List (Nat × Nat) :=
  (List.range ((n + 31) / 32)).flatMap (fun b =>
    let lo := 32 * b
    let hi := Nat.min (lo + 32) n
    let cut := ((r + lo * w) / 4096 * 4096 + 4096 - r) / w
    if lo < cut && cut < hi then [(lo, cut - lo), (cut, hi - cut)] else [(lo, hi - lo)])

/-- Bins that one block adds to (R276). -/
def survBins (vs : List FV) : List Nat :=
  let a := amaxOf vs
  if vs.any (fun v => !v.isFin) || a.isZero then []
  else
    let e := max (-126) (min 127 a.expo)
    vs.map (fun v => Nat.min 4095 (((v.scale (-e)).add (.ofNat 2)).scale 10).floorNat)

/-- Counts added to a histogram. -/
def addBins (h l : List Nat) : List Nat := l.foldl (fun h i => h.modify i (· + 1)) h

/-- Addresses and bytes of the rows a survey covers in an engine: row base, first byte, length within the granules the
engine owns (R142, R276, R278). -/
def survPieces (d : Dev) (s a n : Nat) : List (Nat × Nat) :=
  (List.range ((a + n + 4095) / 4096 - a / 4096)).filterMap (fun i =>
    let g := a / 4096 + i
    let lo := Nat.max a (4096 * g)
    let hi := Nat.min (a + n) (4096 * g + 4096)
    if d.ownedBy s lo && lo < hi then some (lo, hi - lo) else none)

/-- `KSURV`'s histogram of the granules of one engine (R155, R276, R278): granules, bins. Log 93 (DEDUCED). -/
def ksurvScan (c : KCmd) (s : Nat) (lost : Bool) : M (Nat × List Nat) := do
  let t := c.ten 0
  let mode := c.f 16 1
  let w := t.dtype.bits / 8
  let n := if mode == 2 then t.rb else t.e 0 * w
  let rows := if t.e 0 == 0 then [] else (coordsOf (t.ext.drop 1)).map t.row
  let d ← get
  match rows.findSome? (fun r => d.unbacked r n) with
  | some x => M.fail .address x
  | none =>
    let parts := rows.flatMap (fun r => (survPieces d s r n).map (fun p => (r, p)))
    let gs := (parts.map (fun p => p.2.1 / 4096)).eraseDups
    bufLost (lost && !gs.isEmpty)
    let bins ← parts.mapM (fun p => do
      let b ← kUse (← kBytes 0 p.2.1 p.2.2)
      let o := p.2.1 - p.1
      if mode == 2 then
        let pw := planes t.dtype
        pure (b.zipIdx.map (fun x => 256 * ((o + x.2) % 4096 % pw) + x.1.toNat))
      else
        let vs := (codesOf { t with comp := 0 } b).map t.dtype.elem
        pure (((survBlocks p.1 w (t.e 0)).filter (fun k => o ≤ k.1 * w && k.1 * w < o + p.2.2)).flatMap (fun k =>
          survBins ((vs.drop (k.1 - o / w)).take k.2))))
    pure (gs.length, bins.flatten)

/-- Bin centres (R277). -/
def binCentre (i : Nat) : FV := (FV.ofInt (2 * (i : Int) + 1 - 4096)).scale (-11)

/-- One Lloyd–Max iteration (R277). -/
def lloyd (hist : List Nat) (lv : List FV) : List FV :=
  let t := (lv.zip (lv.drop 1)).map (fun p => rne32 ((p.1.add p.2).scale (-1)))
  lv.zipIdx.map (fun x =>
    let cell := (hist.zipIdx).filter (fun b =>
      let c := binCentre b.2
      (x.2 == 0 || FV.le (t.getD (x.2 - 1) .zero) c) && (x.2 + 1 == lv.length || FV.lt c (t.getD x.2 .zero)))
    if cell.all (fun b => b.1 == 0) then x.1
    else
      let s0 := cell.foldl (fun s b => addr32 s (rne32 (.ofNat b.1))) FV.zero
      let s1 := cell.foldl (fun s b => addr32 s (rne32 ((rne32 (.ofNat b.1)).mul (binCentre b.2)))) FV.zero
      rne32 (divx s1 s0))

/-- Initial levels (R277). -/
def initLevels (hist : List Nat) (nl n : Nat) : List FV :=
  let cum := (hist.foldl (fun (r : List Nat × Nat) c => (r.1 ++ [r.2 + c], r.2 + c)) ([], 0)).1
  (List.range nl).map (fun k => binCentre ((cum.zipIdx.find? (fun x => (2 * k + 1) * n ≤ x.1 * (2 * nl))).map Prod.snd |>.getD 0))

/-- Leaves and packages merged, leaves first among equals (R278). -/
def mergeItems : Nat → List (Nat × List Nat) → List (Nat × List Nat) → List (Nat × List Nat)
  | 0, _, _ => []
  | _ + 1, [], q => q
  | _ + 1, p, [] => p
  | f + 1, a :: p, b :: q => if a.1 ≤ b.1 then a :: mergeItems f p (b :: q) else b :: mergeItems f (a :: p) q

/-- Adjacent items packaged in pairs. -/
def packagePairs : List (Nat × List Nat) → List (Nat × List Nat)
  | a :: b :: t => (a.1 + b.1, a.2 ++ b.2) :: packagePairs t
  | _ => []

/-- Code lengths limited to 15 bits, by package-merge (R278). -/
def codeLengths (w : List Nat) : List Nat :=
  let leaves := (w.zipIdx.map (fun x => (x.1, [x.2]))).mergeSort (fun a b => a.1 < b.1 || (a.1 == b.1 && a.2.headD 0 ≤ b.2.headD 0))
  let last := (List.range 14).foldl (fun l _ => mergeItems 1024 leaves (packagePairs l)) leaves
  let picked := (last.take (2 * w.length - 2)).flatMap Prod.snd
  addBins (w.map (fun _ => 0)) picked

/-- The bank a survey writes (R270, R277, R278), its generation given. Log 93 (DEDUCED). -/
def survTable (mode gen samples : Nat) (dt : DType) (hist : List Nat) : List Byte :=
  let head (kind pl n : Nat) : List Byte := leBytes 1 kind ++ leBytes 1 pl ++ leBytes 2 gen ++ leBytes 4 0 ++ leBytes 8 n ++ leBytes 48 0
  if mode == 2 then
    let w := planes dt
    let lens := (List.range w).flatMap (fun p => codeLengths (((hist.drop (256 * p)).take 256).map (· + 1)))
    let nib := (List.range (128 * w)).map (fun i => BitVec.ofNat 8 (nth lens (2 * i) + 16 * nth lens (2 * i + 1)))
    head 3 w samples ++ nib ++ leBytes (960 - 128 * w) 0
  else
    let nl := if mode == 0 then 16 else 64
    let n := sumOf hist
    if n == 0 then head 0 0 0 ++ leBytes 960 0
    else
      let lv := (List.range 8).foldl (fun l _ => lloyd hist l) (initLevels hist nl n)
      head (mode + 1) 0 samples ++ lv.flatMap (fun v => leBytes 4 (f32bits v).toNat) ++ leBytes (960 - 4 * nl) 0

/-- What a command loads as it starts: into the Kerb buffer (R149, R152), or the lines of a fill with their count (R154). -/
structure KLoad where
  buf : Ab := []
  lines : List Nat := []
  count : Nat := 0
  bad : Bool := false

/-- The entry of a command that starts: what it has loaded, and the item at which a lost buffer word shows, a free one of its
share (R160). Log 94 (DESIGN CHOICE). -/
def KEntry.started (e : KEntry) (c : KCmd) (s : Nat) (ld : KLoad) (lost : Bool) (free : Nat) : KEntry :=
  let l := if c.fills then ld.lines else if c.kop == 5 then [0] else c.share s
  { e with running := true, buf := ld.buf, fill := ld.lines, fillBad := ld.bad, hurt := if lost then l[free % l.length]? else none }

/-- The next n items of a share: of a fill, the lines of n granules (R141, R154). -/
def KEntry.next (e : KEntry) (c : KCmd) (s n : Nat) : List Nat :=
  if c.fills then
    let gs := ((e.fill.map (fun l => l / 64)).eraseDups).take n
    e.fill.takeWhile (fun l => gs.contains (l / 64))
  else ((c.share s).drop e.items).take n

end Sys2Proof.Machine
end

