-- ==== Sys2Proof/Machine/Kerb.lean ====
section
/-! DEFINITION. The Kerb engines (R130, R131, R140, R143 to R147, R155, R160, R161, R274): a command starts and works its
share, signals progress, completes, or stops. -/

namespace Sys2Proof.Machine

/-- 4 KiB blocks that hold an element of a tensor (R113). -/
def blocksOf (t : Tensor) : List Nat :=
  ((coordsOf (t.ext.drop 1)).flatMap (fun c => (t.runs c 0 (t.e 0)).flatMap (fun r =>
    List.range' (r.1 / 4096) ((r.1 + r.2 + 4095) / 4096 - r.1 / 4096)))).eraseDups

/-- Blocks a command reads and writes (R113). -/
def KCmd.ranges (c : KCmd) : List Nat × List Nat :=
  let b (l : List Nat) : List Nat := (l.filterMap c.ten?).flatMap blocksOf
  match c.kop with
  | 1 => (b [0, 1, 3, 4], b [2])
  | 3 => ([c.prog / 4096, (c.prog + 127) / 4096].eraseDups ++ b [2, 3, 4, 5], b [0, 1])
  | 5 => (b [0], [])
  | _ => (b [1, 2], b [0])

namespace Dev

/-- The command that starts next in an engine: its earlier ones have started, its lane is free, and under `FENCE` they have
completed or stopped (R140, R162). -/
def startable (d : Dev) (s : Nat) : Option (KEntry × KCmd) :=
  let q := (d.eng s).queue
  let before := q.takeWhile (fun e => e.running || e.stopped)
  match q.drop before.length with
  | [] => none
  | e :: _ =>
    match aget d.kcmds e.cmd with
    | none => none
    | some c =>
      if before.any (fun x => x.lane == e.lane && x.running) || (c.fence && before.any (fun x => !x.stopped))
          || !((d.eng s).svc == .inService || (d.eng s).svc == .draining) then none
      else some (e, c)

def setEntry (s cmd : Nat) (f : KEntry → KEntry) (d : Dev) : Dev :=
  d.setEng s (fun e => { e with queue := e.queue.map (fun x => if x.cmd == cmd then f x else x) })
def dropEntry (s cmd : Nat) (d : Dev) : Dev := d.setEng s (fun e => { e with queue := e.queue.filter (fun x => x.cmd != cmd) })
def setKcmd (id : Nat) (f : KCmd → KCmd) (d : Dev) : Dev :=
  { d with kcmds := d.kcmds.map (fun (p : Nat × KCmd) => if p.1 == id then (p.1, f p.2) else p) }

/-- A Kerb record (R444). -/
def kerbRec (rtype s : Nat) (c : KCmd) (d : Dev) : Dev := d.traceRec 2 rtype c.ctx (0x100 + s) 0 (c.kop + 256 * c.idx) c.off

/-- A reduction that firmware queued for a collective meets poison (R372): the owner faults, the command is gone. -/
def collFault (c : KCmd) (cls : FClass) (d : Dev) : Dev :=
  match d.net.groups.find? (fun g => g.2.run.any (fun r => r.kred == some c.id)) with
  | none => d
  | some g =>
    let d := { d with
      kerb := d.kerb.map (fun (e : KEngine) => { e with queue := e.queue.filter (fun q => q.cmd != c.id) })
      kcmds := adel d.kcmds c.id }
    d.faultCtx g.2.owner cls 0xFE 0 0 ((g.2.run.map (fun r => r.cr.addr)).getD 0)

/-- A fault found by an engine (R160, R421). Log 95 (DEDUCED). -/
def kerbFault (s : Nat) (c : KCmd) (cls : FClass) (info : Nat) (d : Dev) : Dev :=
  if c.ctx == 0 then d.collFault c cls
  else d.faultCtx c.ctx cls 0xFF s c.off (if cls == .kerb then c.addr else info)

/-- The clean of R113, once per command. -/
def cleanFor (c : KCmd) (d : Dev) : Dev :=
  if c.cleaned then d
  else
    let r := c.ranges
    (d.kerbClean r.1 r.2).setKcmd c.id (fun x => { x with cleaned := true })

/-- `KSURV` in one engine: its partial histogram is added to the command's (R155). -/
def ksurvBody (c : KCmd) (s : Nat) (_ : List Nat) (lost : Bool) : M (Nat × Nat) := do
  let (n, bins) ← ksurvScan c s lost
  modify (fun d => d.setKcmd c.id (fun x =>
    { x with hist := addBins (if x.hist.isEmpty then List.replicate 4096 0 else x.hist) bins, samples := x.samples + bins.length }))
  pure (n, 0)

/-- The load of a command (R149, R152, R154). -/
def kLoad (c : KCmd) (s : Nat) : M KLoad :=
  if c.kop == 1 then do return { buf := ← kscanLoad c }
  else if c.kop == 3 then do return { buf := ← kstreamLoad c }
  else if c.fills then do
    let r ← kgathLines c s
    return { lines := r.1, count := r.2.1, bad := r.2.2 }
  else pure {}

/-- The work of items of a share, by operation: items done, and what they give to the result word. -/
def kBody (c : KCmd) (s : Nat) (e : KEntry) (l : List Nat) : M (Nat × Nat) :=
  match c.kop, c.kvar with
  | 1, _ => kscanBody c e.buf l e.hurt
  | 2, 0 => kredStat c l e.hurt
  | 2, 1 => kredComb c l e.hurt
  | 2, 2 => kredFold c addr32 .zero l e.hurt
  | 2, _ => kredFold c FV.max (.inf true) l e.hurt
  | 3, _ => kstreamBody c e.buf l e.hurt
  | 4, 2 => kgathMove c l e.hurt
  | 4, 3 => kgathFill c l e.hurt (e.fillBad && l.length == e.fill.length)
  | 4, _ => kgathBody c l e.hurt
  | _, _ => ksurvBody c s l e.hurt.isSome

/-- Bytes that an item writes. -/
def itemBytes (c : KCmd) : Nat :=
  let d := c.ten 0
  match c.kop with
  | 1 => 4 * (c.ten 2).e 0
  | 2 => if c.kvar < 2 then 16 else 512 * d.eb / 8
  | 3 => 512 * d.eb / 8
  | _ => if 2 ≤ c.kvar then 4096 else d.rb * prodOf ((d.ext.drop 1).set (c.f 18 1 - 1) 1)

/-- Items that an engine works in one step (R145, R161): those that 4 KiB of results hold, and no further than the next progress
signal. Log 88 (DESIGN CHOICE). -/
def stepItems (c : KCmd) (e : KEntry) : Nat :=
  let k := Nat.max 1 (4096 / Nat.max 1 (itemBytes c))
  if c.chunk == 0 then k else Nat.min k (c.chunk - e.items % c.chunk)

/-- Items of a share noted as worked: n of them, the lines `l` of a fill, and r for the result word (R146). -/
def worked (s : Nat) (e : KEntry) (c : KCmd) (l : List Nat) (n r : Nat) (d : Dev) : Dev :=
  (d.setEntry s e.cmd (fun x => { x with items := x.items + n, fill := x.fill.drop l.length, fillBad := x.fillBad && x.fill.length != l.length })).setKcmd
    e.cmd (fun x => { x with result := if c.kop == 1 then Nat.max x.result r else (x.result + r) % 2 ^ 32 })

/-- The next n items of a share worked (R143, R147, R160): results and result word, or a fault. -/
def workOn (s : Nat) (e : KEntry) (c : KCmd) (n : Nat) (d : Dev) : Dev :=
  match (kBody c s e (e.next c s n)).run.run d with
  | (.error (.fault cls info), d) => d.kerbFault s c cls info
  | (.ok (k, r), d) => d.worked s e c (e.next c s n) k r

/-- A command of a row's form starts in an engine (R140, R113): the cache is cleaned, the Kerb buffer loaded, the first items
worked. A command with an empty share does none of it (R144). Log 88 (DESIGN CHOICE). -/
def startCmd (s : Nat) (sel : KCmd → Bool) (lost : Bool) (d : Dev) : Dev :=
  match d.startable s with
  | none => d
  | some (e, c) =>
    if !sel c then d
    else
      let d := (d.setEntry s e.cmd (fun x => { x with running := true })).kerbRec 0x20 s c
      if (c.share s).isEmpty && !c.owned then d
      else match (kLoad c s).run.run (d.cleanFor c) with
        | (.error (.fault cls info), d) => d.kerbFault s c cls info
        | (.ok ld, d) =>
          let e := e.started c s ld lost (Config.freeNat d.fresh)
          ((d.bump.setEntry s e.cmd (fun _ => e)).setKcmd e.cmd (fun x => { x with result := (x.result + ld.count) % 2 ^ 32 })).workOn
            s e c (stepItems c e)

/-- Whether an engine has worked its whole share. -/
def shareDone (s : Nat) (e : KEntry) (c : KCmd) : Bool :=
  if c.fills then e.fill.isEmpty && !e.fillBad else c.owned || (c.share s).length ≤ e.items

/-- What is left of a share without progress signals, worked as its engine completes. Log 88 (DESIGN CHOICE). -/
def workRest (s : Nat) (e : KEntry) (c : KCmd) (d : Dev) : Dev :=
  if shareDone s e c || c.chunk != 0 || e.stopped then d
  else d.workOn s e c (if c.fills then e.fill.length else (c.share s).length - e.items)

/-- The entry of a lane that runs a command. -/
def running (d : Dev) (s lane : Nat) : Option (KEntry × KCmd) :=
  match (d.eng s).queue.find? (fun e => e.lane == lane && e.running) with
  | none => none
  | some e => (aget d.kcmds e.cmd).map (fun c => (e, c))

/-- Progress signals an entry owes (R145): one for each chunk done, and one for a last item that ends none. -/
def progressDue (s : Nat) (c : KCmd) (e : KEntry) : Nat :=
  if c.chunk == 0 then 0 else if shareDone s e c then cdiv e.items c.chunk else e.items / c.chunk

/-- Rank of an engine among those named (R141). -/
def rankOf (c : KCmd) (s : Nat) : Nat := (c.engs.filter (fun x => x < s)).length

/-- A macro-instruction is complete: its signal is applied, its record placed, and it leaves (R51, R91, R434, R444).
Log 96 (DEDUCED). -/
def finishMi (m : InFlight) (d : Dev) : Dev :=
  let d := if sigMode m.raw == 1 || m.owes || (sigMode m.raw == 2 && (miOpc m.raw == 0x40 || miRow m.raw == some (0x30, 2))) then
      d.signal m.ctx (sigSo m.raw) (sigN m.raw) false m.st 0 m.off 0
    else d
  let d := (d.progressed m.ctx).traceRec 1 0x11 m.ctx m.st ((m.marks.head?).getD 0) (miOpc m.raw + 256 * m.off)
    (d.nsTc (d.now - m.issuedNs))
  (({ d with mis := d.mis.filter (fun x => x.id != m.id) }).dropStaged m.id).tryYield m.ctx

/-- Whether a macro-instruction that took generation `gen` of a slot is not complete (R274). -/
def genInUse (d : Dev) (i slot gen : Nat) : Bool :=
  d.mis.any (fun y => y.ctx == i && y.tabs.any (fun u => u.slot == slot && u.gen == gen))

/-- The shadow bank of a slot: its number and the generation it holds (R270, R274). -/
def shadowOf (d : Dev) (p : Program) (s : Nat) : Nat × Nat :=
  let t := d.ctabAt p s
  let b := 1 - t.act
  (b, bankGen (if b == 0 then t.b0 else t.b1))

/-- The reload of a slot at completion (R274): the new generation, the bank made active. -/
def reloadCtab (i s b : Nat) (d : Dev) : Dev :=
  let p := d.progOf i
  let gen := (leNat (d.peek (p.ctDir + 8 * s) 8).1 % 2 ^ 16 + 1) % 2 ^ 16
  let put (a : Nat) (bs : List Byte) (d : Dev) : Dev := d.store Access.plain 0 a bs (fun _ => false)
  put (p.ctDir + 8 * s) (leBytes 8 (gen + b * 2 ^ 16)) (put (p.ctBank s b + 2) (leBytes 2 gen) d)

/-- The survey's table written to the shadow bank (R155, R274, R277, R278): none while a reader of its generation is not
complete. -/
def survWrite (s : Nat) (c : KCmd) (d : Dev) : Option Dev :=
  let p := d.progOf c.ctx
  let slot := c.f 14 2
  let sh := d.shadowOf p slot
  if d.genInUse c.ctx slot sh.2 then none
  else
    let bank := survTable (c.f 16 1) 0 c.samples (c.ten 0).dtype (if c.hist.isEmpty then List.replicate 4096 0 else c.hist)
    match (kPut 0 [(p.ctBank slot sh.1, bank, [])]).run.run d with
    | (.error (.fault cls info), d) => some (d.kerbFault s c cls info)
    | (.ok _, d) => some (d.setEntry s c.id (fun x => { x with held := 2 }))

/-- What the last engine of a survey must have done before it completes: the table written (R155). -/
def survReady (s : Nat) (e : KEntry) (c : KCmd) (d : Dev) : Dev × Bool :=
  if c.kop != 5 || rankOf c s != 0 || e.held == 2 then (d, true)
  else if c.left != [s] then (d, false)
  else match d.survWrite s c with
    | some d => (d, (d.ctx c.ctx).st != .tearingDown)
    | none => (d.setEntry s c.id (fun x => { x with held := 1 }), false)

/-- A command is complete in its last engine: the reload of a survey, the bound register, the signal, and the `KRB` when it
is its last command (R143, R144, R146, R274). -/
def finishCmd (s : Nat) (c : KCmd) (d : Dev) : Dev :=
  let d := if c.kop == 5 then d.reloadCtab c.ctx (c.f 14 2) (d.shadowOf (d.progOf c.ctx) (c.f 14 2)).1 else d
  let br := c.f 3 1
  let old := d.boundVal c.ctx (br % 64)
  let d := if bit br 7 && holds (d.ctx c.ctx) then
      d.setBound c.ctx (br % 64) (if bit br 6 then Nat.max old c.result else c.result)
    else d
  let sm := c.f 4 2 / 2 ^ 14
  let d := if sm == 0 then d else d.signal c.ctx (c.f 4 2 % 2 ^ 14) (c.f 6 2) true 0xFF s c.off c.addr
  let d := { d.progressed c.ctx with kcmds := adel d.kcmds c.id }
  let d := d.setMi c.mi (fun m => { m with kcmds := m.kcmds.erase c.id })
  match d.mis.find? (fun m => m.id == c.mi && m.kcmds.isEmpty) with
  | some m => d.finishMi m
  | none => d

/-- A command completes in one engine (R139, R143, R144). Log 88 (DESIGN CHOICE). -/
def engineDone (s : Nat) (e : KEntry) (c : KCmd) (d : Dev) : Dev :=
  let d := (d.dropEntry s e.cmd).kerbRec 0x21 s c
  let d := (d.setEng s (fun k => { k with done := k.done + 1 })).cnt 0x19 s (Config.freeNat d.fresh)
  let d := d.bump
  let left := c.left.erase s
  if left.isEmpty then d.finishCmd s { c with left := [] }
  else
    let d := d.setKcmd e.cmd (fun x => { x with left := left })
    if c.f 4 2 / 2 ^ 14 == 2 then d.signal c.ctx (c.f 4 2 % 2 ^ 14) (c.f 6 2) true 0xFF s c.off c.addr else d

end Dev

/-- KSCAN (R149, R225 to R228). -/
def execKscan (stack : Nat) (bufErr : Bool) (s : State) : Host.Outcome State Fault Refusal :=
  onDev (Dev.startCmd stack (fun c => c.kop == 1) bufErr) s
/-- KRED_STATISTICS (R151). -/
def execKredStatistics (stack : Nat) (bufErr : Bool) (s : State) : Host.Outcome State Fault Refusal :=
  onDev (Dev.startCmd stack (fun c => c.kop == 2 && c.kvar == 0) bufErr) s
/-- KRED_COMBINE (R151). -/
def execKredCombine (stack : Nat) (bufErr : Bool) (s : State) : Host.Outcome State Fault Refusal :=
  onDev (Dev.startCmd stack (fun c => c.kop == 2 && c.kvar == 1) bufErr) s
/-- KRED_ORDERED_SUM (R151). -/
def execKredOrderedSum (stack : Nat) (bufErr : Bool) (s : State) : Host.Outcome State Fault Refusal :=
  onDev (Dev.startCmd stack (fun c => c.kop == 2 && c.kvar == 2) bufErr) s
/-- KRED_ORDERED_MAX (R151). -/
def execKredOrderedMax (stack : Nat) (bufErr : Bool) (s : State) : Host.Outcome State Fault Refusal :=
  onDev (Dev.startCmd stack (fun c => c.kop == 2 && c.kvar == 3) bufErr) s
/-- KSTREAM (R152, R153, R185). -/
def execKstream (stack : Nat) (bufErr : Bool) (s : State) : Host.Outcome State Fault Refusal :=
  onDev (Dev.startCmd stack (fun c => c.kop == 3) bufErr) s
/-- KGATH_GATHER (R154). -/
def execKgathGather (stack : Nat) (bufErr : Bool) (s : State) : Host.Outcome State Fault Refusal :=
  onDev (Dev.startCmd stack (fun c => c.kop == 4 && c.kvar == 0) bufErr) s
/-- KGATH_SCATTER (R154). -/
def execKgathScatter (stack : Nat) (bufErr : Bool) (s : State) : Host.Outcome State Fault Refusal :=
  onDev (Dev.startCmd stack (fun c => c.kop == 4 && c.kvar == 1) bufErr) s
/-- KGATH_TRANSFORM (R154). -/
def execKgathTransform (stack : Nat) (bufErr : Bool) (s : State) : Host.Outcome State Fault Refusal :=
  onDev (Dev.startCmd stack (fun c => c.kop == 4 && c.kvar == 2) bufErr) s
/-- KGATH_FILL (R154, R142). -/
def execKgathFill (stack : Nat) (bufErr : Bool) (s : State) : Host.Outcome State Fault Refusal :=
  onDev (Dev.startCmd stack (fun c => c.kop == 4 && c.kvar == 3) bufErr) s
/-- KSURV (R155, R276, R278). -/
def execKsurv (stack : Nat) (bufErr : Bool) (s : State) : Host.Outcome State Fault Refusal :=
  onDev (Dev.startCmd stack (fun c => c.kop == 5) bufErr) s

/-- KERB_PROGRESS (R145, R147, R161): the next progress signal an engine owes, to object `PROG_SO` + rank; then the next items
of its share, up to 4 KiB of results. Log 88 (DESIGN CHOICE). -/
def execKerbProgress (stack lane : Nat) (s : State) : Host.Outcome State Fault Refusal :=
  onDev (fun d =>
    match d.running stack lane with
    | none => d
    | some (e, c) =>
      if e.stopped || c.kop == 6 || c.kop == 7 then d
      else
        let d := if Dev.progressDue stack c e ≤ e.sent then d
          else (d.setEntry stack e.cmd (fun x => { x with sent := x.sent + 1 })).signal c.ctx
            (c.f 8 2 % 2 ^ 14 + Dev.rankOf c stack) 1 true 0xFF stack c.off c.addr
        if Dev.shareDone stack e c || (c.ctx != 0 && !Dev.holds (d.ctx c.ctx)) then d
        else d.workOn stack e c (Dev.stepItems c e)) s

/-- KERB_COMMAND_STOP (R161): a running command of a faulted context stops; its place frees. -/
def execKerbCommandStop (stack lane : Nat) (s : State) : Host.Outcome State Fault Refusal :=
  onDev (fun d =>
    match d.running stack lane with
    | some (e, _) => if e.stopped then d.dropEntry stack e.cmd else d
    | none => d) s

/-- CTAB_RELOAD_HOLD_RELEASE (R274): a stream (0 to 31) whose `MOVE` held, or an engine (32 + stack) whose survey held its
table write. -/
def execCtabReloadHoldRelease (unit : Nat) (s : State) : Host.Outcome State Fault Refusal :=
  onDev (fun d =>
    if unit < 32 then d.resume unit .ctab
    else match d.running (unit - 32) 1 with
      | some (e, c) =>
        if e.held == 1 && !e.stopped then (d.survWrite (unit - 32) c).getD d else d
      | none => d) s

end Sys2Proof.Machine
end

