-- ==== Sys2Proof/Machine/Coll.lean ====
section
/-! DEFINITION. Collectives (R365 to R373), the bytes of a packet that become visible (R358, R364), acknowledgements
(R356, R446). The number of an aborting member in an event is its index (DEDUCED). -/

namespace Sys2Proof.Machine

namespace Dev

/-- The record of 64 octets at an address (R367). -/
def collRec (b : List Byte) (addr : Nat) : CollRec :=
  let so := fld b 6 2
  { cop := fld b 0 1, det := bit (fld b 1 1) 0, max := bit (fld b 1 1) 1, dtype := fld b 2 1, root := fld b 4 2
    doneSo := if bit so 15 then none else some (so % 2 ^ 14), src := fld b 8 8, dst := fld b 16 8, recv := fld b 24 8
    chunk := fld b 32 8, doneN := fld b 40 4, addr := addr }

/-- Whether the operation reduces (R368). -/
def reduces (c : CollRec) : Bool := c.cop == 1 || c.cop == 2

/-- Bytes of `SRC` and `DST` for n members (R368). -/
def srcBytes (c : CollRec) (n : Nat) : Nat := if c.cop == 3 || c.cop == 5 then c.chunk else n * c.chunk
def dstBytes (c : CollRec) (n : Nat) : Nat := if c.cop == 2 || c.cop == 5 then c.chunk else n * c.chunk

/-- Whether a record is well formed for member r of n (R13, R367, R372). Log 125 (DEDUCED). -/
def collOk (b : List Byte) (c : CollRec) (n r owner : Nat) (d : Dev) : Bool :=
  let red := reduces c
  1 ≤ c.cop && c.cop ≤ 5 && fld b 1 1 < 4 && (if red then c.dtype == 1 || c.dtype == 2 else c.dtype == 0) && zeros b 3 1
    && (if c.cop == 5 then c.root < n else c.root == 0) && !bit (fld b 6 2) 14 && c.doneSo.all (d.listed owner)
    && c.chunk != 0 && c.chunk % 64 == 0 && zeros b 44 20
    && c.src % 64 == 0 && c.dst % 64 == 0 && c.recv % 64 == 0
    && ((c.cop == 5 && r != c.root) || d.inStacked c.src (srcBytes c n)) && d.inStacked c.dst (dstBytes c n)
    && (if red && c.det then d.inStacked c.recv (n * c.chunk) else c.recv == 0)

/-- Position of the part in a group. -/
def myIndex (g : Group) (d : Dev) : Nat := (g.members.findIdx? (fun m => m == d.net.fab.id.toNat)).getD 0

def setGroup (i : Nat) (f : Group → Group) (d : Dev) : Dev :=
  { d with net := { d.net with groups := d.net.groups.map (fun (p : Nat × Group) => if p.1 == i then (p.1, f p.2) else p) } }
def setRun (i : Nat) (f : CollRun → CollRun) (d : Dev) : Dev := d.setGroup i (fun g => { g with run := g.run.map f })

/-- Bytes moved exactly, poison with them (R368). -/
def copyBytes (src dst n : Nat) (d : Dev) : Dev :=
  let (r, d) := d.ioFetch src n
  d.ioStore dst r.1 (fun l => r.2.contains (64 * l + src - dst))

/-- Data for one member, cut into packets (R353, R369). -/
def sendChunk (i peer src off n : Nat) (d : Dev) : Dev :=
  match aget d.net.groups i with
  | none => d
  | some g =>
    let m := maxPayload d.net.fab
    (List.range (cdiv n m)).foldl (fun d j =>
      d.sendData peer { Packet.mk0 7 [] with
        obj := BitVec.ofNat 16 i, ocnt := BitVec.ofNat 32 g.k, apsn := g.epoch, ooff := BitVec.ofNat 64 (off + m * j) }
        (1 + i) (src + m * j) (Nat.min m (n - m * j))) d

/-- Kerb engines of the span of an address (R288, R370). Log 124 (DEDUCED). -/
def spanEngines (a : Nat) (d : Dev) : List Nat :=
  if isStk a then [stkOf a]
  else if a < d.wideEnd then List.range d.nStacks
  else List.range' (4 * ((a - d.wideEnd) / d.localBytes)) 4

/-- The reduction of the slices queued as `KRED` mode 2 or 3 in every engine of `RECV`'s span (R151, R370), once each has one of
the firmware's 16 entries free (R130). Log 124 (DEDUCED). -/
def queueKred (i : Nat) (c : CollRec) (n dst : Nat) (d : Dev) : Dev :=
  let id := d.fresh + 1
  let dt : DType := if c.dtype == 1 then .fp32 else .bf16
  let els := c.chunk / (if c.dtype == 1 then 4 else 2)
  let engs := d.spanEngines c.recv
  let out : Tensor :=
    { base := dst, dtype := dt, rank := 1, ext := [els, 1, 1, 1, 1, 1], alloc := [els, 1, 1, 1, 1, 1], stride := [0, 0, 0, 0, 0, 0] }
  let src : Tensor :=
    { base := c.recv, dtype := dt, rank := 2, ext := [els, n, 1, 1, 1, 1], alloc := [els, n, 1, 1, 1, 1], stride := [0, c.chunk, 0, 0, 0, 0] }
  if engs.any (fun s => 16 ≤ d.firmwareEntries s) then d
  else
  let cmd : KCmd :=
    { id := id, raw := leBytes 1 2 ++ leBytes 1 (if c.max then 3 else 2) ++ leBytes 6 0 ++ leBytes 2 0x8000 ++ leBytes 54 0
      tens := [some out, some src], engs := engs, left := engs }
  let d := { d with
    fresh := id, kcmds := aset d.kcmds id cmd
    kerb := d.kerb.zipIdx.map (fun (p : KEngine × Nat) =>
      if engs.contains p.2 then { p.1 with queue := p.1.queue ++ [({ cmd := id, lane := 1 } : KEntry)] } else p.1) }
  d.setRun i (fun r => { r with kred := some id })

/-- The collective in progress ends: what waits to be sent for it is dropped (R372). -/
def endRun (i : Nat) (d : Dev) : Dev :=
  let d := d.setGroup i (fun g => { g with run := none })
  { d with net := { d.net with spaces := d.net.spaces.map (fun (s : Space) =>
      { s with waiting := s.waiting.filter (fun t => t.owner != 1 + i) }) } }

/-- Whether a member is sent data in the first phase (R368). -/
def sendsTo (c : CollRec) (me j : Nat) : Bool := me != j && (c.cop != 5 || me == c.root)

/-- What member `me` sends member j in the first phase: source and offset (R368, R369). -/
def firstChunk (c : CollRec) (me j : Nat) : Nat × Nat :=
  match c.cop with
  | 1 => (c.src + j * c.chunk, if c.det then me * c.chunk else j * c.chunk)
  | 2 => (c.src + j * c.chunk, if c.det then me * c.chunk else 0)
  | 3 => (c.src, me * c.chunk)
  | 4 => (c.src + j * c.chunk, me * c.chunk)
  | _ => (c.src, 0)

/-- Bytes a member expects in the first phase (R368). -/
def expects (c : CollRec) (n me : Nat) : Nat := if c.cop == 5 then (if me == c.root then 0 else c.chunk) else (n - 1) * c.chunk

/-- Where the own reduced chunk stands. -/
def ownDst (c : CollRec) (me : Nat) : Nat := if c.cop == 1 then c.dst + me * c.chunk else c.dst

/-- Packets of a group toward a peer that are not acknowledged. -/
def outstanding (i peer : Nat) (d : Dev) : Bool :=
  (d.space peer).unacked.any (fun t => t.owner == 1 + i) || (d.space peer).waiting.any (fun t => t.owner == 1 + i)

/-- Whether a chunk of a group is still being sent to a member (R369). -/
def sending (i peer : Nat) (d : Dev) : Bool :=
  (d.space peer).waiting.any (fun t => t.owner == 1 + i && t.pkt.otype == 7)

/-- A group's chunks to the members listed, in their order, each begun once the one before it has been sent (R369). -/
def inTurn (i : Nat) (members order : List Nat) (chunk : Nat → Dev → Dev) (d : Dev) : Dev :=
  order.foldl (fun d j => if members.any (fun m => d.sending i m) then d else chunk j d) d

/-- The collective of a group goes as far as it can (R369, R370): data to the members that are ready, in rotation and one at a
time; the reduction; the gather, to a member once it has acknowledged what it was sent before (DEDUCED).
Log 123 (DEDUCED). -/
def collStep (i : Nat) (d : Dev) : Dev :=
  match aget d.net.groups i with
  | none => d
  | some g =>
    match g.run with
    | none => d
    | some r =>
      let c := r.cr
      let n := g.members.length
      let me := d.myIndex g
      let order := (List.range' 1 (n - 1)).map (fun x => (me + x) % n)
      let d := d.inTurn i g.members (order.filter (fun j => r.ready.contains j && sendsTo c me j && !r.sent.contains j)) (fun j d =>
        let x := firstChunk c me j
        (d.setRun i (fun r => { r with sent := r.sent ++ [j] })).sendChunk i (nth g.members j) x.1 x.2 c.chunk)
      let d :=
        if !reduces c || r.reduced || r.vis < expects c n me then d
        else if !c.det then d.setRun i (fun r => { r with reduced := true })
        else match r.kred with
          | none => d.queueKred i c n (ownDst c me)
          | some id => if (aget d.kcmds id).isSome then d else d.setRun i (fun r => { r with reduced := true })
      let r := ((aget d.net.groups i).bind (fun g => g.run)).getD r
      if c.cop != 1 || !r.reduced then d
      else d.inTurn i g.members (order.filter (fun j => r.sent.contains j && !r.sent2.contains j && !d.outstanding i (nth g.members j)))
        (fun j d => (d.setRun i (fun r => { r with sent2 := r.sent2 ++ [j] })).sendChunk i (nth g.members j) (ownDst c me)
          (me * c.chunk) c.chunk)

/-- Every group goes on. -/
def collAll (d : Dev) : Dev := d.net.groups.foldl (fun d g => d.collStep g.1) d

/-- The copy a member makes of its own chunk (R368): from and to. -/
def ownCopy (c : CollRec) (me : Nat) : Option (Nat × Nat) :=
  match c.cop with
  | 1 => some (c.src + me * c.chunk, if c.det then c.recv + me * c.chunk else c.dst + me * c.chunk)
  | 2 => some (c.src + me * c.chunk, if c.det then c.recv + me * c.chunk else c.dst)
  | 3 => some (c.src, c.dst + me * c.chunk)
  | 4 => some (c.src + me * c.chunk, c.dst + me * c.chunk)
  | _ => if me == c.root then some (c.src, c.dst) else none

/-- A group's trigger taken (R369): the record read, checked, the own chunk copied, READY sent, the data that may go. -/
def collStart (i : Nat) (g : Group) (d : Dev) : Dev :=
  let addr := g.list + 64 * g.cursor
  let d := d.setCtx g.owner (fun c => { c with objs := amod c.objs g.trig 0 (fun v => v - 1) })
  let (b, d) := d.ioFetch addr 64
  let c := collRec b.1 addr
  let k := g.k + 1
  let n := g.members.length
  let me := d.myIndex g
  let ready := (g.early.filter (fun x => x.2 == k)).map (fun x => x.1)
  let d := d.setGroup i (fun g => { g with
    cursor := (g.cursor + 1) % g.len, k := k, early := g.early.filter (fun x => x.2 != k), run := some { k := k, cr := c, ready := ready } })
  if !b.2.isEmpty then d.faultCtx g.owner .poison 0xFE 0 0 addr
  else if !d.collOk b.1 c n me g.owner then d.faultCtx g.owner .illegal 0xFE 0 0 addr
  else
    let d := match ownCopy c me with
      | some x => d.copyBytes x.1 x.2 c.chunk
      | none => d
    let d := ((List.range n).filter (fun j => sendsTo c j me)).foldl (fun d j =>
      d.sendPkt (nth g.members j) (collCtl i k g.epoch false) (1 + i) none) d
    d.collStep i

/-- A group whose trigger would be taken now. -/
def triggered (x : Nat × Group) (d : Dev) : Bool :=
  let c := d.ctx x.2.owner
  holds c && !x.2.aborted && x.2.run.isNone && 1 ≤ d.objVal x.2.owner x.2.trig

/-- A packet that does not match the receiver's table (R366). -/
def mismatch (a : Arrival) (d : Dev) : Dev :=
  let d := (d.atOnce a).cnt 0x40 6 1
  let g := a.pkt.obj.toNat
  if d.net.mismatched.contains g then d
  else ({ d with net := { d.net with mismatched := g :: d.net.mismatched } }).raise []
    { code := 0x8013, unit := g, aux := a.pkt.srcId.toNat }

/-- The group of a packet and the index of its sender, where they match (R366). -/
def collFrom (a : Arrival) (d : Dev) : Option (Group × Nat) :=
  match aget d.net.groups a.pkt.obj.toNat with
  | none => none
  | some g =>
    if g.epoch != a.pkt.apsn then none
    else (g.members.findIdx? (fun m => m == a.pkt.srcId.toNat && m != d.net.fab.id.toNat)).map (fun j => (g, j))

/-- A packet of a collective: refused without the engine's domain (R459), else matched. -/
def onColl (a : Arrival) (body : Group → Nat → Dev → Dev) (d : Dev) : Dev :=
  d.sequenced a (fun d =>
    if !d.power.on.getLsbD 52 then d.refuse a 1
    else match d.collFrom a with
      | none => d.mismatch a
      | some x => body x.1 x.2 d)

/-- An arriving element folded into the result (R178, R370). -/
def accumulate (c : CollRec) (old new : List Byte) : List Byte :=
  let dt : DType := if c.dtype == 1 then .fp32 else .bf16
  let w := dt.bits / 8
  (List.range (old.length / w)).flatMap (fun i =>
    let x := dt.elem (leNat ((old.drop (w * i)).take w))
    let y := dt.elem (leNat ((new.drop (w * i)).take w))
    leBytes w (dt.encodeScalar .ne (if c.max then FV.max x y else addr32 x y)))

/-- `COLL_DATA` of the collective in progress (R368 to R370, R372). Log 125 (DEDUCED). -/
def collData (a : Arrival) (g : Group) (j : Nat) (d : Dev) : Dev :=
  let i := a.pkt.obj.toNat
  let off := a.pkt.ooff.toNat
  let len := a.pkt.payload.length
  match g.run with
  | none => d.atOnce a
  | some r =>
    let c := r.cr
    let n := g.members.length
    let me := d.myIndex g
    let got := (aget r.got j).getD 0
    let first := reduces c && got < c.chunk
    let within (lo size : Nat) : Bool := lo ≤ off && off + len ≤ lo + size
    let put (phase addr : Nat) (d : Dev) : Dev :=
      (d.setRun i (fun r => { r with got := if phase == 0 then amod r.got j 0 (· + len) else r.got })).place a { coll := some (i, phase) } addr
    if r.k != a.pkt.ocnt.toNat then d.atOnce a
    else if !reduces c then (if within 0 (dstBytes c n) then put 0 (c.dst + off) d else d.atOnce a)
    else if !first then (if c.cop == 1 && within 0 (n * c.chunk) then put 1 (c.dst + off) d else d.atOnce a)
    else if c.det then (if within (j * c.chunk) c.chunk then put 0 (c.recv + off) d else d.atOnce a)
    else if !within (if c.cop == 1 then me * c.chunk else 0) c.chunk then d.atOnce a
    else
      let (old, d) := d.ioFetch (c.dst + off) len
      if !old.2.isEmpty || (List.range 128).any (fun b => a.pkt.poison.getLsbD b && 64 * b < len) then
        (d.atOnce a).faultCtx g.owner .poison 0xFE 0 0 c.addr
      else
        let v := accumulate c old.1 a.pkt.payload
        let d := d.setRun i (fun r => { r with got := amod r.got j 0 (· + len) })
        d.place { a with pkt := { a.pkt with payload := v } } { coll := some (i, 0) } (c.dst + off)

end Dev

/-- OFT_COLL_DATA (R366 to R370, R372). -/
def execOftCollData (a : Arrival) (s : State) : Host.Outcome State Fault Refusal :=
  packetRow [7] a (Dev.onColl a (fun g j d => d.collData a g j)) s

/-- COLL_CTRL_READY (R369): for the collective in progress, or kept for the next. -/
def execCollCtrlReady (a : Arrival) (s : State) : Host.Outcome State Fault Refusal :=
  if a.pkt.oflags.getLsbD 5 then .next s
  else packetRow [8] a (Dev.onColl a (fun g j d =>
      let i := a.pkt.obj.toNat
      let k := a.pkt.ocnt.toNat
      let d := d.atOnce a
      if g.run.any (fun r => r.k == k) then (d.setRun i (fun r => { r with ready := r.ready ++ [j] })).collStep i
      else if g.k < k then d.setGroup i (fun g => { g with early := g.early ++ [(j, k)] })
      else d)) s

/-- COLL_CTRL_ABORT (R372): collective k ends without its signal, if it is the one in progress; the group takes no trigger until
it is set afresh. -/
def execCollCtrlAbort (a : Arrival) (s : State) : Host.Outcome State Fault Refusal :=
  if !a.pkt.oflags.getLsbD 5 then .next s
  else packetRow [8] a (Dev.onColl a (fun g j d =>
      let i := a.pkt.obj.toNat
      let k := a.pkt.ocnt.toNat
      let d := (d.atOnce a).setGroup i (fun g => { g with aborted := true })
      let d := if g.run.any (fun r => r.k == k) then d.endRun i else d
      d.raise [g.owner] { code := 0x8014, ctx := g.owner, unit := i, aux := j, arg0 := k })) s

/-- COLL_TRIGGER (R369): at most 32 groups run at once, and beyond that groups start in ascending number. -/
def execCollTrigger (group : Nat) (s : State) : Host.Outcome State Fault Refusal :=
  onDev (fun d =>
    match aget d.net.groups group with
    | none => d
    | some g =>
      let running := (d.net.groups.filter (fun x => x.2.run.isSome)).length
      let before := (d.net.groups.filter (fun x => x.1 < group && d.triggered x)).length
      if !d.power.on.getLsbD 52 || !d.triggered (group, g) || 32 ≤ running + before then d
      else d.collStart group g) s

/-- COLL_COMPLETE (R371). -/
def execCollComplete (group : Nat) (s : State) : Host.Outcome State Fault Refusal :=
  onDev (fun d =>
    match aget d.net.groups group with
    | none => d
    | some g =>
      match g.run with
      | none => d
      | some r =>
        let c := r.cr
        let n := g.members.length
        let me := d.myIndex g
        let others := (List.range n).filter (fun j => j != me)
        let done := !r.lost && others.all (fun j => !d.outstanding group (nth g.members j))
          && others.all (fun j => !Dev.sendsTo c me j || r.sent.contains j) && r.vis == Dev.expects c n me
          && (!Dev.reduces c || r.reduced) && (c.cop != 1 || (others.all (fun j => r.sent2.contains j) && r.vis2 == (n - 1) * c.chunk))
        if !done then d
        else
          let d := d.setGroup group (fun g => { g with run := none })
          match c.doneSo with
          | none => d
          | some o => d.signal g.owner o c.doneN false 0xFE 0 0 c.addr) s

/-- OFT_PLACEMENT_VISIBLE (R358, R362, R364, R370, R371). -/
def execOftPlacementVisible (peer psn : Nat) (s : State) : Host.Outcome State Fault Refusal :=
  onDev (fun d =>
    let x := d.space peer
    match x.placing.find? (fun p => p.psn == BitVec.ofNat 32 psn) with
    | none => d
    | some p =>
      let d := d.setSpace { x with
        placing := x.placing.erase p
        sigs := match p.win with | some w => if p.sig && !p.old then x.sigs ++ [(p.psn, w)] else x.sigs | none => x.sigs }
      let d := ({ d with net := { d.net with rxBytes := d.net.rxBytes - p.len } }).pfcUpdate
      let d := (if p.old then d else (d.gotPsn peer p.psn).noteAck peer).fireSigs peer
      let d := match p.coll with
        | none => d
        | some (i, phase) => (d.setRun i (fun r =>
            if phase == 0 then { r with vis := r.vis + p.len } else { r with vis2 := r.vis2 + p.len })).collStep i
      let d := match p.win with | some w => d.endUnmap w | none => d
      d.settleAll) s

/-- OFT_ACK (R356, R360, R371, R446). -/
def execOftAck (a : Arrival) (s : State) : Host.Outcome State Fault Refusal :=
  packetRow [5] a (fun d => ((d.ackIn a).collAll).drainAll) s

/-- OFT_NAK (R356, R446). -/
def execOftNak (a : Arrival) (s : State) : Host.Outcome State Fault Refusal :=
  packetRow [6] a (fun d => (d.ackIn a).collAll) s

end Sys2Proof.Machine
end

