-- ==== Sys2Proof/Machine/Mailbox.lean ====
section
/-! DEFINITION. Mailbox commands on the device, contexts, the tick and its slots, bounds, and events (12, 02). -/

namespace Sys2Proof.Machine

def allMsgs : MbCmd → Bool := fun _ => true

/-- MB_DEV_QUERY (R325). -/
def execMbDevQuery (mb : Nat) (s : State) : Host.Outcome State Fault Refusal :=
  serve mb 0x01 allMsgs (fun _ c => [lenIs c 0]) (fun c s =>
    let d := s.dev
    { s with dev := d.okWith mb c (leBytes 8 d.part.caps.toNat ++ leBytes 4 d.part.idcode.toNat ++ leBytes 4 d.boot.fwVersion.toNat
      ++ leBytes 8 s.otp.serial.toNat ++ leBytes 6 s.otp.mac0.toNat ++ leBytes 6 s.otp.mac1.toNat ++ leBytes 1 d.boot.image
      ++ leBytes 1 64 ++ leBytes 2 4096 ++ leBytes 2 16 ++ leBytes 2 s.otp.rollback ++ leBytes 20 0) }) s

/-- MB_DEV_STATE (R326). -/
def execMbDevState (mb : Nat) (s : State) : Host.Outcome State Fault Refusal :=
  serve mb 0x02 allMsgs (fun _ c => [lenIs c 0]) (fun c s =>
    { s with dev := s.dev.okWith mb c (s.dev.devStateBytes s.otp) }) s

/-- The claim of a context (R327). -/
def Dev.claim (mb : Nat) (c : MbCmd) (d : Dev) : Dev :=
  let want := c.f 0 1
  let free := Dev.ctxIds.find? (fun i => (d.ctx i).st == .unclaimed)
  if want != 0 && (d.ctx want).st != .unclaimed then d.reply mb c 7 (d.ctxDetail want)
  else match (if want == 0 then free else some want) with
    | none => d.reply mb c 3 1
    | some i =>
      let d := d.setCtx i (fun _ => { st := .empty, evMask := BitVec.ofNat 32 (c.f 4 4), stallTicks := c.f 8 4 })
      let d := { d with ctr := d.ctr.filter (fun p => !(0x60 ≤ p.1 / 256 && p.1 % 256 == i)) }
      (d.setMbox i (fun m => { m with events := [], evSeq := 0, lost := 0, sub := some c.peer })).okWith mb c (leBytes 4 i)

/-- Length and fields of MB_CTX_CREATE (R327). -/
def createChks (c : MbCmd) : List Chk :=
  [lenIs c 16, (c.f 0 1 ≤ 64, 64), (c.z 1 3, 65), (c.f 4 4 ≤ 1, 68), (c.z 12 4, 76)]

/-- MB_CTX_CREATE (R327). -/
def execMbCtxCreate (mb : Nat) (s : State) : Host.Outcome State Fault Refusal :=
  serveD mb 0x10 allMsgs (fun _ c => createChks c) (fun c => Dev.claim mb c) s

/-- MB_CTX_START (R334). -/
def execMbCtxStart (mb : Nat) (s : State) : Host.Outcome State Fault Refusal :=
  serveD mb 0x12 allMsgs (fun _ c => [lenIs c 8, (c.z 0 8, 64)]) (fun c d =>
    if (d.ctx mb).st == .loaded || (d.ctx mb).st == .parked then
      (d.setCtx mb (fun x => { x with st := .ready })).okWith mb c []
    else d.reply mb c 7 (d.ctxDetail mb)) s

/-- A stop (R335): parked at once, or held until the context parks. -/
def Dev.stop (mb mode : Nat) (c : MbCmd) (d : Dev) : Dev :=
  let x := d.ctx mb
  if x.st == .running || (x.st == .ready && x.yielded && mode == 1) then
    ((d.setCtx mb (fun x => { x with stopMode := some (Nat.min mode (x.stopMode.getD mode)) })).hold mb c).tryYield mb
  else if x.st == .ready then (d.hold mb c).park mb
  else d.reply mb c 7 (d.ctxDetail mb)

def stopChks (c : MbCmd) : List Chk := [lenIs c 8, (c.f 0 1 ≤ 1, 64), (c.z 1 7, 65)]

/-- CTX_STOP_AT_BOUNDARY (R335). -/
def execCtxStopAtBoundary (mb : Nat) (s : State) : Host.Outcome State Fault Refusal :=
  serveD mb 0x13 (fun c => c.f 0 1 != 1) (fun _ c => stopChks c) (fun c => Dev.stop mb 0 c) s

/-- CTX_STOP_AT_END (R335). -/
def execCtxStopAtEnd (mb : Nat) (s : State) : Host.Outcome State Fault Refusal :=
  serveD mb 0x13 (fun c => c.f 0 1 == 1) (fun _ c => stopChks c) (fun c => Dev.stop mb 1 c) s

/-- A teardown that a destroy begins (R338, R339): the context's Kerb commands are discarded or stopped, its waiting bound
writes refused (R336). Log 41 (DESIGN CHOICE). -/
def Dev.tearForDestroy (mb : Nat) (c : MbCmd) (d : Dev) : Dev :=
  ((((d.setCtx mb (fun x => { x with st := .tearingDown, destroyWait := true, pendBounds := [] })).discardKerb mb).finish mb 0x30 7
    CtxState.tearingDown.code []).hold mb c)

/-- MB_CTX_DESTROY (R328, R338, R422). Log 41 (DESIGN CHOICE). -/
def execMbCtxDestroy (mb : Nat) (s : State) : Host.Outcome State Fault Refusal :=
  serveD mb 0x14 allMsgs (fun _ c => [lenIs c 0]) (fun c d =>
    match (d.ctx mb).st with
    | .empty => (((d.setCtx mb (fun x => { x with destroyWait := true, pendBounds := [] })).finish mb 0x30 7 CtxState.empty.code []).hold mb
        c).tryRelease mb
    | .faulted => ((d.setCtx mb (fun x => { x with destroyWait := true })).hold mb c).tryRelease mb
    | .loaded => d.tearForDestroy mb c
    | .parked => d.tearForDestroy mb c
    | .tearingDown => (d.setCtx mb (fun x => { x with destroyWait := true })).hold mb c
    | _ => d.reply mb c 7 (d.ctxDetail mb)) s

/-- The status payload of a context (R337). -/
def Dev.ctxStatus (i : Nat) (bounds : Bool) (d : Dev) : List Byte :=
  let x := d.ctx i
  let f := x.fault
  leBytes 1 x.st.code ++ leBytes 1 (1 + b2n x.yielded * 2 + b2n (x.stopMode == some 1) * 4) ++ leBytes 2 0
    ++ leBytes 4 x.evMask.toNat ++ leBytes 8 (maskOf (x.void.map (fun v => v.1))) ++ leBytes 4 x.lastStart.toNat
    ++ leBytes 4 x.stallTicks ++ leBytes 1 ((f.cls.map FClass.code).getD 0) ++ leBytes 1 f.stream ++ leBytes 2 f.cmd
    ++ leBytes 4 f.offset ++ leBytes 8 f.info ++ leBytes 4 f.tick.toNat ++ leBytes 20 0
    ++ (if bounds then (List.range 64).flatMap (fun r => leBytes 4 (d.boundVal i r)) else [])

/-- MB_CTX_STATUS (R337). -/
def execMbCtxStatus (mb : Nat) (s : State) : Host.Outcome State Fault Refusal :=
  serveD mb 0x15 allMsgs (fun _ c => stopChks c) (fun c d =>
    d.okWith mb c (d.ctxStatus mb (c.f 0 1 == 1))) s

/-- The configuration of a MB_TICK_CONFIG payload (R29, R33). -/
def MbCmd.tickCfg (c : MbCmd) : TickCfg :=
  { period := c.f 0 4, maint := if c.f 4 4 == 0 then defaultWindow (c.f 0 4) else c.f 4 4, source := c.f 8 1,
    tickOut := bit (c.f 9 1) 0, inWindow := if c.f 12 4 == 0 then 1000 else c.f 12 4, phase := c.f 16 8 }

def tickChks (c : MbCmd) : List Chk :=
  let p := c.f 0 4
  let w := c.f 4 4
  let iw := if c.f 12 4 == 0 then 1000 else c.f 12 4
  [lenIs c 24, (20000 ≤ p && p ≤ 2000000000, 64), (w == 0 || (8000 ≤ w && w ≤ p / 2), 68), (c.f 8 1 ≤ 2, 72),
   (c.f 9 1 / 4 == 0, 73), (c.z 10 2, 74),
   ((c.f 12 4 == 0 || (100 ≤ c.f 12 4 && c.f 12 4 ≤ 100000)) && (c.f 8 1 != 2 || iw ≤ p / 4), 76)]

/-- A valid configuration queued (R30); a re-acquisition, once requested, stays (R27, R30). -/
def Dev.setTick (mb : Nat) (c : MbCmd) (d : Dev) : Dev :=
  let cfg := c.tickCfg
  let re := d.tu.reacq || bit (c.f 9 1) 1
  let d := { d with tu := { d.tu with pend := some cfg, reacq := re } }
  let d := if re && cfg.source == 0 then
      { d with tu := { d.tu with endNs := Nat.max d.now (d.tu.startNs + cfg.period) } }
    else if re && cfg.source == 2 then { d with tu := { d.tu with endNs := d.tu.startNs + 2 * cfg.period } }
    else if re then { d with tu := { d.tu with endNs := d.tu.holdNext cfg (Nat.max d.now (d.tu.startNs + cfg.tMin)) } }
    else d
  d.okWith mb c []

/-- MB_TICK_CONFIG (R30). -/
def execMbTickConfig (mb : Nat) (s : State) : Host.Outcome State Fault Refusal :=
  serveD mb 0x20 allMsgs (fun _ c => tickChks c) (fun c => Dev.setTick mb c) s

/-- TICK_REACQUIRE (R27): the message with its re-acquire flag set. -/
def execTickReacquire (mb : Nat) (s : State) : Host.Outcome State Fault Refusal :=
  serveD mb 0x20 (fun c => bit (c.f 9 1) 1) (fun _ c => tickChks c) (fun c => Dev.setTick mb c) s

/-- Entries of a MB_SLOT_TABLE payload (R35). -/
def MbCmd.slots (c : MbCmd) : List SlotEntry :=
  (List.range (c.f 0 1)).map (fun i =>
    { length := c.f (8 + 16 * i) 4, owner := c.f (12 + 16 * i) 1, rt := c.f (13 + 16 * i) 1 == 1,
      yield := c.f (14 + 16 * i) 1 == 1, entry := c.f (15 + 16 * i) 1 })

/-- Form of a slot table (R35, R36). -/
def slotChks (cfg : TickCfg) (c : MbCmd) : List Chk :=
  let n := c.f 0 1
  let tab := c.slots
  ([(n ≤ 64, 64), (c.payload.length == 8 + 16 * n, 64), (c.z 1 7, 65)] : List Chk) ++ (List.range n).flatMap (fun i : Nat =>
    let o := 8 + 16 * i
    let e := tab.getD i {}
    let endNs := sumOf ((tab.take (i + 1)).map (fun e => e.length))
    ([(1000 ≤ e.length || (e.length == 0 && i + 1 == n && !e.rt && e.owner != 0), 64 + o), (endNs ≤ cfg.period - cfg.maint, 64 + o),
     (!e.rt || endNs ≤ cfg.tMin - cfg.maint, 64 + o), (e.owner ≤ 64, 68 + o), (c.f (o + 5) 1 ≤ 1, 69 + o),
     (c.f (o + 6) 1 ≤ (if e.rt && e.owner != 0 then 1 else 0), 70 + o), (e.entry ≤ 63, 71 + o), (c.z (o + 8) 8, 72 + o)] : List Chk))

/-- MB_SLOT_TABLE (R36, R44). -/
def execMbSlotTable (mb : Nat) (s : State) : Host.Outcome State Fault Refusal :=
  serveD mb 0x21 allMsgs (fun s c => slotChks s.dev.nextCfg c) (fun c d =>
    match Dev.firstBadSlot (d.checkEnv 0 none) c.slots (fun _ => true) with
    | some i => d.reply mb c 4 (i + (c.slots.getD i {}).entry * 2 ^ 8)
    | none => ({ d with slots := { d.slots with pend := some c.slots } }).okWith mb c []) s

/-- Length and fields of MB_BOUND_WRITE (R336). -/
def boundChks (c : MbCmd) : List Chk :=
  ([(1 ≤ c.f 0 1 && c.f 0 1 ≤ 64, 64), (c.payload.length == 8 + 8 * c.f 0 1, 64), (c.f 1 1 ≤ 1, 65), (c.z 2 6, 66)] : List Chk)
    ++ (List.range (c.f 0 1)).flatMap (fun i => ([(c.f (8 + 8 * i) 1 ≤ 63, 72 + 8 * i), (c.z (9 + 8 * i) 3, 73 + 8 * i)] : List Chk))

/-- MB_BOUND_WRITE (R336). -/
def execMbBoundWrite (mb : Nat) (s : State) : Host.Outcome State Fault Refusal :=
  serveD mb 0x30 allMsgs (fun _ c => boundChks c)
    (fun c d =>
      let ws := (List.range (c.f 0 1)).map (fun i => (c.f (8 + 8 * i) 1, BitVec.ofNat 32 (c.f (12 + 8 * i) 4)))
      let d := d.setCtx mb (fun x => { x with pendBounds := x.pendBounds ++ ws })
      if c.f 1 1 == 1 then d.hold mb c else d.okWith mb c []) s

/-- Length and fields of MB_EVENT_ACK (R323). -/
def ackChks (mb : Nat) (d : Dev) (c : MbCmd) : List Chk :=
  let fl := c.f 4 1
  [lenIs c 12, (c.f 0 4 ≤ (d.mbox mb).evSeq.toNat, 64), (fl ≤ 3 && !(bit fl 1 && mb == 0), 68), (c.z 5 3, 69),
   (c.f 8 4 ≤ (if bit fl 1 then 1 else 0), 72)]

/-- MB_EVENT_ACK (R323). -/
def execMbEventAck (mb : Nat) (s : State) : Host.Outcome State Fault Refusal :=
  serveD mb 0x72 allMsgs (fun s c => ackChks mb s.dev c)
    (fun c d =>
      let fl := c.f 4 1
      let old := (d.mbox mb).sub
      let d := if bit fl 1 then d.setCtx mb (fun x => { x with evMask := BitVec.ofNat 32 (c.f 8 4) }) else d
      let d := d.setMbox mb (fun m => { m with
        events := m.events.filter (fun e => c.f 0 4 < e.seq.toNat), sub := if bit fl 0 then some c.peer else m.sub })
      let d := if bit fl 0 && old != some c.peer then
          (d.mbox mb).events.foldl (fun d e => (d.answerTo c).sendMsg c.peer (Dev.eventBytes mb e)) d
        else d
      d.okWith mb c []) s

/-- Length and fields of MB_SQ_CONFIG (R106). -/
def sqChks (c : MbCmd) : List Chk := [lenIs c 16, (c.f 0 1 ≤ 10, 64), (c.f 1 1 ≤ 10, 65), (c.z 2 14, 66)]

/-- A Square's cache becomes `want` granules (R106): it is emptied, and the granules that change hands are undefined
under valid check bits.
Log 49 (DESIGN CHOICE). -/
def Dev.resizeCache (i want : Nat) (d : Dev) : Dev :=
  let g := (d.square i).g
  if g == want then d
  else
    let lo := Nat.min (20 - g) (20 - want) * 2 ^ 25
    let hi := Nat.max (20 - g) (20 - want) * 2 ^ 25
    let d := (d.emptyCache i).setSq i (fun q => { q with g := want })
    let a := Dev.sqBase i + lo
    ({ d with mem := d.mem.vacate a (hi - lo) d.fresh
              upsets := d.upsets.filter (fun u => 8 * u.1 < a || Dev.sqBase i + hi ≤ 8 * u.1) }).bump

/-- A cache granule, 20 − G to 19, in a quadrant of die i that is off (R106, R129). -/
def Dev.cacheOff (i want : Nat) (d : Dev) : Bool :=
  (List.range 4).any (fun q => !(d.square i).quadOn.getLsbD q && 20 - want < 5 * (q + 1) && want != 0)

/-- MB_SQ_CONFIG (R106, R129). -/
def execMbSqConfig (mb : Nat) (s : State) : Host.Outcome State Fault Refusal :=
  serveD mb 0x40 allMsgs (fun _ c => sqChks c) (fun c d =>
    match Dev.ctxIds.find? (fun i => (d.ctx i).st != .unclaimed && (d.ctx i).st != .empty) with
      | some i => d.reply mb c 7 (d.ctxDetail i)
      | none =>
        if (List.range d.nDies).any (fun i => d.cacheOff i (c.f i 1)) then d.reply mb c 7 (Dev.unitDetail .off)
        else ((List.range d.nDies).foldl (fun d i => d.resizeCache i (c.f i 1)) d).okWith mb c []) s

end Sys2Proof.Machine
end

