-- ==== Sys2Proof/Machine/Attend.lean ====
section
/-! DEFINITION. The arithmetic of one `ATTEND` tile (R230 to R235). -/

namespace Sys2Proof.Machine
namespace T

/-- The running state of a query row: maximum, sum, accumulators. -/
structure QRow where
  m : FV
  l : FV
  acc : List FV

/-- Narrowed weights of a page (R232): MXFP8 E4M3 in blocks of 32 keys, or BF16; decoded again. -/
def narrow (mx : Bool) (w : List FV) : List FV :=
  if mx then
    (chunks 32 w).flatMap (fun b =>
      let e := DType.e4m3.encodeBlock (b.map (fun x => (x, Rnd.ne)))
      e.2.map (fun c => DType.e4m3.scaled c e.1))
  else w.map (fun x => Fmt.bf16.decode (Fmt.bf16.encode .ne x))

/-- One page folded into a row: masked keys have no key row. -/
def attendRow (mx : Bool) (scale : FV) (q : List FV) (keys : List (Option (List FV × List FV))) (r : QRow) : QRow :=
  let z := keys.map (fun k => match k with
    | none => FV.inf true
    | some kv => mulr32 (mulr32 (dotRow q kv.1 []) scale) SfnP.log2e)
  let mn := FV.max r.m (treeMax256 z)
  if mn == .inf true then r
  else
    let al := SfnP.native.exp2 (subr32 r.m mn)
    let wq := narrow mx (z.map (fun x => SfnP.native.exp2 (subr32 x mn)))
    let vs := keys.map (fun k => (k.map Prod.snd).getD [])
    { m := mn
      l := addr32 (mulr32 r.l al) (treeSum256 wq)
      acc := r.acc.zipIdx.map (fun a =>
        addr32 (mulr32 a.1 al) (dotRow wq (vs.map (fun v => v.getD a.2 .zero)) [])) }

/-- Whether key token k is masked for query token i (R231). -/
def maskedKey (causal : Bool) (nk t k i : Nat) : Bool :=
  nk ≤ k || (causal && (nk : Int) - (t : Int) + (i : Int) < (k : Int))

/-- A page: the keys each query row may see, read once where any row of the tile sees them (R231, R235).
Log 82 (DEDUCED). -/
def pageRows (m : InFlight) (q0 q1 pg h : Nat) : T (List (Option (List FV × List FV))) := do
  let kp := m.ten 12
  let vp := m.ten 14
  let t := (m.ten 10).e 1
  let kv := h / ((m.ten 16).e 2 / (kp.e 0 / 128)) * 128
  let causal := bit (miVar m.raw) 0
  let one (x : Tensor) (k : Nat) : T (List FV) := do use (← seg m 1 x [k, 0, 0, 0, 0] kv (kv + 128))
  (List.range 256).mapM (fun j => do
    let k := 256 * pg + j
    if (List.range' q0 (q1 - q0)).all (fun i => maskedKey causal (kp.e 1) t k i) then pure none
    else do
      let a ← one kp k
      let b ← one vp k
      pure (some (a, b)))

/-- One tile of `ATTEND`. -/
def attend (m : InFlight) (q : Nat) : T Unit := do
  let o := m.ten 8
  let qt := m.ten 10
  let pl := m.ten 16
  let i := m.at' q
  let h := nth i 0
  let part := nth i 2
  let g := attParts m
  let t := qt.e 1
  let nk := (m.ten 12).e 1
  let q0 := 128 * nth i 1
  let q1 := Nat.min (q0 + 128) t
  let scale := f32n (m.f 20 4)
  let causal := bit (miVar m.raw) 0
  let mx := (m.ten 14).dtype.isMx
  let s0 := part * pl.e 0 / g
  let s1 := (part + 1) * pl.e 0 / g
  let b := q0 / 256
  let slots ← (List.range' s0 (s1 - s0)).mapM (fun s => do
    return leNat (← bytes m pl (pl.row [b, h, 0, 0, 0] + 4 * s) 4))
  let qs ← (List.range' q0 (q1 - q0)).mapM (fun r => vals m qt [r, 0, 0, 0, 0] (128 * h) (128 * h + 128))
  let init : List QRow := qs.map (fun _ => ⟨.inf true, .zero, List.replicate 128 .zero⟩)
  let rows ← slots.foldlM (fun rs pg => do
    if pg == 0xFFFFFFFF || nk ≤ 256 * pg then return rs
    let keys ← pageRows m q0 q1 pg h
    return (rs.zip qs).zipIdx.map (fun x =>
      attendRow mx scale x.1.2 (keys.zipIdx.map (fun k =>
        if maskedKey causal nk t (256 * pg + k.2) (q0 + x.2) then none else k.1)) x.1.1)) init
  let out := rows.map (fun r =>
    if bit (miVar m.raw) 1 then r.acc
    else if r.l.isZero then List.replicate 128 FV.zero
    else let y := SfnP.native.recip r.l; r.acc.map (fun a => mulr32 a y))
  let at' (x : Nat) : List Nat := [q0 + x, part, 0, 0, 0]
  let w ← wr m o false 0 (fun _ => false)
  match m.ten? 18 with
  | none => put w o (out.zipIdx.map (fun x => (at' x.2, 128 * h, x.1)))
  | some st =>
    let ws ← wr m st false 0 (fun _ => false)
    let srow (x : Nat) : List Nat := [q0 + x, h, part, 0, 0]
    backed ((List.range rows.length).flatMap (fun x => st.runs (srow x) 0 2))
    put w o (out.zipIdx.map (fun x => (at' x.2, 128 * h, x.1)))
    put ws st (rows.zipIdx.map (fun x => (srow x.2, 0, [x.1.m, x.1.l])))

end T
end Sys2Proof.Machine
end

