-- ==== Sys2Proof/Machine/Tile.lean ====
section
/-! DEFINITION. Cores and completion (R51, R85, R86, R91, R111, R116, R127, R192, R209, R255, R256, R274, R275, R280, R339,
R439): work items, halo holds, macro-instructions that complete. -/

namespace Sys2Proof.Machine

/-- The arithmetic of item k of tile q, by class. Log 83 (DESIGN CHOICE). -/
def T.item (m : InFlight) (q k : Nat) : T Unit :=
  match miOpc m.raw with
  | 0x10 => T.matmul m q k
  | 0x11 => T.attend m q
  | 0x12 => T.convTile m q (match miVar m.raw with | 0 => T.convDense m q | 1 => T.convDiag m q | _ => T.convSpace m q)
  | 0x13 => if miVar m.raw == 2 then T.poolArgmax m q else T.poolTile m q (miVar m.raw == 1)
  | 0x20 => if 0x10 ≤ m.f 16 1 then T.vopRow m q else T.vop m q
  | 0x21 => T.sfn m q
  | 0x22 => T.normst m q
  | 0x23 => T.normap m q
  | 0x24 => T.rope m q
  | 0x25 => if bit (miVar m.raw) 0 then T.quantOv m q else T.quantPlain m q
  | 0x30 => if miVar m.raw == 1 then T.multicast m q else T.moveCopy m q
  | 0x31 => T.pref m q
  | _ => pure ()

/-- Whether a bank written by a `MOVE` passes the check of R275. -/
def bankOk (b : List Byte) : Bool :=
  let w := fld b 1 1
  bankKind b ≤ 3 && (bankKind b != 3 || ((w == 1 || w == 2 || w == 4)
    && (List.range w).all (fun p =>
      let l := lzpLens b p
      l.all (fun x => x != 0) && sumOf (l.map (fun x => 2 ^ (15 - x))) ≤ 2 ^ 15)))

namespace Dev

/-- Stored bits of a word of the Square or of a core buffer that come to read wrong (R127): its address, and how many bits.
Log 87 (DEDUCED). -/
def upset (d : Dev) (u : Nat × Nat) : Dev :=
  match d.canon (u.1 / 64 * 64) with
  | none => d
  | some k => if u.2 == 0 || (isStk k && !d.cachedLine k u.1) then d else { d with upsets := amod d.upsets (u.1 / 8) 0 (fun n => n + u.2) }

/-- The next item of a core: the earliest macro-instruction that still has one for it, of the context that executes or of one
that is torn down (R51, R77, R256). Log 86 (DEDUCED). -/
def nextItem (d : Dev) (core : Nat) : Option (InFlight × Nat) :=
  d.mis.findSome? (fun m =>
    if m.st != core / 12 || !(m.ctx == d.executing || (d.ctx m.ctx).st == .tearingDown) then none
    else match m.todo.find? (fun p => p.1 == core) with
      | some (_, w :: _) => some (m, w)
      | _ => none)

/-- The range of tiles of the cluster of a macro-instruction (R77). -/
def rangeOf (d : Dev) (m : InFlight) : Nat × Nat := tileRange (coreset (d.progOf m.ctx) m.st m.raw) (prodOf m.n)

/-- The rank of a tile (R86, R256): halo tiles after the others. -/
def rankBefore (d : Dev) (m : InFlight) (p q : Nat) : Bool :=
  let r := d.rangeOf m
  let h (x : Nat) : Bool := miOpc m.raw == 0x12 && isHalo m r.1 r.2 x
  if h p == h q then p < q else h q

/-- The faulting tile of an overflow (R86). -/
def faultTile (d : Dev) (m : InFlight) : Nat :=
  let r := d.rangeOf m
  let l := (List.range' r.1 (r.2 - r.1)).filter (tileOver d m)
  l.foldl (fun b q => if d.rankBefore m q b then q else b) (l.headD 0)

/-- A core leaves the work of a context. -/
def clearCore (i core : Nat) (d : Dev) : Dev :=
  { d with mis := d.mis.map (fun (m : InFlight) =>
      if m.ctx == i then { m with todo := m.todo.map (fun (p : Nat × List Nat) => if p.1 == core then (p.1, []) else p) } else m) }

/-- Per-core counters at a tile's end (R439): exact for what a tile moves, for expander stall and tiles, free for what timing
decides. Log 85 (DESIGN CHOICE). -/
def coreCounts (m : InFlight) (core stall tiles : Nat) (d : Dev) : Dev :=
  let l := d.trace.meter
  ({ d with trace := { d.trace with meter := [] } }).addCounts m core (fun ev =>
    if ev == 0x06 then some stall else if ev == 0x0D then some tiles else if ev == 0x0E then some 0
    else if 7 ≤ ev && ev ≤ 12 then some ((aget l ev).getD 0) else none)

/-- The objects a halo tile waits on have reached `HALO_N` (R256). -/
def haloMet (d : Dev) (m : InFlight) (w : Nat) : Bool :=
  let r := d.rangeOf m
  let h := haloOf m r.1 r.2 (w / m.s)
  let o := m.f 34 2 % 2 ^ 14
  (!h.1 || m.f 36 2 ≤ d.objVal m.ctx o) && (!h.2 || m.f 36 2 ≤ d.objVal m.ctx (o + 1))

/-- An item done: it leaves the share; the last one completes the share and signals under `SIG_MODE` 2, once the partial lines
of the macro-instruction are written (R91, R116). The signal of the last share of all waits for what completion does before it
(R111, R209, R274). Log 171 (DEDUCED). -/
def popItem (m : InFlight) (core : Nat) (d : Dev) : Dev :=
  let left := ((m.todo.find? (fun p => p.1 == core)).map (fun p => p.2.drop 1)).getD []
  let d := d.setMi m.id (fun x => { x with
    todo := x.todo.map (fun (p : Nat × List Nat) => if p.1 == core then (p.1, left) else p)
    doneCores := if left.isEmpty then x.doneCores ++ [core] else x.doneCores })
  if !left.isEmpty || sigMode m.raw != 2 then d
  else if m.todo.all (fun p => p.1 == core || p.2.isEmpty) then d.setMi m.id (fun x => { x with owes := true })
  else (d.drainUser m.id).signal m.ctx (sigSo m.raw) (sigN m.raw) false m.st 0 m.off 0

/-- An item worked (R51, R84, R125, R280): its results, its counts, what is fetched ahead of the core, or its fault.
Log 74 (DESIGN CHOICE), 83 (DESIGN CHOICE), 84 (DESIGN CHOICE). -/
def workItem (m : InFlight) (w core : Nat) (d : Dev) : Dev :=
  let q := w / m.s
  let k := w % m.s
  match (ExceptT.run (T.item m q k)).run { d := d, core := core + 1 } with
  | (.error (.fault cls info), ts) =>
    (({ ts.d with trace := { ts.d.trace with meter := [] } } : Dev).faultCtx m.ctx cls m.st 0 m.off info).clearCore m.ctx core
  | (.ok _, ts) =>
    let d := ts.d.setMi m.id (fun x => { x with drop := ts.drop.foldl (fun l b => l.insert b) x.drop })
    let stall := if hasComp m then cdiv (ts.exp + cbBytes d m q k) 128 + 16 - classTc m q k else 0
    let tiles := b2n ((m.partials.filter (fun x => x.1 == q)).length + 1 == m.s)
    let d := if stall == 0 then d else d.cnt 0x63 m.ctx stall
    let d := ((d.cnt 0x01 m.st (Config.freeNat d.fresh)).bump)
    let d := ((d.cnt 0x03 m.st (Config.freeNat d.fresh)).bump)
    (((d.coreCounts m core stall tiles).popItem m core).aheadNext m.id core).tryYield m.ctx

/-- The macro-instruction whose overflow sets the stopping point of a stream of a context (R86). -/
def limitOf (d : Dev) (m : InFlight) : Option InFlight := d.mis.find? (fun f => f.ctx == m.ctx && f.st == m.st && f.limit.isSome)

/-- Whether an item ranks before the faulting tile of an overflow in its stream: it is worked all the same (R86, R256). -/
def goesOn (d : Dev) (m : InFlight) (w : Nat) : Bool :=
  (d.limitOf m).any (fun f => m.id < f.id || (m.id == f.id && d.rankBefore m (w / m.s) (f.limit.getD 0)))

/-- A core of a context that is torn down (R86, R256, R339): it completes the item in hand and stops; where an overflow sets the
stopping point it goes on to the faulting tile, and works a halo tile ranked before it whatever the objects hold: no signal
reaches a context that is torn down. Log 86 (DEDUCED). -/
def tearItem (m : InFlight) (w core : Nat) (d : Dev) : Dev :=
  let stop := d.clearCore m.ctx core
  if d.goesOn m w then (if tileOver d m (w / m.s) then stop else d.workItem m w core)
  else if (d.limitOf m).isSome || (m.halo.contains w && !d.haloMet m w) then stop
  else (d.workItem m w core).clearCore m.ctx core

/-- Blocks read through `DROP_AFTER_USE` written back and invalidated (R111). -/
def flushDrop (l : List Nat) (d : Dev) : Dev :=
  (List.range 2).foldl (fun d die =>
    (d.square die).blocks.foldl (fun d b => if l.contains b.blk then d.flushBlock die b else d) d) d

/-- A lookup reload at completion (R209). Log 87 (DEDUCED). -/
def reloadLut (m : InFlight) (d : Dev) : Dev :=
  let p := d.progOf m.ctx
  match (if writesFirst m.raw then m.ten? 8 else none) with
  | none => d
  | some t => (d.lutBanksOf p t.idx).foldl (fun d x =>
      d.store Access.plain 0 (p.lutDir + 8 * x.1 + 4) (leBytes 2 ((x.2.2.gen + 1) % 2 ^ 16) ++ leBytes 1 x.2.1) (fun _ => false)) d

/-- A table reload by `MOVE` at completion: the bank is read and checked (R127, R274, R275, R425). -/
def reloadMove (m : InFlight) : M Unit := do
  let p := (← get).progOf m.ctx
  match (if miOpc m.raw == 0x30 && miVar m.raw == 0 then (m.ten? 8).bind (ctabBankOf p) else none) with
  | none => pure ()
  | some (s, b) =>
    M.need (bankOk (← readCtl (p.ctBank s b) 1024)) .illegal
    modify (fun d => d.reloadCtab m.ctx s b)

/-- `MOVE` `VAR` 2 completes (R65, R71, R73, R473): its word read, its bound register written. -/
def loadBound (m : InFlight) (d : Dev) : Dev :=
  match (readCtl ((d.progOf m.ctx).addr (m.f 20 6)) 4).run.run d with
  | (.error (.fault cls info), d) => d.faultCtx m.ctx cls m.st 0 m.off info
  | (.ok b, d) => (d.setBound m.ctx (m.f 13 1) (leNat b)).finishMi m

/-- A macro-instruction completes  (R51, R111, R116, R192, R209, R274): its record
before that of its event (R444). Log 85 (DESIGN CHOICE), 149 (DEDUCED). -/
def completeMi (m : InFlight) (d : Dev) : Dev :=
  match (reloadMove m).run.run (((d.drainUser m.id).flushDrop m.drop).reloadLut m) with
  | (.error (.fault cls info), d) => d.faultCtx m.ctx cls m.st 0 m.off info
  | (.ok _, d) =>
    let tell := m.clamped != 0 && (d.ctx m.ctx).evMask.getLsbD 0
    let d := d.finishMi m
    if tell then d.raise [m.ctx] { code := 0x8009, ctx := m.ctx, unit := m.st, arg0 := m.off, arg1 := m.clamped } else d

end Dev

/-- TILE_COMPLETE (R51, R84 to R86, R91, R127); a matrix-engine tile does not start while the cap holds it back (R462). -/
def execTileComplete (core : Nat) (upsets : List (Nat × Nat)) (s : State) : Host.Outcome State Fault Refusal :=
  onDev (fun d =>
    match d.nextItem core with
    | none => d
    | some (m, w) =>
      let d := upsets.foldl Dev.upset d
      if (d.ctx m.ctx).st == .tearingDown then d.tearItem m w core
      else if d.executing != m.ctx || (d.ctx m.ctx).st != .running || m.halo.contains w
          || (d.power.hold && (miOpc m.raw == 0x10 || miOpc m.raw == 0x11 || miOpc m.raw == 0x12)) then d
      else if tileOver d m (w / m.s) then
        let q := d.faultTile m
        (d.setMi m.id (fun x => { x with limit := some q })).faultCtx m.ctx .overflow m.st 0 m.off q
      else d.workItem m w core) s

/-- HALO_WAIT_SATISFIED (R256): the core's next item is a halo tile whose objects have reached `HALO_N`. -/
def execHaloWaitSatisfied (core : Nat) (s : State) : Host.Outcome State Fault Refusal :=
  onDev (fun d =>
    match d.nextItem core with
    | none => d
    | some (m, w) =>
      if m.halo.contains w && d.haloMet m w && (d.ctx m.ctx).st == .running then
        (d.setMi m.id (fun x => { x with halo := x.halo.erase w })).addCounts m core (fun ev => if ev == 0x0E then none else some 0)
      else d) s

/-- MI_COMPLETE (R51, R91): the n-th macro-instruction in flight of a stream. -/
def execMiComplete (st n : Nat) (s : State) : Host.Outcome State Fault Refusal :=
  onDev (fun d =>
    match (d.mis.filter (fun m => m.st == st)).drop n with
    | [] => d
    | m :: _ =>
      if miOpc m.raw == 0x40 || m.fenced || !m.todo.all (fun p => p.2.isEmpty) || !Dev.holds (d.ctx m.ctx) then d
      else if miRow m.raw == some (0x30, 2) then d.loadBound m else d.completeMi m) s

end Sys2Proof.Machine
end

