-- ==== Sys2Proof/Machine/StackMem.lean ====
section
/-! DEFINITION. Stacked memory as its own events: refresh and temperature (R282, R304 to R306), requests at a
pseudo-channel, page locks and decoders (R293 to R302), lost training (R428), the idle drain of the write-combining buffer
(R116), the end of a teardown (R339). -/

namespace Sys2Proof.Machine

namespace Dev

/-- A per-bank refresh served (R282, R304). -/
def refreshed (s pch bank : Nat) (d : Dev) : Dev :=
  if d.st == .cold || d.nStacks ≤ s then d
  else d.setStack s (fun k => { k with refreshes := amod k.refreshes (64 * pch + bank) 0 (· + 1) })

/-- Refresh code of a reading (R304, R312). -/
def tempCode (degC : Nat) : Nat := if degC < 85 then 0 else if degC < 95 then 1 else 2

/-- The code after a reading: up at once; down after eight low readings; the first reading of all sets it (R304, R305).
Log 102 (DEDUCED). -/
def nextRefresh (k : Stack) (degC low95 low85 : Nat) : Nat :=
  let want := tempCode degC
  if !k.tempSeen || k.refresh ≤ want then want
  else if 8 ≤ low85 then want
  else if k.refresh == 2 && 8 ≤ low95 then 1
  else k.refresh

/-- `EV_MEM_TEMP` (R424). -/
def memTemp (s reason degC code : Nat) (d : Dev) : Dev :=
  d.raise [] { code := 0x800C, kind := 5, unit := s, reason := reason, aux := degC, arg0 := code }

/-- A valid temperature reading of a stack (R304 to R306). Log 102 (DEDUCED). -/
def readTemp (s degC : Nat) (d : Dev) : Dev :=
  if d.st == .cold || d.nStacks ≤ s then d
  else
    let k := d.stack s
    let l95 := if degC ≤ 92 then k.low95 + 1 else 0
    let l85 := if degC ≤ 82 then k.low85 + 1 else 0
    let code := nextRefresh k degC l95 l85
    let d := d.setStack s (fun k => { k with
      temp := degC, tempValid := true, tempSeen := true, overLimit := 105 < degC, lastReadNs := d.now, low95 := l95, low85 := l85
      refresh := code })
    let d := if code == k.refresh then d else d.memTemp s 0 degC code
    if 105 < degC && !k.overLimit then d.memTemp s 2 degC code else d

/-- The granules and buffers of a torn-down context (R122, R339): its pins, and what is resident, without write-back.
Log 110 (DEDUCED). -/
def invalidate (i : Nat) (d : Dev) : Dev :=
  match (d.ctx i).prog with
  | none => d
  | some p =>
    let res := d.slots.resident == i
    let m := (p.parts.filter (fun x => x.granted || res)).foldl
      (fun m x => m.undefine (sqBase x.die + x.off) x.size d.fresh) d.mem
    let m := if res then (coreBufs p).foldl (fun m r => m.undefine r.1 r.2 d.fresh) m else m
    { d with mem := m }.bump

/-- Whether the cores and engines have stopped (R161, R339); a core that holds at a halo tile has, but for one
ranked before the faulting tile of an overflow (R86, R256). Log 86 (DEDUCED). -/
def quiet (i : Nat) (d : Dev) : Bool :=
  d.mis.all (fun m => m.ctx != i || m.todo.all (fun p => match p.2 with
      | [] => true
      | w :: _ => m.halo.contains w && !d.haloMet m w && !d.goesOn m w))
    && d.kerb.all (fun e => e.queue.all (fun q => !(aget d.kcmds q.cmd).any (fun c => c.ctx == i)))

/-- Steps 4 and 5 of R339; a destroy raises no event, and its context is torn down until it is unclaimed (R328, R338).
Log 110 (DEDUCED). -/
def tornDown (i : Nat) (d : Dev) : Dev :=
  let c := d.ctx i
  let faulted := c.fault.cls.isSome
  let run := d.executing == i
  let d := (d.invalidate i).dropWork i
  let d := if !run then d
    else if d.slots.late == i then { d with slots := { d.slots with late := 0 } }
    else { d with slots := { d.slots with cur := d.slots.cur.map (fun (r : SlotRun) => { r with ended := true }) } }
  let d := if faulted then d.raise [i] { code := 0x8007, ctx := i, arg0 := d.now - c.faultNs } else d
  (d.setCtx i (fun x => { x with
    st := if faulted then .faulted else .tearingDown, torn := !faulted, objs := [], valid := [], dirty := [], streams := []
    unfinished := false, yielded := false })).tryRelease i

end Dev

/-- REFRESH_ISSUE (R304). -/
def execRefreshIssue (stack pch bank : Nat) (s : State) : Host.Outcome State Fault Refusal :=
  onDev (Dev.refreshed stack pch bank) s

/-- REFRESH_MANAGEMENT_REQUEST (R282): served as refresh. -/
def execRefreshManagementRequest (stack pch bank : Nat) (s : State) : Host.Outcome State Fault Refusal :=
  onDev (fun d => d.refreshed stack pch bank) s

/-- STACK_TEMP_READING (R304 to R306). -/
def execStackTempReading (stack degC : Nat) (s : State) : Host.Outcome State Fault Refusal := onDev (Dev.readTemp stack degC) s

/-- STACK_TEMP_NO_READING (R305): 8 ms after the last valid reading. Log 102 (DEDUCED). -/
def execStackTempNoReading (stack : Nat) (s : State) : Host.Outcome State Fault Refusal :=
  onDev (fun d =>
    let k := d.stack stack
    if d.st == .cold || d.nStacks ≤ stack || !k.tempValid then d
    else
      let d := d.upTo (k.lastReadNs + 8000000)
      let d := d.setStack stack (fun k => { k with
        refresh := 2, tempValid := false, temp := 0, overLimit := false, low95 := 0, low85 := 0 })
      let d := d.memTemp stack 1 0 2
      if k.refresh == 2 then d else d.memTemp stack 0 0 2) s

/-- LAT_CAP_WINDOW (R301, R302): the shares of every pseudo-channel and stack renew, and the I/O requests that waited are
served. -/
def execLatCapWindow (s : State) : Host.Outcome State Fault Refusal := onDev Dev.newWindow s

/-- STACKED_READ_REQUEST (R293 to R295). -/
def execStackedReadRequest (rq : MemReq) (s : State) : Host.Outcome State Fault Refusal :=
  onDev (Dev.requested (rq, [], false)) s

/-- STACKED_WRITE_REQUEST (R293). -/
def execStackedWriteRequest (rq : MemReq) (data : List Byte) (s : State) : Host.Outcome State Fault Refusal :=
  onDev (Dev.requested (rq, data, true)) s

/-- PAGE_DECODE_DONE (R293, R295 to R299). Log 104 (DESIGN CHOICE). -/
def execPageDecodeDone (page : Nat) (s : State) : Host.Outcome State Fault Refusal := onDev (Dev.decodeDone page) s

/-- PAGE_LOCK_RELEASE (R294). Log 104 (DESIGN CHOICE). -/
def execPageLockRelease (page : Nat) (s : State) : Host.Outcome State Fault Refusal := onDev (Dev.lockFree page) s

/-- MEM_CORR_RATE (R296). Log 97 (DESIGN CHOICE). -/
def execMemCorrRate (stack : Nat) (s : State) : Host.Outcome State Fault Refusal :=
  onDev (fun d =>
    let k := d.stack stack
    if d.nStacks ≤ stack || d.mcfg.corrWarn == 0 || k.corrTick < d.mcfg.corrWarn || k.corrRaised then d
    else (d.setStack stack (fun k => { k with corrRaised := true })).raise []
      { code := 0x800A, kind := 5, unit := stack, arg0 := k.corrTick }) s

/-- STACK_TRAINING_LOST (R428). -/
def execStackTrainingLost (stack : Nat) (s : State) : Host.Outcome State Fault Refusal :=
  onDev (fun d =>
    if d.nStacks ≤ stack || (d.stack stack).st != 0 then d
    else
      let d := d.setStack stack (fun k => { k with st := 2, lost := true })
      (d.raise [] { code := 0x8010, kind := 5, unit := stack, reason := 4 }).recheckUnits) s

/-- WCB_IDLE_DRAIN (R116, R117): after 512 tc without a write: 302 ns, or 427 ns at the clock of reduced service (R19). A full entry
drains; of another the drain first reads the line, and the row given again writes it. Log 152 (DESIGN CHOICE). -/
def execWcbIdleDrain (die line : Nat) (s : State) : Host.Outcome State Fault Refusal :=
  onDev (fun d =>
    match (d.square die).wcb.find? (fun e => e.line == line) with
    | none => d
    | some e =>
      let d := d.upTo (e.sinceNs + d.tcNs 512)
      if e.mask == Dev.fullMask || e.rest.isSome then d.drainWcb die e else d.readWcb die e) s

/-- TEARDOWN_COMPLETE (R338, R339). -/
def execTeardownComplete (ctx : Nat) (s : State) : Host.Outcome State Fault Refusal :=
  onDev (fun d => if (d.ctx ctx).st == .tearingDown && !(d.ctx ctx).torn && d.quiet ctx then d.tornDown ctx else d) s

end Sys2Proof.Machine
end

