-- ==== Sys2Proof/Machine/Scrub.lean ====
section
/-! DEFINITION. Scrub, traffic tests and repair (R47, R156, R163, R307 to R311); a Kerb command that completes in an engine
(R139, R143, R144). -/

namespace Sys2Proof.Machine

/-- Bytes of each pseudo-channel (R471). -/
def rawBytes : Nat := 805306368

namespace Dev

/-- The octets of a `KSCRUB` or `KTRAF` as firmware writes them (R135, R136, R156). -/
def scrubRaw (rewrite : Bool) (a n : Nat) : List Byte :=
  leBytes 1 6 ++ leBytes 1 (b2n rewrite) ++ leBytes 1 8 ++ leBytes 5 0 ++ leBytes 2 0x8000 ++ leBytes 2 0 ++ leBytes 8 a ++ leBytes 4 n
    ++ leBytes 40 0
def trafRaw (j : ScrubJob) (a n : Nat) : List Byte :=
  leBytes 1 7 ++ leBytes 1 0 ++ leBytes 1 8 ++ leBytes 5 0 ++ leBytes 2 0x8000 ++ leBytes 2 0 ++ leBytes 4 j.chmask ++ leBytes 8 a
    ++ leBytes 4 n ++ leBytes 1 j.pattern ++ leBytes 1 j.dir ++ leBytes 2 0 ++ leBytes 4 j.seed ++ leBytes 28 0

/-- One code page scrubbed under its lock, after what holds the page (R156, R293, R294, R297 to R299, R308): 1 corrected,
2 uncorrectable, 0 neither. A stack that lost its training is not decoded and nothing is counted (R428). Log 107 (DEDUCED). -/
def scrubPage (rewrite : Bool) (pg : Nat) (d : Dev) : Nat × Dev :=
  let s := stkOf (1024 * pg)
  if (d.stack s).lost then (0, d)
  else
  let d := d.settlePage pg
  let o := d.pageOutcome pg (List.range 16)
  let hit := o.1.find? (fun p => p.2.1 == .corrected)
  let k0 := 1024 * pg + 64 * (hit.map (fun p => p.1)).getD 0
  let d := (d.countRd s 2 1024).noteAll ((d.outcomeNotes pg o).filter (fun n => match n with | .corr _ _ => false | _ => true))
  if o.1.any (fun p => p.2.1 == .uncorr) then (2, d)
  else if hit.isNone then (0, d)
  else if rewrite then
    let (ns, d) := (d.logCorr k0 4 o.2).writePage 2 pg (o.1.map (fun p => (p.1, p.2.2.1, p.2.2.2)))
    (1, d.noteAll ns)
  else (1, d.logCorr k0 3 o.2)

/-- The page in slot n of a pseudo-channel, by its first stack-view byte (R288). -/
def pageOfSlot (s pch n : Nat) : Nat :=
  let j := 16 * n + ((pch / 4) ^^^ (n % 16) ^^^ (n / 16 % 16))
  svBase s + 4096 * j + 1024 * (pch % 4)

/-- The slots that raw storage [b, b + n) of a pseudo-channel touches (R290): the page, and the part of its slot. -/
def rawSlots (s pch b n : Nat) (d : Dev) : List (Nat × Nat × Nat) :=
  let z := d.slotSize
  if n == 0 then []
  else ((List.range' (b / z) ((b + n - 1) / z + 1 - b / z)).filter (fun i => i < d.perStack / 4096 / 16)).map (fun i =>
    (pageOfSlot s pch i / 1024, Nat.max b (i * z) - i * z, Nat.min (b + n) (i * z + z) - i * z))

/-- Raw storage [b, b + n) of a pseudo-channel written with a test's pattern (R290, R309): the lines whose bytes it holds have no
valid checks, the pages it touches no valid parity. The spec gives no bytes of a pattern: they are free values of the pattern
and its seed. Log 108 (DESIGN CHOICE). -/
def trash (tag s pch b n : Nat) (d : Dev) : Dev :=
  (d.rawSlots s pch b n).foldl (fun d x =>
    let (pg, lo, hi) := x
    let hit (l : Nat) : Bool := (64 * l < hi && lo < 64 * l + 64) || (1024 + 2 * l < hi && lo < 1024 + 2 * l + 2)
    let ls := (List.range 16).filter hit
    let m := if lo < 1024 then d.mem.undefine (1024 * pg + lo) (Nat.min hi 1024 - lo) tag else d.mem
    let m := { m with
      noCheck := ls.foldl (fun l i => l.insert (16 * pg + i)) m.noCheck
      poison := m.poison.filter (fun x => !(x / 16 == pg && hit (x % 16)))
      noParity := m.noParity.insert pg }
    ({ d with mem := m }).setDamage pg (ls.foldl (fun a i => a ^^^ (a &&& lineBits i)) (d.damageOf pg))) d

/-- Lines [0, n) from raw offset b whose stored data bytes are not a test's pattern (R309): 64 × line + pseudo-channel. -/
def unlike (tag s b n : Nat) (pchs : List Nat) (d : Dev) : List Nat :=
  (List.range n).flatMap (fun l => (pchs.filter (fun p => (d.rawSlots s p (b + 64 * l) 64).any (fun x =>
    let k := 1024 * x.1 + x.2.1
    (List.range (Nat.min x.2.2 1024 - x.2.1)).any (fun i =>
      d.mem.byte (k + i) ^^^ BitVec.ofNat 8 (bits (d.damageOf x.1) (8 * (x.2.1 + i) + 7) (8 * (x.2.1 + i))) != Config.freeByte tag (k + i))))).map
    (fun p => 64 * l + p))

/-- A job has ended in every stack named: its response (R308, R309). -/
def endJob (j : ScrubJob) (d : Dev) : Dev :=
  let d := { d with scrub := d.scrub.filter (fun x => x.order != j.order) }
  d.complete 0 j.order 0 0 false
    (if j.test then leBytes 8 j.errors ++ leBytes 8 (j.first.getD (2 ^ 64 - 1)) ++ leBytes 4 j.chans ++ leBytes 4 0
     else leBytes 4 j.read ++ leBytes 4 j.fixed ++ leBytes 4 j.bad)

/-- A job changed; one that has no stack left answers. -/
def setJob (j : ScrubJob) (d : Dev) : Dev :=
  if j.left.isEmpty then d.endJob j
  else { d with scrub := d.scrub.map (fun x => if x.order == j.order then j else x) }

/-- A stack whose part of a job is over. -/
def leaveJob (s : Nat) (j : ScrubJob) (d : Dev) : Dev := d.setJob { j with left := j.left.erase s }

/-- Jobs that wait on an engine which leaves service (R163). -/
def dropJobs (s : Nat) (d : Dev) : Dev :=
  (d.scrub.filter (fun j => j.left.contains s && !(d.eng s).queue.any (fun q =>
    (aget d.kcmds q.cmd).any (fun c => c.ctx == 0 && c.samples == j.order + 1)))).foldl (fun d j => d.leaveJob s j) d

/-- Items of a job in a stack: the pages of the range that are its own (R142), or the lines of a test. -/
def jobItems (s : Nat) (j : ScrubJob) : Nat := if j.test || stkOf j.addr == s then j.count else 0

/-- Firmware queues a command and the engine starts it: its lane is free, every earlier command has started, and it is
maintenance time (R47, R140, R156). Log 106 (DESIGN CHOICE). -/
def startBackground (s : Nat) (c : KCmd) (items : Nat) (d : Dev) : Dev :=
  let id := d.fresh + 1
  let d := { d with fresh := id, kcmds := aset d.kcmds id { c with id := id, engs := [s], left := [s] } }
  let d := d.setEng s (fun e => { e with queue := e.queue ++ [{ cmd := id, lane := 2, running := true, items := items }] })
  d.traceRec 2 0x20 0 (0x100 + s) 0 (fld c.raw 0 1) 0

/-- Whether firmware may start a command (R34, R46, R130, R140, R163): in maintenance time, behind calibration, its lane and one
of its 16 queue places free. -/
def backgroundFree (s : Nat) (d : Dev) : Bool :=
  s < d.nStacks && (d.eng s).svc == .inService && !(d.stack s).lost && d.maintTime && !d.calFirst s && d.firmwareEntries s < 16 && (d.eng s).queue.all (fun q => q.running || q.stopped)
    && !(d.eng s).queue.any (fun q => q.lane == 2 && q.running)

/-- The firmware command that runs in an engine. -/
def background (s : Nat) (d : Dev) : Option (KEntry × KCmd) := (d.running s 2).filter (fun x => x.2.kop == 6 || x.2.kop == 7)

/-- Pages [i, i + n) of a scrub command worked: read, corrected, uncorrectable. -/
def scrubPages (c : KCmd) (n : Nat) (d : Dev) : (Nat × Nat × Nat) × Dev :=
  (List.range n).foldl (fun (r : (Nat × Nat × Nat) × Dev) i =>
    let x := r.2.scrubPage (bit (fld c.raw 1 1) 0) (fld c.raw 12 8 / 1024 + i)
    ((r.1.1 + 1, r.1.2.1 + b2n (x.1 == 1), r.1.2.2 + b2n (x.1 == 2)), x.2)) ((0, 0, 0), d)

/-- Lines [0, n) of a test command worked in every pseudo-channel named (R156, R309): written with the pattern, or compared with it.
`hist` holds the errors of the storage itself, which the row gives: 64 × line + pseudo-channel. Log 108 (DESIGN CHOICE). -/
def trafLines (s : Nat) (c : KCmd) (n : Nat) (d : Dev) : List Nat × Dev :=
  let mask := fld c.raw 12 4
  let pchs := (List.range 64).filter (fun p => bit mask (p / 2))
  let tag := Config.trafTag (fld c.raw 28 1) (fld c.raw 32 4)
  let b := fld c.raw 16 8
  let own := c.hist.filter (fun e => e / 64 < n && pchs.contains (e % 64))
  match fld c.raw 29 1 with
  | 0 => (own, pchs.foldl (fun d p => d.trash tag s p b (64 * n)) d)
  | 1 => ((own ++ d.unlike tag s b n pchs).eraseDups, d)
  | _ => ([], pchs.foldl (fun d p => d.trash tag s p b (64 * n)) d)

/-- The first n items of the firmware command in an engine are done and it leaves the queue. -/
def backgroundDone (s : Nat) (e : KEntry) (c : KCmd) (n : Nat) (d : Dev) : Dev :=
  let d := { d.dropEntry s e.cmd with kcmds := adel d.kcmds e.cmd }
  let job := d.scrub.find? (fun j => j.order + 1 == c.samples)
  let move (j : ScrubJob) : ScrubJob :=
    let p := (aget j.pos s).getD 0 + n
    let j := { j with pos := aset j.pos s p }
    if jobItems s j ≤ p || j.stop.contains s || (d.eng s).svc != .inService then { j with left := j.left.erase s } else j
  if c.kop == 6 then
    let (r, d) := d.scrubPages c n
    match job with
    | some j => d.setJob (move { j with read := j.read + r.1, fixed := j.fixed + r.2.1, bad := j.bad + r.2.2 })
    | none =>
      let total := d.perStack / 1024
      d.setEng s (fun k => { k with patrolPos := (k.patrolPos + n) % total, patrolDone := k.patrolDone + n })
  else
    let (errs, d) := d.trafLines s c n
    match job with
    | some j =>
      let at' (x : Nat) : Nat := fld c.raw 16 8 + 64 * (x / 64)
      d.setJob (move { j with
        errors := j.errors + errs.length
        first := errs.foldl (fun f x => some (match f with | some y => Nat.min y (at' x) | none => at' x)) j.first
        chans := errs.foldl (fun m x => m ||| 2 ^ (x % 64 / 2)) j.chans })
    | none => d

/-- A job accepted: it stays outstanding until every stack named has done its part (R308, R309, R321). -/
def takeJob (mb : Nat) (c : MbCmd) (j : ScrubJob) (d : Dev) : Dev :=
  let left := c.stacks.filter (fun s => jobItems s j != 0)
  let j := { j with order := c.order, left := left }
  if left.isEmpty then (d.hold mb c).endJob j else { (d.hold mb c) with scrub := d.scrub ++ [j] }

end Dev

/-- Form of a MB_SCRUB_CONTROL payload (R13, R307). Log 107 (DEDUCED). -/
def scrubChks (d : Dev) (c : MbCmd) : List Chk :=
  let op := c.f 0 1
  let a := c.f 8 8
  let n := c.f 16 4
  let view (pages : Nat) : Bool := Dev.stkOf a < d.nStacks && a - Dev.svBase (Dev.stkOf a) + 1024 * pages ≤ d.perStack
  [lenIs c 32, (op ≤ 3, 64), (c.f 2 1 < 2, 66), (c.z 3 1, 67), (op == 0 || c.z 4 4, 68),
   (match op with
    | 1 => a % 1024 == 0 && Dev.isStk a && view 1
    | 2 => a % 64 == 0 && a < rawBytes
    | _ => a == 0, 72),
   (match op with
    | 1 => 1 ≤ n && n ≤ 2 ^ 24 && view n
    | 2 => 1 ≤ n && a + 64 * n ≤ rawBytes
    | _ => n == 0, 80),
   (op == 2 || c.z 20 4, 84), (if op == 2 then c.f 24 1 ≤ 3 else c.z 24 1, 88), (if op == 2 then c.f 25 1 ≤ 2 else c.z 25 1, 89),
   (c.z 26 2, 90), (if op == 2 then !c.z 28 4 else c.z 28 4, 92)]

/-- A row of MB_SCRUB_CONTROL. -/
def serveScrub (mb : Nat) (sel : Nat → Bool) (body : MbCmd → Dev → Dev) (s : State) : Host.Outcome State Fault Refusal :=
  serveD mb 0x91 (fun c => sel (c.f 0 1)) (fun s c => scrubChks s.dev c) body s

/-- SCRUB_SET_PATROL (R307, R308). -/
def execScrubSetPatrol (mb : Nat) (s : State) : Host.Outcome State Fault Refusal :=
  serveScrub mb (fun op => op == 0 || 3 < op) (fun c d =>
    (c.stacks.foldl (fun d s =>
      d.setEng s (fun e => { e with patrol := c.f 4 4, patrolRewrite := bit (c.f 2 1) 0 })) d).okWith mb c []) s

/-- SCRUB_RANGE (R307, R308). -/
def execScrubRange (mb : Nat) (s : State) : Host.Outcome State Fault Refusal :=
  serveScrub mb (fun op => op == 1) (fun c =>
    Dev.takeJob mb c { rewrite := bit (c.f 2 1) 0, addr := c.f 8 8, count := c.f 16 4 }) s

/-- TRAFFIC_TEST (R307, R309). -/
def execTrafficTest (mb : Nat) (s : State) : Host.Outcome State Fault Refusal :=
  serveScrub mb (fun op => op == 2) (fun c d =>
    match d.busyCtx with
    | some i => d.reply mb c 7 (d.ctxDetail i)
    | none =>
      if !d.slots.table.isEmpty then d.reply mb c 7 d.devDetail
      else d.takeJob mb c { test := true, addr := c.f 8 8, count := c.f 16 4, chmask := c.f 20 4, pattern := c.f 24 1,
                            dir := c.f 25 1, seed := c.f 28 4 }) s

/-- SCRUB_STOP (R307): range scrubs and tests end in the stacks named, a running one at its next page or line. -/
def execScrubStop (mb : Nat) (s : State) : Host.Outcome State Fault Refusal :=
  serveScrub mb (fun op => op == 3) (fun c d =>
    let d := { d with scrub := d.scrub.map (fun (j : ScrubJob) => { j with stop := j.stop ++ c.stacks.filter (fun s => j.left.contains s) }) }
    (c.stacks.foldl (fun d s => d.dropJobs s) d).okWith mb c []) s

/-- KSCRUB (R156, R308): a range scrub goes first (DESIGN CHOICE), then the patrol's pages for this tick.
Log 106 (DESIGN CHOICE). -/
def execKscrub (stack : Nat) (s : State) : Host.Outcome State Fault Refusal :=
  onDev (fun d =>
    if !d.backgroundFree stack then d
    else match d.scrub.find? (fun j => !j.test && j.left.contains stack) with
      | some j =>
        let p := (aget j.pos stack).getD 0
        d.startBackground stack { raw := Dev.scrubRaw j.rewrite (j.addr + 1024 * p) (j.count - p), samples := j.order + 1 } (j.count - p)
      | none =>
        let e := d.eng stack
        let n := Nat.min (Nat.min (e.patrol - e.patrolDone) (2 ^ 24)) (d.perStack / 1024 - e.patrolPos)
        if n == 0 then d
        else d.startBackground stack { raw := Dev.scrubRaw e.patrolRewrite (Dev.svBase stack + 1024 * e.patrolPos) n } n) s

/-- KTRAF (R156, R309): `bad` lists the errors the test finds, each as 64 × line + pseudo-channel.
Log 108 (DESIGN CHOICE). -/
def execKtraf (stack : Nat) (bad : List Nat) (s : State) : Host.Outcome State Fault Refusal :=
  onDev (fun d =>
    if !d.backgroundFree stack then d
    else match d.scrub.find? (fun j => j.test && j.left.contains stack) with
      | some j =>
        let p := (aget j.pos stack).getD 0
        d.startBackground stack { raw := Dev.trafRaw j (j.addr + 64 * p) (j.count - p), samples := j.order + 1, hist := bad } (j.count - p)
      | none => d) s

/-- BACKGROUND_STOP (R47, R163, R307, R446): the scrub or test of stack `src` (0 to 7) after `done` items, or the trace drain
(8) after `done` packets, when maintenance time has ended, a stop was asked for, or the engine drains.
Log 106 (DESIGN CHOICE). -/
def execBackgroundStop (src done : Nat) (s : State) : Host.Outcome State Fault Refusal :=
  onDev (fun d =>
    if src == 8 then d.drainTrace done
    else match d.background src with
      | none => d
      | some (e, c) =>
        let asked := (d.eng src).svc != .inService || d.scrub.any (fun j => j.order + 1 == c.samples && j.stop.contains src)
        if d.maintTime && !asked then d else d.backgroundDone src e c (Nat.min done e.items)) s

/-- KERB_ENGINE_COMPLETE (R139, R143, R144, R155, R156, R370). -/
def execKerbEngineComplete (stack lane : Nat) (s : State) : Host.Outcome State Fault Refusal :=
  onDev (fun d =>
    match d.running stack lane with
    | none => d
    | some (e, c) =>
      if c.kop == 6 || c.kop == 7 then
        (if d.maintTime then ((d.backgroundDone stack e c e.items).setEng stack (fun k => { k with done := k.done + 1 })).traceRec 2 0x21 0 (0x100 + stack) 0 c.kop 0 else d)
      else
        let d := d.workRest stack e c
        match d.running stack lane with
        | none => d
        | some (e, c) =>
          if e.stopped || !Dev.shareDone stack e c || e.sent != Dev.progressDue stack c e then d
          else match d.survReady stack e c with
            | (d, true) => (d.engineDone stack e c).collAll
            | (d, false) => d) s

/-- Checks of a MB_REPAIR_COMMIT payload (R311). -/
def repairChks (c : MbCmd) : List Chk :=
  let col := c.f 2 1 == 1
  [lenIs c 16, (c.f 0 1 < 8, 64), (c.f 1 1 < 64, 65), (c.f 2 1 ≤ 1, 66), (c.f 3 1 < 64, 67), (if col then c.z 4 4 else c.f 4 4 < 12288, 68),
   (if col then c.f 8 2 < 16 else c.z 8 2, 72), (c.z 10 6, 74)]

/-- MB_REPAIR_COMMIT (R311): the burn begins; its end answers. A second one waits for the burn in progress.
Log 109 (DEDUCED). -/
def execMbRepairCommit (mb : Nat) (s : State) : Host.Outcome State Fault Refusal :=
  serve mb 0x90 allMsgs (fun _ c => repairChks c) (fun c s =>
    let d := s.dev
    let r : Repair := { stack := c.f 0 1, pch := c.f 1 1, column := c.f 2 1 == 1, bank := c.f 3 1, row := c.f 4 4, col := c.f 8 2 }
    if Dev.sparesLeft s.otp r.stack r.pch r.column == 0 then
      { s with dev := d.reply mb c 7 ((d.stack r.stack).st + 2 ^ 8) }
    else if d.burn.isSome then s
    else { s with dev := { d.hold mb c with burn := some (some r, 0) } }) s

end Sys2Proof.Machine
end

