-- ==== Sys2Proof/Machine/Units.lean ====
section
/-! DEFINITION. Units that leave service and come back (R8, R9, R163, R396, R407 to R410, R430 to R433), power domains and
the cap (R459 to R463), links that come up (R344, R359). -/

namespace Sys2Proof.Machine

/-- The power domain of a unit of a kind of R430 (R459). -/
def domainOf (kind i : Nat) : Nat := match kind with | 0 => i | 1 => 40 + i | 2 => 48 + i | _ => 50 + i

/-- Drain bounds in ns (R431). -/
def drainBound (kind : Nat) : Nat := match kind with | 0 => 1000000 | 1 => 100000000 | 2 => 3000000000 | _ => 1000000

/-- The stored runs that a tile may write, operand by operand (R57, R65, R78, R123, R169, R187, R213, R224, R229, R258, R267):
values, scales, header words and side-list slots of the rows that its item computes. -/
def tileRuns (m : InFlight) (q : Nat) : List (Nat × Nat) :=
  let d := m.ten 8
  let i := m.at' q
  let n := T.span m d q 0
  let own (t : Tensor) (lo hi : Nat) (c : List Nat) : List (Nat × Nat) :=
    t.runs c lo hi ++ (if t.comp == 0 then [] else [(t.hdrAddr c 0, 8)])
  let rows := T.rowsOf m d q
  match miOpc m.raw with
  | 0x10 => rows.flatMap (own d n.1 n.2)
      ++ (m.ten? 18).toList.flatMap (fun s => own s 0 (n.2 - n.1) [(T.span m d q 1).1 / 256, n.1 / 128, 0, 0, 0])
  | 0x11 =>
    let (h, part, q0) := (nth i 0, nth i 2, 128 * nth i 1)
    (List.range' q0 (Nat.min (q0 + 128) ((m.ten 10).e 1) - q0)).flatMap (fun r =>
      own d (128 * h) (128 * h + 128) [r, part, 0, 0, 0] ++ (m.ten? 18).toList.flatMap (fun s => own s 0 2 [r, h, part, 0, 0]))
  | 0x13 => if miVar m.raw == 2 then rows.flatMap (fun c => own d 0 1 c ++ (m.ten 12).runs c 0 1) else rows.flatMap (own d n.1 n.2)
  | 0x20 => if 0x10 ≤ m.f 16 1 then rows.flatMap (own d 0 1) else rows.flatMap (own d n.1 n.2)
  | 0x22 =>
    let r0 := 8 * nth i 1
    (List.range' r0 (Nat.min (r0 + 8) ((m.ten 10).e 1) - r0)).flatMap (fun r => d.runs (nth i 0 :: r :: (i.drop 2).take 3) 0 4)
  | 0x25 => if bit (miVar m.raw) 0 then
        rows.flatMap (fun c => d.runs c n.1 n.2) ++ [(d.aux + T.sideIndex d i * d.auxStride, 64 + 4 * m.f 14 2)]
      else rows.flatMap (own d n.1 n.2)
  | 0x30 =>
    let c := i.drop 1
    let moved := (((m.ten 10).runs c n.1 n.2).zip (d.runs c n.1 n.2)).map (fun r => (r.2.1, r.1.2))
    if miVar m.raw == 1 then moved.flatMap (fun r => (T.castCores m).map (fun k => (coreBase + k * 2 ^ 20 + r.1, r.2)))
    else if d.comp == 3 then (T.lzpBlocks m d q).flatMap (fun j =>
      [(d.row c + 4096 * j, Nat.min 4096 (d.rb - 4096 * j)), (d.hdrAddr c j, 8)])
    else if storedMove m then moved ++ (if d.comp == 0 then [] else [(d.hdrAddr c 0, 8)])
    else own d n.1 n.2 c
  | 0x31 => []
  | _ => rows.flatMap (own d n.1 n.2)

/-- Lines that a tile writes (R433), as line numbers. -/
def tileLines (m : InFlight) (q : Nat) : List Nat :=
  ((tileRuns m q).flatMap (fun r => List.range' (r.1 / 64) ((r.1 + r.2 + 63) / 64 - r.1 / 64))).eraseDups

namespace Dev

/-- Whether a domain exists on the part (R1, R459). -/
def domainFitted (d : Dev) (dom : Nat) : Bool :=
  match unitOf dom with
  | some (k, i) => d.fitted k i
  | none => dom < 56

def domOn (d : Dev) (dom : Nat) : Bool := d.power.on.getLsbD dom
def setDom (dom : Nat) (b : Bool) (d : Dev) : Dev :=
  let m : BitVec 56 := 1#56 <<< dom
  { d with power := { d.power with on := if b then d.power.on ||| m else d.power.on &&& ~~~m } }

/-- Service state of a unit of R430 set. -/
def setSvc (kind i : Nat) (v : Svc) (d : Dev) : Dev :=
  match kind with
  | 0 => d.setCluster i (fun c => { c with svc := v })
  | 1 => d.setEng i (fun e => { e with svc := v })
  | 2 => d.setCodec i (fun e => { e with svc := v })
  | _ => d.setPort i (fun p => { p with svc := v })

/-- `EV_UNIT_STATE` (R424). -/
def unitEvent (kind i reason : Nat) (d : Dev) : Dev := d.raise [] { code := 0x8010, kind := kind, unit := i, reason := reason }

/-- When a unit began to drain, and whether its timeout has been reported. -/
def drainInfo (d : Dev) (kind i : Nat) : Nat × Bool :=
  match kind with
  | 0 => ((d.cluster i).drainNs, (d.cluster i).timeout)
  | 1 => ((d.eng i).drainNs, (d.eng i).timeout)
  | 2 => ((d.codec.getD i {}).drainNs, (d.codec.getD i {}).timeout)
  | _ => ((d.net.ports.getD i {}).drainNs, (d.net.ports.getD i {}).timeout)
def setDrain (kind i ns : Nat) (t : Bool) (d : Dev) : Dev :=
  match kind with
  | 0 => d.setCluster i (fun c => { c with drainNs := ns, timeout := t })
  | 1 => d.setEng i (fun e => { e with drainNs := ns, timeout := t })
  | 2 => d.setCodec i (fun e => { e with drainNs := ns, timeout := t })
  | _ => d.setPort i (fun p => { p with drainNs := ns, timeout := t })

/-- A unit enters `DRAINING` (R163, R396, R430, R431): the traffic of a port moves to the other, jobs that wait on a Kerb
engine leave it, and R45 applies. -/
def drain (kind i : Nat) (d : Dev) : Dev :=
  let d := (d.setSvc kind i .draining).setDrain kind i d.now false
  let d := if kind == 1 then d.dropJobs i else d
  let d := if kind == 3 then
      d.net.spaces.foldl (fun d s => (List.range 4).foldl (fun d x => d.moveOff s.peer (4 * i + x)) d) d
    else d
  d.recheckUnits

/-- Items still in flight in a unit that drains (R424, R431). Log 137 (DEDUCED), 139 (DEDUCED). -/
def inFlight (d : Dev) (kind i : Nat) : Nat :=
  match kind with
  | 0 => sumOf ((d.mis.filter (fun m => m.st == i && miOpc m.raw != 0x40 && !m.fenced)).map (fun m =>
      Nat.max 1 (sumOf (m.todo.map (fun p => p.2.length)))))
  | 1 => (d.eng i).queue.length
  | 2 => sumOf ((d.codec.getD i {}).streams.map (fun p => p.2.queue.length)) + b2n (d.codec.getD i {}).cur.isSome
  | _ => sumOf (d.net.spaces.map (fun s => (s.placing.filter (fun p => p.link / 2 == i)).length))

/-- Core buffers of a cluster: first byte of each. -/
def bufferKeys (i : Nat) : List Nat := (List.range 12).map (fun c => coreBase + (12 * i + c) * 2 ^ 20)

/-- Every stream of a codec engine closed under `MODE` 1; a destroy that waited for one proceeds (R338, R395). -/
def closeAll (e : Nat) (d : Dev) : Dev :=
  ((d.codec.getD e {}).streams).foldl (fun d (p : Nat × CStream) => (d.closeDiscard p.1).tryRelease p.2.mbox) d

/-- A unit reaches `DISABLED` and its domain is switched off (R431): the buffers of a cluster lose their contents, a codec
engine closes its streams, a port's links go down. Log 137 (DEDUCED). -/
def disable (kind i : Nat) (d : Dev) : Dev :=
  let d := match kind with
    | 0 => { d with mem := (bufferKeys i).foldl (fun m k => m.undefine k (2 ^ 19) d.fresh) d.mem }.bump
    | 2 => d.closeAll i
    | 3 => (d.downLink (2 * i) false).downLink (2 * i + 1) false
    | _ => d
  (((d.setSvc kind i .disabled).setDom (domainOf kind i) false).unitEvent kind i 2).recheckUnits

/-- A line marked poisoned where its current copy is (R298, R433). -/
def poisonLine (l : Nat) (d : Dev) : Dev :=
  match d.canon (64 * l) with
  | none => d
  | some k =>
    if d.cachedLine k (64 * l) then
      d.setSq (homeOf k) (fun q => { q with
        cpoison := q.cpoison.insert l
        blocks := q.blocks.map (fun b => if b.blk == l / 64 then { b with dirty := true } else b) })
    else { d with mem := d.mem.setPoison (k / 64) true }

def poisonLines (ls : List Nat) (d : Dev) : Dev := ls.foldl (fun d l => d.poisonLine l) d

/-- A cluster fenced: the tiles its cores work on leave poisoned lines; its macro-instructions never complete (R433).
Log 138 (DESIGN CHOICE). -/
def fenceCluster (i : Nat) (d : Dev) : Dev :=
  let mine := d.mis.filter (fun m => m.st == i && miOpc m.raw != 0x40)
  let run (m : InFlight) : Bool := d.executing == m.ctx || (d.ctx m.ctx).st == .tearingDown
  let lines := (List.range 12).flatMap (fun c =>
    match d.nextItem (12 * i + c) with
    | some (m, w) => if run m && !m.halo.contains w then tileLines m (w / m.s) else []
    | none => [])
  let d := d.poisonLines lines.eraseDups
  mine.foldl (fun d m => d.setMi m.id (fun x => { x with
    todo := x.todo.map (fun (p : Nat × List Nat) => (p.1, [])), halo := [], fenced := true })) d

/-- Stored bytes that an item of a command writes: address and length of each run (R149, R151, R152, R154). -/
def itemRuns (d : Dev) (c : KCmd) (k : Nat) : List (Nat × Nat) :=
  let t := c.ten 0
  let piece (w : Nat) (u : Tensor) : List (Nat × Nat) :=
    let i := digits (cdiv (t.e 0) w :: t.ext.drop 1) k
    storedRuns u (i.drop 1) (w * nth i 0) (Nat.min (w * nth i 0 + w) (t.e 0))
  match c.kop, c.kvar with
  | 1, _ => [((c.ten 2).row [k], (c.ten 2).rb)]
  | 2, 0 => [(t.row ((digits (t.e 1 :: (c.ten 1).ext.drop 1) k).take 5), 16)]
  | 2, 1 => [(t.row (digits ((c.ten 1).ext.drop 2) k), 16)]
  | 2, _ => piece 512 t
  | 3, _ => piece 512 t ++ ((c.ten? 1).map (piece 512)).getD []
  | 4, 2 => piece (moveTile t) t
  | 4, 3 => []
  | 4, v =>
    let x := if v == 0 then k else leNat (d.peek ((c.ten 2).row [] + 4 * k) 4).1
    if x == 0xFFFFFFFF then [] else (sliceRows t (c.f 18 1) x).flatMap (fun r => storedRuns t r 0 (t.e 0))
  | _, _ => []

/-- Destination lines of the item in progress of a command in an engine (R433): the next of its share, or the last where all
are worked. -/
def itemLines (d : Dev) (s : Nat) (q : KEntry) (c : KCmd) : List Nat :=
  let share := c.share s
  match share[Nat.min q.items (share.length - 1)]? with
  | none => []
  | some k => (d.itemRuns c k).flatMap (fun r => List.range' (r.1 / 64) ((r.1 + r.2 + 63) / 64 - r.1 / 64))

/-- A Kerb engine fenced (R433): its queue is emptied, running commands leave poisoned lines, firmware's own jobs end
there. Log 138 (DESIGN CHOICE). -/
def fenceKerb (s : Nat) (d : Dev) : Dev :=
  let run := (d.eng s).queue.filter (fun q => q.running && !q.stopped)
  let lines := run.flatMap (fun q => match aget d.kcmds q.cmd with | some c => d.itemLines s q c | none => [])
  let own := ((d.eng s).queue.filter (fun q => (aget d.kcmds q.cmd).any (fun c => c.kop == 6 || c.kop == 7))).map (fun q => q.cmd)
  let d := (d.poisonLines lines.eraseDups).setEng s (fun e => { e with queue := [] })
  ({ d with kcmds := d.kcmds.filter (fun p => !own.contains p.1) }).dropJobs s

/-- A codec engine fenced (R433): how much of its output the frame in progress had written is free; those lines are
poisoned; every unfinished frame completes as discarded. Log 138 (DESIGN CHOICE). -/
def fenceCodec (e : Nat) (d : Dev) : Dev :=
  let d := match (d.codec.getD e {}).cur with
    | none => d
    | some j =>
      let d := d.setCodec e (fun k => { k with cur := none })
      match d.cstream j.stream with
      | none => d
      | some s =>
        let d := if s.decode then
            let rows := s.outRows j.desc.out j.desc.stride
            let n := Config.freeNat d.fresh % (rows.length + 1)
            d.poisonLines ((rows.take n).flatMap (fun (r : Nat × Nat) => List.range' (r.1 / 64) ((r.1 + r.2 + 63) / 64 - r.1 / 64)))
          else
            let n := Config.freeNat d.fresh % (s.ringSize - s.wpos + 1)
            d.poisonLines (List.range' ((s.ring + s.wpos) / 64) ((s.ring + s.wpos + n + 63) / 64 - (s.ring + s.wpos) / 64))
        d.bump.codecRecord j.stream j.desc.tag 4 0 0 0 0 0
  d.closeAll e

/-- Whether what a collective has received is already added to its result (R370): then its frame is held no longer. -/
def takenIn (d : Dev) (x : Placing) : Bool :=
  match x.coll with
  | some (i, 0) => ((aget d.net.groups i).bind (fun g => g.run)).any (fun r => reduces r.cr && !r.cr.det)
  | _ => false

/-- What a collective had counted as received of a frame that is discarded. -/
def uncount (peer : Nat) (x : Placing) (d : Dev) : Dev :=
  match x.coll with
  | some (i, 0) => match aget d.net.groups i with
    | some g => d.setRun i (fun r => { r with got := amod r.got (g.members.idxOf peer) 0 (fun n => n - x.len) })
    | none => d
  | _ => d

/-- A port fenced (R433): frames received and not yet acknowledged are discarded, and their senders send them again; what a
reduction has added to its result is no frame any more. Log 138 (DESIGN CHOICE). -/
def fencePort (p : Nat) (d : Dev) : Dev :=
  let gone (x : Placing) : Bool := x.link / 2 == p && !d.takenIn x
  let lost := d.net.spaces.flatMap (fun s => (s.placing.filter gone).map (fun x => (s.peer, x)))
  let bytes := sumOf (lost.map (fun x => x.2.len))
  let d := { d with net := { d.net with
      rxBytes := d.net.rxBytes - bytes
      spaces := d.net.spaces.map (fun (s : Space) => { s with placing := s.placing.filter (fun x => !gone x) }) } }
  let d := lost.foldl (fun d x => d.uncount x.1 x.2) d
  (d.net.windows.foldl (fun d w => d.endUnmap w.1) d).pfcUpdate

/-- The units of R430 in a state that a disable takes: in service, or on and not yet tested. Log 136 (DEDUCED). -/
def canDrain (d : Dev) (kind i : Nat) : Bool :=
  d.svcOf kind i == .inService
    || (kind == 0 && (d.cluster i).svc == .off && d.domOn i && !(d.cluster i).bist && !(d.cluster i).tested)

/-- Response of MB_DOMAIN_SET (R463). -/
def domainBytes (d : Dev) : List Byte :=
  let there (i : Nat) : Bool := i < 7 || i == 16 || i == 18 || (17 ≤ i && i < 20 && d.nDies == 2) || (20 ≤ i && i < 20 + d.nStacks)
  leBytes 8 d.power.on.toNat ++ leBytes 2 d.power.cap ++ leBytes 6 0 ++ (List.range 28).flatMap (fun i =>
    if there i then leBytes 2 (nth d.power.sweep.railMv i) ++ leBytes 2 (nth d.power.sweep.railCur i) else leBytes 4 0)

def brokenPowerAll (d : Dev) : Dev := d.setBrokenAll 0 d.brokenPower

/-- The cap set (R45, R462). Log 141 (DEDUCED). -/
def setCap (w : Nat) (d : Dev) : Dev :=
  ({ d with power := { d.power with cap := w, hold := if w == 0 then false else d.power.hold } }).brokenPowerAll

/-- Cluster tests run one per die, in ascending number, after the die's Square (R407, R461). -/
def startBist (die : Nat) (d : Dev) : Dev :=
  let mine := List.range' (16 * die) 16
  if die ≥ d.nDies || !(d.square die).bist || mine.any (fun i => (d.cluster i).bist) then d
  else match mine.find? (fun i => (d.cluster i).svc == .off && d.domOn i && !(d.cluster i).tested) with
    | some i => d.setCluster i (fun c => { c with bist := true })
    | none => d

/-- The device state set, with its event in `REDUCED` and `FULL` (R400) and the in-band interrupt of R416. -/
def noteCx (d : Dev) : Dev :=
  if d.i3c.enint && !d.i3c.mute then { d with i3c := { d.i3c with ibi := d.i3c.ibi ++ [BitVec.ofNat 8 d.st.code] } } else d
def setState (v : DevState) (d : Dev) : Dev :=
  if d.st == v then d
  else
    let d := ({ d with st := v }).noteCx
    if v == .reduced || v == .full then d.raise [] { code := 0x8001, reason := v.code } else d

/-- Bring-up goes on (R409): into `REDUCED` when every die has its Square, a stack and a cluster. -/
def progress (d : Dev) : Dev :=
  if d.st == .link && (List.range d.nDies).all (fun i =>
      (d.square i).bist && (d.square i).failed == 0 && (List.range' (4 * i) 4).any (fun s => (d.stack s).st == 0)
        && (List.range' (16 * i) 16).any (fun c => (d.cluster c).passed)) then d.setState .reduced
  else d

/-- A job that has nothing left answers (R430, R461). -/
def endPowerJob (d : Dev) : Dev :=
  match d.power.job with
  | none => d
  | some j =>
    if !j.ramp.isEmpty || !j.test.isEmpty then d
    else
      let d := { d with power := { d.power with job := none } }
      if j.set then
        let d := match j.cap with | some w => d.setCap w | none => d
        d.finish 0 0x80 0 0 d.domainBytes
      else if j.failed then d.finish 0 0x81 7 (unitDetail .off) []
      else d.finish 0 0x81 0 0 []

/-- Whether a job waits for the unit of a domain to come up (R430, R461). -/
def awaited (d : Dev) (dom : Nat) : Bool := d.power.job.any (fun j => j.test.contains dom)

/-- A unit that a job brings up is in service, or has failed and is off again (R430, R461).
Log 23 (DESIGN CHOICE), 25 (DEDUCED). -/
def unitUp (dom : Nat) (ok : Bool) (d : Dev) : Dev :=
  match d.power.job with
  | none => d
  | some j =>
    if !j.test.contains dom then d
    else
      let d := { d with power := { d.power with job := some { j with test := j.test.erase dom, failed := j.failed || !ok } } }
      let d := d.endPowerJob
      match unitOf dom with
      | some (k, i) => (d.unitEvent k i (if ok then 0 else 4)).recheckUnits
      | none => d

end Dev

/-- Form of MB_UNIT_DISABLE (R430). -/
def unitChks (c : MbCmd) : List Chk :=
  let top := match c.f 0 1 with | 0 => 32 | 1 => 8 | _ => 2
  [lenIs c 8, (c.f 0 1 ≤ 3, 64), (c.f 1 1 < top, 65), (c.f 2 1 ≤ 1, 66), (c.z 3 5, 67)]

/-- UNIT_DISABLE (R8, R9, R163, R396, R407, R430). Log 136 (DEDUCED). -/
def execUnitDisable (mb : Nat) (s : State) : Host.Outcome State Fault Refusal :=
  serveD mb 0x81 (fun c => c.f 2 1 != 1) (fun _ c => unitChks c) (fun c d =>
    let k := c.f 0 1
    let i := c.f 1 1
    if !d.canDrain k i then d.reply mb c 7 (Dev.unitDetail (d.svcOf k i))
    else if k == 3 && !d.portUp (1 - i) then d.reply mb c 7 (Dev.unitDetail (d.svcOf 3 (1 - i)))
    else (d.drain k i).okWith mb c []) s

/-- UNIT_RETURN_TO_SERVICE (R430): only from `DISABLED`; the domain ramps first. -/
def execUnitReturnToService (mb : Nat) (s : State) : Host.Outcome State Fault Refusal :=
  serveD mb 0x81 (fun c => c.f 2 1 == 1) (fun _ c => unitChks c) (fun c d =>
    let k := c.f 0 1
    let i := c.f 1 1
    if d.svcOf k i != .disabled then d.reply mb c 7 (Dev.unitDetail (d.svcOf k i))
    else { (d.hold mb c) with power := { d.power with job := some { ramp := [domainOf k i] } } }) s

/-- Form of MB_UNIT_FENCE (R433). -/
def fenceChks (c : MbCmd) : List Chk :=
  let top := match c.f 0 1 with | 0 => 32 | 1 => 8 | _ => 2
  [lenIs c 8, (c.f 0 1 ≤ 3, 64), (c.f 1 1 < top, 65), (c.z 2 6, 66)]

/-- A unit fenced (R433). -/
def Dev.fence (kind i : Nat) (d : Dev) : Dev :=
  match kind with
  | 0 => d.fenceCluster i
  | 1 => d.fenceKerb i
  | 2 => d.fenceCodec i
  | _ => d.fencePort i

/-- MB_UNIT_FENCE (R431, R433). -/
def execMbUnitFence (mb : Nat) (s : State) : Host.Outcome State Fault Refusal :=
  serveD mb 0x82 (fun _ => true) (fun _ c => fenceChks c) (fun c d =>
    let k := c.f 0 1
    let i := c.f 1 1
    if d.svcOf k i != .draining then d.reply mb c 7 (Dev.unitDetail (d.svcOf k i))
    else ((d.fence k i).okWith mb c []).disable k i) s

/-- UNIT_DRAIN_COMPLETE (R431): the unit's work is done. -/
def execUnitDrainComplete (kind index : Nat) (s : State) : Host.Outcome State Fault Refusal :=
  onDev (fun d =>
    if kind ≤ 3 && d.fitted kind index && d.svcOf kind index == .draining && d.inFlight kind index == 0 then
      (d.disable kind index).startBist (index / 16)
    else d) s

/-- DRAIN_TIMEOUT (R431): the bound passes first; reported once. Log 139 (DEDUCED). -/
def execDrainTimeout (kind index : Nat) (s : State) : Host.Outcome State Fault Refusal :=
  onDev (fun d =>
    let n := d.inFlight kind index
    if kind ≤ 3 && d.fitted kind index && d.svcOf kind index == .draining && n != 0 && !(d.drainInfo kind index).2 then
      let t := (d.drainInfo kind index).1
      ((d.upTo (t + drainBound kind)).setDrain kind index t true).raise []
        { code := 0x800F, kind := kind, unit := index, arg0 := n }
    else d) s

/-- Whether a Square quadrant may be switched off (R129): no partition of a loaded context and no cache granule in it. A
context that has faulted still holds its partitions. Log 157 (DESIGN CHOICE). -/
def Dev.quadRefusal (d : Dev) (n : Nat) : Option Nat :=
  let die := n / 4
  let lo := n % 4 * 5
  let g := (d.square die).g
  match Dev.ctxIds.find? (fun i => ((d.ctx i).prog.map (fun p => p.parts.any (fun x => x.die == die
      && x.off < (lo + 5) * 2 ^ 25 && lo * 2 ^ 25 < x.off + x.size))).getD false) with
  | some i => some (d.ctxDetail i)
  | none => if 20 - g < lo + 5 && g != 0 then some (Dev.unitDetail .inService) else none

/-- Whether a domain that is on may be switched off (R459, R461); with the domains the message names off.
Log 140 (DEDUCED). -/
def Dev.offRefusal (d : Dev) (offs : List Nat) (dom : Nat) : Option Nat :=
  let netBusy := !d.net.groups.isEmpty || !d.net.windows.isEmpty
  if 32 ≤ dom && dom < 40 then d.quadRefusal (dom - 32)
  else if dom < 50 then
    let u := (unitOf dom).getD (0, 0)
    if d.svcOf u.1 u.2 == .draining || d.canDrain u.1 u.2 || (u.1 == 1 && (d.eng u.2).svc == .off) then none
    else some (Dev.unitDetail (d.svcOf u.1 u.2))
  else if dom < 52 then
    (if (d.net.ports.getD (dom - 50) {}).svc == .draining then none
     else if !d.portUp (51 - dom) || offs.contains (101 - dom) then some (Dev.unitDetail (d.svcOf 3 (51 - dom)))
     else none)
  else if dom == 52 then (if netBusy then some d.devDetail else none)
  else if dom == 53 then
    match d.busyCtx with
    | some i => some (d.ctxDetail i)
    | none =>
      if netBusy || d.codec.any (fun e => !e.streams.isEmpty) || d.profiling
          || (List.range 32).any d.domOn || (List.range' 40 8).any d.domOn then some d.devDetail
      else none
  else if d.profiling then some d.devDetail else none

/-- Whether a domain may be named on: nothing that drains, nothing under test. Log 140 (DEDUCED). -/
def Dev.onRefusal (d : Dev) (dom : Nat) : Option Nat :=
  match unitOf dom with
  | some (k, i) =>
    if d.domOn dom && k ≤ 3 && d.svcOf k i == .draining then some (Dev.unitDetail .draining)
    else if k == 0 && (d.cluster i).bist then some (Dev.unitDetail .off)
    else none
  | none => none

/-- A domain switched off (R129, R461). -/
def Dev.switchOff (dom : Nat) (d : Dev) : Dev :=
  if 32 ≤ dom && dom < 40 then
    (d.setDom dom false).setSq ((dom - 32) / 4) (fun q => { q with quadOn := q.quadOn &&& ~~~(1#4 <<< ((dom - 32) % 4)) })
  else if dom < 52 then
    let u := (unitOf dom).getD (0, 0)
    if d.svcOf u.1 u.2 == .draining then d
    else if d.canDrain u.1 u.2 then d.drain u.1 u.2
    else d.disable u.1 u.2
  else if dom == 52 then { (d.setDom dom false) with net := { d.net with xce := .off } }
  else d.setDom dom false

def domainChks (c : MbCmd) : List Chk :=
  let fl := c.f 16 1
  let mask := c.f 0 8
  [lenIs c 24, (!bit fl 0 || (mask < 2 ^ 56 && !(bit mask 55 && !bit (c.f 8 8) 55)), 64), (fl < 4, 80), (c.z 17 1, 81),
   (!bit fl 1 || c.f 18 2 == 0 || (400 ≤ c.f 18 2 && c.f 18 2 ≤ 1600), 82), (c.z 20 4, 84)]

/-- Of the domains that a MB_DOMAIN_SET names, the ones it names off that are on. -/
def Dev.offs (c : MbCmd) (d : Dev) : List Nat := c.domains.filter (fun x => !bit (c.f 8 8) x && d.domOn x)

/-- The first refusal among the domains named, in ascending order (R461). Log 140 (DEDUCED). -/
def Dev.domainRefusal (c : MbCmd) (d : Dev) : Option Nat :=
  c.domains.findSome? (fun x => if bit (c.f 8 8) x then d.onRefusal x
    else if (unitOf x).any (fun u => u.1 == 0 && (d.cluster u.2).bist) then some (Dev.unitDetail .off)
    else if d.domOn x then d.offRefusal (d.offs c) x else none)

/-- The job that brings up what is named on and is off (R461). -/
def Dev.domainJob (c : MbCmd) (d : Dev) : DomainJob :=
  { ramp := c.domains.filter (fun x => bit (c.f 8 8) x && !d.domOn x), set := true
    cap := if bit (c.f 16 1) 1 then some (c.f 18 2) else none }

/-- MB_DOMAIN_SET as a whole (R460 to R463): every check first, then the domains named off; those named on ramp one at a
time, and the response waits for them. -/
def Dev.domainSet (mb : Nat) (c : MbCmd) (d : Dev) : Dev :=
  match d.domainRefusal c with
  | some det => d.reply mb c 7 det
  | none =>
    let d := (d.offs c).foldl (fun d x => d.switchOff x) d
    ({ (d.hold mb c) with power := { d.power with job := some (d.domainJob c) } }).endPowerJob

/-- MB_DOMAIN_SET (R460 to R463). -/
def execMbDomainSet (mb : Nat) (s : State) : Host.Outcome State Fault Refusal :=
  serveD mb 0x80 (fun _ => true) (fun _ c => domainChks c) (fun c => Dev.domainSet mb c) s

/-- POWER_CAP_SET (R45, R460, R462): `DFLAGS`[1]. -/
def execPowerCapSet (mb : Nat) (s : State) : Host.Outcome State Fault Refusal :=
  serveD mb 0x80 (fun c => bit (c.f 16 1) 1) (fun _ c => domainChks c) (fun c => Dev.domainSet mb c) s

/-- A domain that has ramped (R129, R430, R461): its unit is tested, trains, or is in service at once. -/
def Dev.ramped (dom : Nat) (d : Dev) : Dev :=
  let d := d.setDom dom true
  let await (d : Dev) : Dev := { d with power := { d.power with
    job := d.power.job.map (fun (j : DomainJob) => { j with test := j.test ++ [dom] }) } }
  if dom < 32 then
    ((await d).setCluster dom (fun c => { c with svc := .off, tested := false, passed := false, failed := false })).startBist (dom / 16)
  else if dom < 40 then
    let lo := Dev.sqBase ((dom - 32) / 4) + (dom - 32) % 4 * (5 * 2 ^ 25)
    (({ d with mem := d.mem.undefine lo (5 * 2 ^ 25) d.fresh }).bump).setSq ((dom - 32) / 4)
      (fun q => { q with quadOn := q.quadOn ||| (1#4 <<< ((dom - 32) % 4)) })
  else if dom < 48 then
    let s := dom - 40
    if (d.stack s).st == 0 then ((await d).setSvc 1 s .inService).unitUp dom true
    else if (d.stack s).st == 2 then (((await d).setSvc 1 s .off).setDom dom false).unitUp dom false
    else (await d).setSvc 1 s .off
  else if dom < 50 then ((await d).setSvc 2 (dom - 48) .inService).unitUp dom true
  else if dom < 52 then ((await d).setSvc 3 (dom - 50) .off).trainPort (dom - 50)
  else if dom == 52 then { d with net := { d.net with xce := .inService } }
  else d

/-- DOMAIN_RAMP_DONE (R461): 100 µs for each domain, in ascending number. -/
def execDomainRampDone (s : State) : Host.Outcome State Fault Refusal :=
  onDev (fun d =>
    match d.power.job with
    | none => d
    | some j =>
      match j.ramp with
      | [] => d
      | x :: rest =>
        let d := d.upTo (d.now + 100000)
        let d := { d with power := { d.power with job := some { j with ramp := rest } } }
        (d.ramped x).endPowerJob) s

/-- LINK_DOWN (R359): the link is lost, and trains again (R342, R376). A link that goes down as it trains has failed: a port that
a job waits for, and of which no link is up or trains, has failed with it and its domain is switched off (R461).
Log 26 (DEDUCED). -/
def execLinkDown (link : Nat) (s : State) : Host.Outcome State Fault Refusal :=
  onDev (fun d =>
    let l := d.net.links.getD link {}
    let p := link / 2
    if l.up then d.downLink link true
    else if !l.training || !d.awaited (50 + p) then d
    else
      let d := d.downLink link false
      if (d.portLinks p).any (fun k => (d.net.links.getD k {}).up || (d.net.links.getD k {}).training) then d
      else ((d.setSvc 3 p .off).setDom (50 + p) false).unitUp (50 + p) false) s

/-- LINK_UP (R344, R359, R374, R376, R430): a link that trains comes up; a port under return to service is then in
service. Log 26 (DEDUCED), 27 (DEDUCED). -/
def execLinkUp (link : Nat) (s : State) : Host.Outcome State Fault Refusal :=
  if s.tap.owns then .next s
  else onDev (fun d =>
    let p := link / 2
    let l := d.net.links.getD link {}
    let svc := (d.net.ports.getD p {}).svc
    let ready := d.st == .link || d.st == .reduced || d.st == .full
    if !(ready && (d.portLinks p).contains link && l.training && !l.up && (svc == .inService || svc == .off) && d.domOn (50 + p)) then d
    else
      let d := { d with net := { d.net with links := d.net.links.set link { up := true, training := false } } }
      let d := (d.setSvc 3 p .inService).setPort p (fun q => { q with ptp := if q.ptp == 0 then 1 else q.ptp })
      let d := (d.raise [] { code := 0x8011, kind := 3, unit := link, reason := 1 }).unitUp (50 + p) true
      d.net.spaces.foldl (fun d x => d.pumpAll x.peer) d) s

end Sys2Proof.Machine
end

