-- ==== Sys2Proof/Machine/Manage.lean ====
section
/-! DEFINITION. Telemetry, alarms and the power cap's controller (R419, R420, R457, R458, R462, R464, R465), the I3C target
(R416, R417), the test access port (R466 to R470). -/

namespace Sys2Proof.Machine

/-- Whether a voltage in mV lies within a percentage of nominal. -/
def within (nom pct mv : Nat) : Bool := nom * (100 - pct) ≤ 100 * mv && 100 * mv ≤ nom * (100 + pct)

namespace Dev

/-- Whether a die of R424 is present: tensor and Square dies, and the I/O die. -/
def dieThere (d : Dev) (i : Nat) : Bool := i == 4 || i % 2 < d.nDies

/-- Whether a rail is watched: the board's, and the on-package ones once they are on (R457, R458). -/
def railThere (d : Dev) (i : Nat) : Bool :=
  i < 7 || (d.fwUp && ((16 ≤ i && i < 20 && (i % 2 == 0 || d.nDies == 2)) || (20 ≤ i && i < 20 + d.nStacks)))

/-- Whether a rail is within its tolerance (R457, R458). -/
def railOk (d : Dev) (i mv : Nat) : Bool :=
  match i with
  | 0 => 44000 ≤ mv && mv ≤ 54000
  | 1 => within 1050 3 mv
  | 2 => within 750 3 mv
  | 3 => within 1800 5 mv
  | 4 => within 1800 5 mv
  | 5 => within 900 3 mv
  | 6 => within 3300 5 mv
  | 16 => within (if d.fast then 700 else 620) 3 mv
  | 17 => within (if d.fast then 700 else 620) 3 mv
  | _ => within 750 3 mv

/-- One die's reading: above 105 °C once, back below 102 °C once (R424, R465). Log 142 (DESIGN CHOICE). -/
def thermal (i t : Nat) (d : Dev) : Dev :=
  let hot := d.power.hot.getD i false
  let ev (reason : Nat) (d : Dev) : Dev := if d.fwUp then d.raise [] { code := 0x800D, unit := i, reason := reason, aux := t } else d
  let set (b : Bool) : Dev := { d with power := { d.power with hot := d.power.hot.set i b } }
  if !hot && 105 < t then ev 0 (set true) else if hot && t < 102 then ev 1 (set false) else d

/-- One rail's reading (R424, R458). Log 142 (DESIGN CHOICE). -/
def rail (i mv : Nat) (d : Dev) : Dev :=
  let bad := d.power.railBad.contains i
  let ev (reason : Nat) (d : Dev) : Dev := if d.fwUp then d.raise [] { code := 0x800E, unit := i, reason := reason, arg0 := mv } else d
  let set (l : List Nat) : Dev := { d with power := { d.power with railBad := l } }
  if !bad && !d.railOk i mv then ev 0 (set (d.power.railBad ++ [i]))
  else if bad && d.railOk i mv then ev 1 (set (d.power.railBad.erase i)) else d

/-- Whether sensors of the domain of an on-package rail's die are powered: the regulators run once firmware does (R458), and the
domain is on (R464). -/
def sensed (d : Dev) (dom : Nat) : Bool := d.fwUp && d.domOn dom

/-- Whether a die has a sensor that is powered: a core's, a slice's, the I/O die's. -/
def dieOn (d : Dev) (i : Nat) : Bool :=
  d.dieThere i && (i == 4 || (if i < 2 then List.range' (16 * i) 16 else List.range' (32 + 4 * (i - 2)) 4).any d.sensed)

/-- Readings of absent units, and of sensors in a domain that is off, left out (R417, R464). The four base-die sensors of a stack
go with its Kerb engine's domain. Log 142 (DESIGN CHOICE). -/
def maskSweep (d : Dev) (r : Sweep) : Sweep :=
  let keep (l : List Nat) (f : Nat → Bool) : List Nat := (List.range l.length).map (fun i => if f i then nth l i else 0)
  { r with
    junction := keep r.junction (fun i => d.sensed (i / 12))
    droop := keep r.droop d.sensed
    slice := keep r.slice (fun i => d.sensed (32 + i / 8))
    base := keep r.base (fun i => d.sensed (40 + i / 4))
    stack := keep r.stack (fun i => i < d.nStacks)
    regTemp := keep r.regTemp (fun i => d.railThere (16 + i))
    railMv := keep r.railMv d.railThere
    railCur := keep r.railCur d.railThere }

/-- The thresholds of a die (R424, R465); one with no powered sensor is not hot. Log 142 (DESIGN CHOICE). -/
def senseDie (r : Sweep) (d : Dev) (i : Nat) : Dev :=
  if d.dieOn i then d.thermal i (r.dieMax i) else { d with power := { d.power with hot := d.power.hot.set i false } }

end Dev

/-- TELEMETRY_SWEEP (R326, R420, R424, R464, R465). Log 105 (DEDUCED), 142 (DESIGN CHOICE). -/
def execTelemetrySweep (r : Sweep) (s : State) : Host.Outcome State Fault Refusal :=
  onDev (fun d =>
    if d.st == .cold then d
    else
      let r := d.maskSweep r
      let d := { d with power := { d.power with sweep := r } }
      let d := (List.range 5).foldl (fun d i => d.senseDie r i) d
      ((List.range 28).filter d.railThere).foldl (fun d i => d.rail i (nth r.railMv i)) d) s

/-- THERMTRIP_ASSERT (R419, R424): a die at 125 °C or a stack at 115 °C; the pin stays low until `COLD`. -/
def execThermtripAssert (r : Sweep) (s : State) : Host.Outcome State Fault Refusal :=
  let d := s.dev
  let dies := (List.range 5).filter (fun i => d.dieThere i && 125 ≤ r.dieMax i)
  let trip := !dies.isEmpty || (List.range d.nStacks).any (fun i => 115 ≤ nth r.stack i)
  if !trip || s.pins.thermtrip then .next s
  else
    let t := { s with pins := { s.pins with thermtrip := true } }
    if d.st == .cold then .next t
    else
      let d := { d with power := { d.power with thermtripNs := some d.now } }
      let note (d : Dev) (i : Nat) : Dev := d.raise [] { code := 0x800D, unit := i, reason := 2, aux := r.dieMax i }
      .next { t with dev := if d.fwUp then dies.foldl note d else d }

/-- `THERMTRIP_N` low (R419, R470): the comparator's, or cell 45's assertion while the register drives the lands.
Log 143 (DEDUCED). -/
def thermtripLow (t : Tap) (p : Pins) : Bool := p.thermtrip || (t.owns && !t.highz && t.drive.getLsbD 45)

/-- POWER_CAP_REGULATE (R462): matrix-engine tiles are held back while the last sweep's power lies above the cap, until it
is within 2 %. Log 141 (DEDUCED). -/
def execPowerCapRegulate (s : State) : Host.Outcome State Fault Refusal :=
  onDev (fun d =>
    let c := d.power.cap
    let w := d.power.sweep.watts
    { d with power := { d.power with hold := c != 0 && (if d.power.hold then c * 102 < w * 100 else c < w) } }) s

namespace Dev

/-- Whether the I3C target answers (R399, R416, R470). -/
def i3cOn (d : Dev) : Bool := d.st != .cold && !d.boot.strapI3c && !d.i3c.mute

/-- Clusters with a property, as a mask (R417). -/
def clMask (d : Dev) (f : Cluster → Bool) : Nat :=
  (List.range d.nClusters).foldl (fun a i => a + b2n (f (d.cluster i)) * 2 ^ i) 0

/-- The 64 bytes of the status space (R417). -/
def cxBytes (d : Dev) (o : Otp) : List Byte :=
  leBytes 1 d.st.code ++ leBytes 1 d.boot.bootErr ++ leBytes 1 d.boot.errA ++ leBytes 1 d.boot.errB
    ++ leBytes 1 (d.boot.image + b2n d.boot.trial * 2 + b2n d.boot.strapBoot * 4) ++ leBytes 3 0
    ++ leBytes 4 (if d.fwUp then d.boot.fwVersion.toNat else 0) ++ leBytes 4 (d.now / 1000000) ++ leBytes 8 o.serial.toNat
    ++ d.i3c.sensors
    ++ leBytes 2 ((List.range d.nStacks).foldl (fun a i => a + d.stackCode i * 4 ^ i) 0) ++ leBytes 2 0
    ++ leBytes 4 (d.clMask (fun c => c.passed)) ++ leBytes 4 (d.clMask (fun c => c.failed))
    ++ leBytes 1 ((d.square 0).failed.toNat + (if d.nDies == 2 then (d.square 1).failed.toNat else 0) * 16) ++ leBytes 7 0

end Dev

/-- What the target sends as it arbitrates (R416): the provisional ID, the bus and the device characteristic register. -/
def i3cIdentity (o : Otp) : List Byte := beBytes 6 (0x35A * 2 ^ 33 + 2 ^ 32 + o.serial.toNat % 2 ^ 32) ++ [0x06, 0x00]

/-- I3C_ENTDAA (R416): the target sends its identity and takes an address. -/
def execI3cEntdaa (addr : BitVec 7) (s : State) : Host.Outcome State Fault Refusal :=
  onDev (fun d =>
    if d.i3cOn && d.i3c.addr.isNone then { d with i3c := { d.i3c with addr := some addr, last := i3cIdentity s.otp } } else d) s

/-- I3C_RSTDAA (R416). -/
def execI3cRstdaa (s : State) : Host.Outcome State Fault Refusal :=
  onDev (fun d => if d.i3cOn then { d with i3c := { d.i3c with addr := none } } else d) s

/-- I3C_ENEC (R416). Log 28 (DESIGN CHOICE). -/
def execI3cEnec (enint : Bool) (s : State) : Host.Outcome State Fault Refusal :=
  onDev (fun d => if d.i3cOn then { d with i3c := { d.i3c with enint := d.i3c.enint || enint } } else d) s

/-- I3C_PRIVATE_WRITE (R417). Log 28 (DESIGN CHOICE). -/
def execI3cPrivateWrite (offset : Byte) (s : State) : Host.Outcome State Fault Refusal :=
  onDev (fun d => if d.i3cOn && d.i3c.addr.isSome then { d with i3c := { d.i3c with off := offset.toNat % 64 } } else d) s

/-- I3C_PRIVATE_READ (R417): bytes from the offset, which counts up and wraps. Log 28 (DESIGN CHOICE). -/
def execI3cPrivateRead (len : Nat) (s : State) : Host.Outcome State Fault Refusal :=
  onDev (fun d =>
    if d.i3cOn && d.i3c.addr.isSome then
      let b := d.cxBytes s.otp
      { d with i3c := { d.i3c with
          last := (List.range len).map (fun i => b.getD ((d.i3c.off + i) % 64) 0), off := (d.i3c.off + len) % 64 } }
    else d) s

/-- I3C_STATUS_REFRESH (R417): every 10 ms, bytes 24 to 43. -/
def execI3cStatusRefresh (r : Sweep) (s : State) : Host.Outcome State Fault Refusal :=
  onDev (fun d =>
    if d.st == .cold then d
    else
      let r := d.maskSweep r
      let hot := maxOf ((List.range d.nStacks).map (fun i => if (d.stack i).tempValid then nth r.stack i else 0))
      let b := leBytes 1 (r.dieMax 0) ++ leBytes 1 (r.dieMax 1) ++ leBytes 1 (r.dieMax 4) ++ leBytes 1 hot
        ++ leBytes 2 (nth r.railMv 0 / 10) ++ leBytes 2 (nth r.railCur 0 * 10)
        ++ (List.range' 1 6).flatMap (fun i => leBytes 2 (nth r.railMv i))
      { d with i3c := { d.i3c with sensors := b } }) s

/-- Whether the lock level allows the instructions that take the lands (R467): a level of 3 reads as 2.
Log 29 (DEDUCED). -/
def extestAllowed (s : State) : Bool :=
  s.otp.lock.toNat < 2 || s.dev.st == .rom || s.dev.st == .halted || (s.dev.boot.strapBoot && s.dev.st != .cold)

/-- The lands given back (R470): the ports retrain. -/
def giveBack (s : State) : State :=
  let t := { s.tap with owns := false, highz := false, train := false }
  if !s.tap.owns then { s with tap := t }
  else
    let d := { s.dev with i3c := { s.dev.i3c with mute := false } }
    let d := if d.fwUp then ((List.range 2).filter (fun p => (d.net.ports.getD p {}).svc != .disabled && d.domOn (50 + p))).foldl
        (fun d p => d.trainPort p) d else d
    { s with tap := t, dev := d }

/-- The lands taken (R470): links go down, a staging in progress fails. -/
def takeLands (s : State) : State :=
  if s.tap.owns then s
  else
    let d := s.dev
    let d := (List.range 4).foldl (fun d l => d.downLink l false) d
    let d := { d with i3c := { d.i3c with mute := true } }
    let d := if d.staging.isSome then ({ d with staging := none }).finish 0 0xB0 7 d.devDetail [] else d
    { s with dev := d, tap := { s.tap with owns := true } }

/-- An instruction loaded (R466, R467): Update-IR. -/
def loadIr (op : Byte) (s : State) : State := { s with tap := { s.tap with ir := op, captured := 0x01 } }

/-- An instruction that takes the lands, or `BYPASS` where the lock level forbids it. Log 29 (DEDUCED). -/
def loadOwner (op : Byte) (hiz : Bool) (s : State) : State :=
  if !extestAllowed s then giveBack (loadIr 0xFF s)
  else
    let s := takeLands (loadIr op s)
    { s with tap := { s.tap with drive := s.tap.bsr, highz := hiz, train := false } }

/-- TAP_RESET (R466). -/
def execTapReset (s : State) : Host.Outcome State Fault Refusal := .next (giveBack (loadIr 0x02 s))
/-- EXTEST (R467, R470). -/
def execExtest (s : State) : Host.Outcome State Fault Refusal := .next (loadOwner 0x00 false s)
/-- SAMPLE_PRELOAD (R467): the cells preloaded; the lands stay with the part. Log 30 (DESIGN CHOICE). -/
def execSamplePreload (cells : BitVec 69) (s : State) : Host.Outcome State Fault Refusal :=
  let t := giveBack (loadIr 0x01 s)
  .next { t with tap := { t.tap with bsr := cells } }
/-- IDCODE (R466, R467). -/
def execIdcode (s : State) : Host.Outcome State Fault Refusal := .next (giveBack (loadIr 0x02 s))
/-- CLAMP (R467, R470). -/
def execClamp (s : State) : Host.Outcome State Fault Refusal := .next (loadOwner 0x03 false s)
/-- HIGHZ (R467, R470). -/
def execHighz (s : State) : Host.Outcome State Fault Refusal := .next (loadOwner 0x04 true s)
/-- EXTEST_PULSE (R467, R469, R470). -/
def execExtestPulse (s : State) : Host.Outcome State Fault Refusal := .next (loadOwner 0x05 false s)
/-- EXTEST_TRAIN (R467, R469, R470). -/
def execExtestTrain (s : State) : Host.Outcome State Fault Refusal := .next (loadOwner 0x06 false s)
/-- BYPASS (R467). -/
def execBypass (opcode : Byte) (s : State) : Host.Outcome State Fault Refusal := .next (giveBack (loadIr opcode s))
/-- ROSARN_PRIVATE (R467): undisclosed at lock level 0, `BYPASS` at any other. Log 5 (DESIGN CHOICE). -/
def execRosarnPrivate (opcode : Byte) (s : State) : Host.Outcome State Fault Refusal :=
  if s.otp.lock == 0 then .refused .undisclosed else .next (giveBack (loadIr opcode s))

/-- What the register drives on a land with a data and an enable cell (R468): nothing under `HIGHZ`, or with the enable 0. -/
def Tap.land (t : Tap) (data enable : Nat) : Option Bool :=
  if t.owns && !t.highz && t.drive.getLsbD enable then some (t.drive.getLsbD data) else none

/-- What the register drives on pair `l` of the transmit lands of port `p`, on the I3C data land, and on SPI land `i`, in the
order of their cells: clock, select, the four data lands (R468). -/
def Tap.tx (t : Tap) (p l : Nat) : Option Bool := t.land (8 * p + l) (32 + p)
def Tap.sda (t : Tap) : Option Bool := t.land 51 52
def Tap.spi (t : Tap) (i : Nat) : Option Bool := if i < 2 then t.land (53 + 2 * i) (54 + 2 * i) else t.land (52 + 3 * i) (53 + 3 * i)

/-- What Capture-DR puts in a cell, where the lands' levels from outside are `cells` (R468): an observe cell of a land that the
part reads or drives shows that level. Log 30 (DESIGN CHOICE). -/
def observed (s : State) (cells : BitVec 69) (i : Nat) : Bool :=
  let outside := cells.getLsbD i
  match i with
  | 37 => s.pins.resetN
  | 38 => s.pins.pwrOk
  | 39 => if s.dev.st == .cold then outside else s.dev.boot.strapBoot
  | 40 => if s.dev.st == .cold then outside else s.dev.boot.strapI3c
  | 46 => outside && !thermtripLow s.tap s.pins
  | 48 => outside && !s.dev.alertLow s.tap s.pins
  | 50 => s.tap.sda.getD outside
  | 57 => (s.tap.spi 2).getD outside
  | 60 => (s.tap.spi 3).getD outside
  | 63 => (s.tap.spi 4).getD outside
  | 66 => (s.tap.spi 5).getD outside
  | _ => outside

/-- The register after Capture-DR. -/
def captured (s : State) (cells : BitVec 69) : BitVec 69 :=
  BitVec.ofNat 69 ((List.range 69).foldl (fun n i => n + b2n (observed s cells i) * 2 ^ i) 0)

/-- UPDATE_DR (R467 to R469): Update-DR drives the lands, or preloads the cells; Capture-DR samples the lands, and ends a train.
`SAMPLE`/`PRELOAD` does both while the part keeps its lands. Log 30 (DESIGN CHOICE). -/
def execUpdateDr (cells : BitVec 69) (capture : Bool) (s : State) : Host.Outcome State Fault Refusal :=
  if s.tap.ir == 0x01 then .next { s with tap := { s.tap with bsr := if capture then captured s cells else cells } }
  else if !(s.tap.owns && (s.tap.ir == 0x00 || s.tap.ir == 0x05 || s.tap.ir == 0x06)) then .next s
  else if capture then .next { s with tap := { s.tap with bsr := captured s cells, train := false } }
  else .next { s with tap := { s.tap with
    bsr := cells, drive := cells, pulses := if s.tap.ir == 0x05 then s.tap.pulses + 1 else s.tap.pulses
    train := s.tap.ir == 0x06 } }

/-- The data register that stands between `TDI` and `TDO` (R467): its length, and what `IDCODE` captures (R5). -/
def tapRegister (s : State) : Nat × Nat :=
  match s.tap.ir.toNat with
  | 0x02 => (32, s.dev.part.idcode.toNat)
  | 0x00 => (69, s.tap.bsr.toNat)
  | 0x01 => (69, s.tap.bsr.toNat)
  | 0x05 => (69, s.tap.bsr.toNat)
  | 0x06 => (69, s.tap.bsr.toNat)
  | _ => (1, 0)

/-- `TICK_OUT` and `PPS_OUT` (R28, R352, R398, R468, R470): low in `COLD`; while the boundary register owns the lands, what its
cells drive, `none` at high impedance. -/
def tickOut (s : State) : Option Bool := if s.tap.owns then s.tap.land 41 42 else some (s.dev.st != .cold && s.dev.tickOutHigh)
def ppsOut (s : State) : Option Bool :=
  if s.tap.owns then s.tap.land 43 44
  else some (s.dev.st != .cold && s.dev.tu.cfg.source == 1 && s.dev.tu.locked && s.dev.ppsOutHigh)

end Sys2Proof.Machine
end

