-- ==== Sys2Proof/Machine/Boot.lean ====
section
/-! DEFINITION. `COLD`, the boot ROM and its images (R397 to R406), bring-up (R407 to R411), attestation (R412, R413),
firmware update (R414, R415), fuse burns (R311, R415). -/

namespace Sys2Proof.Machine

/-- Fields of an image header (R405). -/
def FwImage.f (m : FwImage) (off len : Nat) : Nat := fld m.header off len
def FwImage.bodyLen (m : FwImage) : Nat := m.f 16 4

/-- Form of a header (R405, R406 code 2): what must hold, and the offset. Log 18 (DEDUCED). -/
def FwImage.form (m : FwImage) : List Chk :=
  [(m.f 0 4 == 0x58445644, 0), (m.f 4 2 == 1, 4), (m.f 6 1 < 4, 6), (m.f 7 1 == 0, 7), (m.f 12 2 ≤ 128, 12), (m.f 14 2 == 0, 14),
   (m.bodyLen != 0 && m.bodyLen % 4096 == 0 && m.bodyLen ≤ 6 * 2 ^ 20 && m.bodyLen ≤ m.body.length, 16), (m.f 20 12 == 0, 20),
   (m.f 128 256 == 0, 128), (m.header.length == 512 && m.f 480 32 == 0, 480)]

/-- The image digest (R405). -/
def FwImage.digest (m : FwImage) : BitVec 384 := sha384 (m.header.take 384 ++ m.body.take m.bodyLen)
def FwImage.pubkey (m : FwImage) : List Byte := (m.header.drop 32).take 96
def FwImage.verified (m : FwImage) : Bool :=
  ecdsaVerify m.pubkey m.digest ((m.header.drop 384).take 48) ((m.header.drop 432).take 48)

/-- The header's part of the check (R406): its code, 0 for a pass. -/
def headerCode (o : Otp) (m : FwImage) : Nat :=
  if m.form.any (fun k => !k.1) then 2
  else if o.revoked.getLsbD (m.f 6 1) then 3
  else if sha384 m.pubkey != o.keyHash.getD (m.f 6 1) 0 then 4
  else if m.f 12 2 < o.rollback then 5
  else 0

/-- The whole check (R406), a read timeout apart. -/
def imageCode (o : Otp) (m : FwImage) : Nat :=
  let c := headerCode o m
  if c != 0 then c else if m.verified then 0 else 6

def Flash.image (fl : Flash) (i : Nat) : FwImage := ((if i == 0 then fl.imgA else fl.imgB)).getD {}

/-- Whether the boot ROM can use the flash (R402): present, of 512 Mbit or more, with valid parameters. -/
def Flash.usable (fl : Flash) : Bool := fl.present && 2 ^ 26 ≤ fl.size && fl.sfdp

/-- Bytes of an image slot (R403). -/
def slotBytes : Nat := 2 ^ 24

/-- A slot programmed, at most to its end, or erased (R403). -/
def Flash.setImage (i : Nat) (m : Option FwImage) (fl : Flash) : Flash :=
  let m := m.map (fun (x : FwImage) => { x with body := x.body.take (slotBytes - 512) })
  if !fl.present then fl else if i == 0 then { fl with imgA := m } else { fl with imgB := m }

/-- The 64 bytes of a selector copy (R404). -/
def Selector.bytes (x : Selector) : List Byte :=
  let b := leBytes 4 0x53454C31 ++ leBytes 4 x.sseq ++ leBytes 1 x.primary ++ leBytes 1 x.trial ++ leBytes 1 x.tries ++ leBytes 49 0
  b ++ leBytes 4 (crc32c b).toNat

/-- A selector copy read (R404): none where its magic, its ranges, its reserved bytes or its CRC is wrong. -/
def selectorOf (b : List Byte) : Option Selector :=
  let x : Selector := { sseq := fld b 4 4, primary := fld b 8 1, trial := fld b 9 1, tries := fld b 10 1 }
  if b.length == 64 && b == x.bytes && x.primary ≤ 1 && x.trial ≤ 2 && x.tries ≤ 1 then some x else none

/-- A byte of the flash by its offset (R403); a byte that nothing has programmed reads as erased. Log 8 (DESIGN CHOICE). -/
def Flash.byteAt (fl : Flash) (o : Nat) : Byte :=
  let part (base : Nat) (l : List Byte) : Byte := l.getD (o - base) 0xFF
  let record (p : Option Params) : Byte := match p with
    | some p => Config.freeByte p.seq o
    | none => 0xFF
  let slot (m : Option FwImage) : List Byte := match m with
    | some m => m.header ++ m.body
    | none => []
  if o < 0x1000 then part 0 fl.sel0
  else if o < 0x2000 then part 0x1000 fl.sel1
  else if o < 0x10000 then 0xFF
  else if o < 0x20000 then record fl.par0
  else if o < 0x30000 then record fl.par1
  else if o < 0x100000 then 0xFF
  else if o < 0x1100000 then part 0x100000 (slot fl.imgA)
  else if o < 0x2000000 then 0xFF
  else if o < 0x3000000 then part 0x2000000 (slot fl.imgB)
  else part 0x3000000 fl.board

/-- The selector in force (R404): the valid copy with the larger count; image A and no trial without one. -/
def Flash.sel (fl : Flash) : Selector :=
  match selectorOf fl.sel0, selectorOf fl.sel1 with
  | some a, some b => if a.sseq < b.sseq then b else a
  | some a, none => a
  | none, some b => b
  | none, none => {}

/-- The selector rewritten (R404): the copy with the smaller count. -/
def Flash.writeSel (f : Selector → Selector) (fl : Flash) : Flash :=
  if !fl.present then fl
  else
    let new := { f fl.sel with sseq := fl.sel.sseq + 1 }
    let first : Bool := match selectorOf fl.sel0, selectorOf fl.sel1 with
      | some a, some b => decide (a.sseq < b.sseq)
      | none, _ => true
      | some _, none => false
    if first then { fl with sel0 := new.bytes } else { fl with sel1 := new.bytes }

namespace Dev

/-- The code of an image at this boot, and the last boot error, which a change reports (R416, R417). -/
def bootError (i code : Nat) (d : Dev) : Dev :=
  let b := { d.boot with errA := if i == 0 then code else d.boot.errA, errB := if i == 1 then code else d.boot.errB }
  let e := if code == 0 then b.bootErr else code
  let d' := { d with boot := { b with bootErr := e } }
  if e == d.boot.bootErr then d' else d'.noteCx

/-- Headers tried in order (R400, R406): the first that passes is under check; with none left the part halts. -/
def tryHeaders (o : Otp) (fl : Flash) (owned : Bool) : List Nat → Dev → Dev
  | [], d => ({ d with boot := { d.boot with order := [] } }).setState .halted
  | i :: rest, d =>
    let c := if owned then 7 else headerCode o (fl.image i)
    if c == 0 then ({ d with boot := { d.boot with order := i :: rest } }).setState .fwCheck
    else tryHeaders o fl owned rest ({ d.bootError i c with boot := { (d.bootError i c).boot with trial := false } })

/-- The image under check has failed: the next one (R406). Log 17 (DEDUCED). -/
def nextImage (o : Otp) (fl : Flash) (owned : Bool) (code : Nat) (d : Dev) : Dev :=
  match d.boot.order with
  | [] => d
  | i :: rest =>
    let d := (d.bootError i code).setState .rom
    ({ d with boot := { d.boot with trial := false, started := false } }).tryHeaders o fl owned rest

end Dev

/-- `COLD` (R398): activity ends, what is volatile is lost. The record of packets already handed to the ports stays.
Log 15 (DESIGN CHOICE), 19 (DESIGN CHOICE), 143 (DEDUCED). -/
def toCold (s : State) : State :=
  { s with
    pins := { s.pins with thermtrip := false }
    dev := { part := s.dev.part, fresh := s.dev.fresh + 1, i3c := { mute := s.tap.owns },
             net := { wire := s.dev.net.wire, replies := s.dev.net.replies } } }

/-- ENTER_COLD (R398). -/
def execEnterCold (pwrOk resetN : Bool) (s : State) : Host.Outcome State Fault Refusal :=
  if pwrOk && resetN then .next s
  else
    let s := if s.dev.st == .cold then s else toCold s
    .next { s with pins := { s.pins with pwrOk := pwrOk, resetN := resetN } }

/-- The boot ROM chooses an image (R402, R406). Log 17 (DEDUCED). -/
def romStart (s : State) : State :=
  let d := s.dev.setState .rom
  if !s.flash.usable then { s with dev := ({ d with boot := { d.boot with bootErr := 1 } }).setState .halted }
  else if s.tap.owns then { s with dev := ({ d with boot := { d.boot with bootErr := 7 } }).setState .halted }
  else
    let sel := s.flash.sel
    let onTrial := sel.trial != 0 && sel.tries == 0
    let fl := if onTrial then s.flash.writeSel (fun x => { x with tries := 1 })
      else if sel.trial != 0 then s.flash.writeSel (fun x => { x with trial := 0, tries := 0 }) else s.flash
    let order := if onTrial then [sel.trial - 1, sel.primary] else [sel.primary, 1 - sel.primary]
    { s with flash := fl, dev := ({ d with boot := { d.boot with trial := onTrial } }).tryHeaders s.otp fl false order }

/-- LEAVE_COLD (R399, R400, R402, R406, R455). Log 16 (DEDUCED). -/
def execLeaveCold (strapBoot strapI3c refclk : Bool) (s : State) : Host.Outcome State Fault Refusal :=
  if s.dev.st != .cold then .next s
  else
    let boot : Boot := { strapBoot := strapBoot, strapI3c := strapI3c }
    let s := { s with pins := { s.pins with pwrOk := true, resetN := true }, dev := { s.dev with now := 0, boot := boot } }
    if !refclk then .next { s with dev := ({ s.dev with boot := { boot with bootErr := 9 } }).setState .halted }
    else if strapBoot then .next { s with dev := s.dev.setState .rom }
    else .next (romStart s)

/-- IMAGE_VERIFIED (R406): the body is read and the signature checked. -/
def execImageVerified (timeout : Bool) (s : State) : Host.Outcome State Fault Refusal :=
  onDev (fun d =>
    if d.st != .fwCheck || d.boot.started then d
    else match d.boot.order with
      | [] => d
      | i :: _ =>
        let m := s.flash.image i
        if timeout || s.tap.owns then d.nextImage s.otp s.flash s.tap.owns 7
        else if !m.verified then d.nextImage s.otp s.flash s.tap.owns 6
        else
          let d := d.bootError i 0
          { d with boot := { d.boot with
              started := true, startNs := d.now, image := i, fwVersion := BitVec.ofNat 32 (m.f 8 4), fwRollback := m.f 12 2
              fwDigest := m.digest } }) s

/-- FW_START_TIMEOUT (R406): 1,000 ms after the start. -/
def execFwStartTimeout (s : State) : Host.Outcome State Fault Refusal :=
  onDev (fun d =>
    if d.st != .fwCheck || !d.boot.started then d
    else (d.upTo (d.boot.startNs + 1000000000)).nextImage s.otp s.flash s.tap.owns 8) s

/-- Stacks of pair k begin training (R407). Log 25 (DEDUCED). -/
def Dev.trainPair (k : Nat) (d : Dev) : Dev :=
  ([k, k + 4].filter (fun s => k < 4 && s < d.nStacks)).foldl (fun d s => d.setStack s (fun x => { x with st := 1 })) d

/-- FW_RUNNING (R286, R347, R400, R401, R406, R407, R458), within 1,000 ms of the start: `LINK`; the parameter record is applied, domains are powered, ports
train, the first stacks train. -/
def execFwRunning (s : State) : Host.Outcome State Fault Refusal :=
  onDev (fun d =>
    if d.st != .fwCheck || !d.boot.started || d.boot.startNs + 1000000000 < d.now then d
    else
      let p := s.flash.params
      let st := p.strength.getD 2
      let on : BitVec 56 := BitVec.ofNat 56 ((List.range 56).foldl (fun a i => a + b2n (d.domainFitted i) * 2 ^ i) 0)
      let d := { d with
        boot := { d.boot with running := true }
        mcfg := { d.mcfg with strength := st, strengthNext := st }
        power := { d.power with on := on }
        codec := d.codec.zipIdx.map (fun (x : Codec × Nat) => { x.1 with svc := if x.2 < d.nCodec then .inService else .off })
        net := { d.net with
          fab := p.fabric.getD {}, xce := .inService
          ports := d.net.ports.map (fun (q : Port) => { q with svc := .inService }) } }
      let d := if s.tap.owns then d else (d.trainPort 0).trainPort 1
      (d.trainPair 0).setState .link) s

/-- STACK_TRAINING_DONE (R289, R310, R407, R408): in service with every line zero and checked, or failed; the spans are
presented when every stack is in service. Log 24 (DEDUCED). -/
def execStackTrainingDone (stack : Nat) (pass : Bool) (s : State) : Host.Outcome State Fault Refusal :=
  onDev (fun d =>
    if !d.fwUp || d.nStacks ≤ stack || (d.stack stack).st != 1 then d
    else
      let d := d.setStack stack (fun k => { k with st := if pass then 0 else 2, serviceNs := d.now, zqNs := 0, trNs := 0 })
      let d := if pass then
          let d := d.zeroKeys (Dev.svBase stack) d.perStack
          if (d.eng stack).svc == .off && d.domOn (40 + stack) then (d.setSvc 1 stack .inService).unitUp (40 + stack) true else d
        else if d.awaited (40 + stack) then ((d.setSvc 1 stack .off).setDom (40 + stack) false).unitUp (40 + stack) false
        else d
      let pair := ([stack % 4, stack % 4 + 4].filter (fun i => i < d.nStacks))
      let d := if pair.all (fun i => (d.stack i).st != 1) then d.trainPair (stack % 4 + 1) else d
      let d := if (List.range d.nStacks).all (fun i => (d.stack i).st == 0) then
          { d with mcfg := { d.mcfg with spans := true, localGib := d.mcfg.localPend.getD d.mcfg.localGib, localPend := none } }
        else d
      d.recheckUnits.progress) s

/-- SQUARE_BIST_DONE (R129, R407, R408). -/
def execSquareBistDone (die : Nat) (failed : BitVec 4) (s : State) : Host.Outcome State Fault Refusal :=
  onDev (fun d =>
    if !d.fwUp || d.nDies ≤ die || (d.square die).bist then d
    else
      let d := d.setSq die (fun q => { q with bist := true, failed := failed &&& q.quadOn })
      ((d.zeroKeys (Dev.sqBase die) (20 * 2 ^ 25)).startBist die).progress) s

/-- CLUSTER_BIST_DONE (R407, R408, R430, R461): the buffers are zero, the objects that live in the cluster are zero.
Log 23 (DESIGN CHOICE). -/
def execClusterBistDone (cluster : Nat) (pass : Bool) (s : State) : Host.Outcome State Fault Refusal :=
  onDev (fun d =>
    if d.nClusters ≤ cluster || !(d.cluster cluster).bist then d
    else
      let d := d.setCluster cluster (fun c => { c with
        bist := false, tested := true, passed := pass, failed := !pass, svc := if pass then .inService else .off })
      let d := (Dev.bufferKeys cluster).foldl (fun d k => d.zeroKeys k (2 ^ 19)) d
      let d := d.setCtx d.slots.resident (fun c => { c with
        objs := c.objs.map (fun (p : Nat × BitVec 32) => if p.1 / 512 == cluster then (p.1, 0) else p) })
      let d := if pass then d else d.setDom cluster false
      (((d.unitUp cluster pass).startBist (cluster / 16)).recheckUnits).progress) s

/-- FULL_CLOCK_STEP (R19, R410): 20 µs of a maintenance window with no core executing. -/
def execFullClockStep (s : State) : Host.Outcome State Fault Refusal :=
  onDev (fun d =>
    let ready := d.st == .reduced && (List.range d.nStacks).all (fun i => (d.stack i).st == 0)
      && (List.range d.nClusters).all (fun i => (d.cluster i).tested || (d.cluster i).svc != .off)
    if !ready || !d.slots.window || d.executing != 0 || d.tu.startNs + d.tu.cfg.maint < d.now + 20000 then d
    else ({ (d.upTo (d.now + 20000)) with fast := true }).setState .full) s

/-- The certificate chain (R412): the one-time area holds at most 8 KiB. -/
def Otp.certChain (o : Otp) : List Byte := o.chain.take 8192

/-- The lock level (R413, R467): 3 reads as 2. Log 29 (DEDUCED). -/
def Otp.lockLevel (o : Otp) : Nat := Nat.min o.lock.toNat 2

/-- Field checks of MB_ATTEST (R13, R413). Log 144 (DEDUCED). -/
def attestChks (s : State) (c : MbCmd) : List Chk :=
  let quote := c.f 0 1 == 0
  [lenIs c 64, (c.f 0 1 ≤ 1, 64), (if quote then c.f 1 1 ≤ 64 else c.z 1 1, 65), (quote || 4032 * c.f 2 2 < s.otp.certChain.length, 66),
   (c.z 4 12, 68)]

/-- The first 192 bytes of a quote (R413). -/
def quoteBody (c : MbCmd) (s : State) : List Byte :=
  let d := s.dev
  let x := c.f 1 1
  let dig : BitVec 384 := match (d.ctx x).prog with
    | some p => if (d.ctx x).st == .empty then 0 else sha384 p.image
    | none => 0
  leBytes 4 1 ++ leBytes 1 d.st.code ++ leBytes 1 (d.boot.image + b2n d.boot.trial * 2) ++ leBytes 2 s.otp.rollback
    ++ leBytes 4 d.boot.fwVersion.toNat ++ leBytes 4 (s.otp.revoked.toNat + s.otp.lockLevel * 16) ++ leBytes 8 s.otp.serial.toNat
    ++ leBytes 8 d.part.caps.toNat ++ leBytes 4 d.tu.tick.toNat ++ leBytes 1 x ++ leBytes 11 0 ++ ((c.payload.drop 16).take 48)
    ++ digestBytes d.boot.fwDigest ++ digestBytes dig

/-- ATTEST_QUOTE (R413). -/
def execAttestQuote (mb : Nat) (s : State) : Host.Outcome State Fault Refusal :=
  serve mb 0xA0 (fun c => c.f 0 1 != 1) attestChks (fun c s =>
    let b := quoteBody c s
    let sig := ecdsaSign (deviceKey s.otp.secret) (sha384 b) (Config.signSecret s.dev.fresh)
    { s with dev := s.dev.bump.okWith mb c (b ++ digestBytes sig.1 ++ digestBytes sig.2) }) s

/-- ATTEST_CERT_CHUNK (R412, R413). -/
def execAttestCertChunk (mb : Nat) (s : State) : Host.Outcome State Fault Refusal :=
  serve mb 0xA0 (fun c => c.f 0 1 == 1) attestChks (fun c s =>
    { s with dev := s.dev.okWith mb c (leBytes 4 s.otp.certChain.length ++ leBytes 12 0
      ++ ((s.otp.certChain.drop (4032 * c.f 2 2)).take 4032)) }) s

/-- The status of an image that fails its check (R414): none for a pass. Log 18 (DEDUCED). -/
def imageRefusal (o : Otp) (m : FwImage) : Option (Nat × Nat) :=
  match imageCode o m with
  | 0 => none
  | 2 => some (5, ((m.form.find? (fun k => !k.1)).map (fun k => k.2)).getD 0)
  | 5 => some (5, 12)
  | _ => some (6, 0)

/-- The slot that does not run. -/
def Dev.inactive (d : Dev) : Nat := 1 - d.boot.image

/-- Whether the running image is on trial and uncommitted, the other slot holding the primary (R414). -/
def onTrial (s : State) : Bool := s.dev.boot.trial && s.flash.sel.primary != s.dev.boot.image

/-- MB_FW_STAGE (R414, R426): the image is checked; the slot's pending trial is cleared and it is erased; programming it
takes until STAGING_COMPLETE. While the boundary register owns the SPI lands it fails at once (R470). Log 19 (DESIGN CHOICE), 21 (DESIGN CHOICE). -/
def execMbFwStage (mb : Nat) (s : State) : Host.Outcome State Fault Refusal :=
  serve mb 0xB0 (fun _ => true) (fun s c => [lenIs c 16, (s.dev.inStacked (c.f 0 8) (c.f 8 4), 64), (c.z 12 4, 76)]) (fun c s =>
    if onTrial s || s.tap.owns then { s with dev := s.dev.reply mb c 7 s.dev.devDetail }
    else
      let r := s.dev.ioFetch (c.f 0 8) (c.f 8 4)
      let m : FwImage := { header := r.1.1.take 512, body := r.1.1.drop 512 }
      let whole : FwImage := { m with body := m.body.take m.bodyLen }
      let d := r.2
      match r.1.2 with
      | l :: _ => { s with dev := d.reply mb c 5 (Nat.min (l - Nat.min l (c.f 0 8)) 0xFFFFFFFF) }
      | [] => match imageRefusal s.otp m with
        | some (st, det) => { s with dev := d.reply mb c st det }
        | none =>
          let i := d.inactive
          let fl := if s.flash.sel.trial == i + 1 then s.flash.writeSel (fun x => { x with trial := 0, tries := 0 }) else s.flash
          { s with flash := fl.setImage i none, dev := { (d.hold mb c) with staging := some whole } }) s

/-- STAGING_COMPLETE (R414): the slot holds the image, or is left invalid. Log 21 (DESIGN CHOICE). -/
def execStagingComplete (ok : Bool) (s : State) : Host.Outcome State Fault Refusal :=
  match s.dev.staging with
  | none => .next s
  | some m =>
    let d := { s.dev with staging := none }
    if ok && s.flash.present && !s.tap.owns then
      .next { s with flash := s.flash.setImage d.inactive (some m), dev := d.finish 0 0xB0 0 0 [] }
    else .next { s with dev := d.finish 0 0xB0 7 d.devDetail [] }

def activateChks (c : MbCmd) : List Chk :=
  [lenIs c 8, (c.f 0 1 ≤ 3, 64), (c.f 1 1 ≤ (if c.f 0 1 == 2 then 1 else 0), 65), (c.z 2 6, 66)]

/-- The inactive slot verified and put on trial (R415), then a reset where one is asked for, as soon as the response can go. -/
def activate (mb : Nat) (c : MbCmd) (reset : Bool) (s : State) : State :=
  let i := s.dev.inactive
  match imageRefusal s.otp (s.flash.image i) with
  | some (st, det) => { s with dev := s.dev.reply mb c st det }
  | none =>
    if reset && !s.dev.canAnswer mb c then s
    else (if reset then toCold else id) { s with flash := s.flash.writeSel (fun x => { x with trial := i + 1, tries := 0 }), dev := s.dev.okWith mb c [] }

/-- FW_ACTIVATE_TRIAL (R415). -/
def execFwActivateTrial (mb : Nat) (s : State) : Host.Outcome State Fault Refusal :=
  serve mb 0xB1 (fun c => c.f 0 1 == 0 || 3 < c.f 0 1) (fun _ c => activateChks c) (fun c => activate mb c false) s

/-- FW_ACTIVATE_RESET (R415): the part resets once the response is sent, and waits until it can be. Log 20 (DESIGN CHOICE). -/
def execFwActivateReset (mb : Nat) (s : State) : Host.Outcome State Fault Refusal :=
  serve mb 0xB1 (fun c => c.f 0 1 == 1) (fun _ c => activateChks c) (fun c s =>
    match s.dev.busyCtx with
    | some i => { s with dev := s.dev.reply mb c 7 (s.dev.ctxDetail i) }
    | none => activate mb c true s) s

/-- The running image becomes the primary (R415). -/
def commit (fl : Flash) (image : Nat) : Flash := fl.writeSel (fun x => { x with primary := image, trial := 0, tries := 0 })

/-- FW_COMMIT (R415): a burn of the rollback counter first, where one is asked for and needed. Log 22 (DEDUCED). -/
def execFwCommit (mb : Nat) (s : State) : Host.Outcome State Fault Refusal :=
  serve mb 0xB1 (fun c => c.f 0 1 == 2) (fun _ c => activateChks c) (fun c s =>
    let d := s.dev
    if bit (c.f 1 1) 0 && s.otp.rollback < d.boot.fwRollback then
      (if d.burn.isSome then s else { s with dev := { (d.hold mb c) with burn := some (none, d.boot.fwRollback) } })
    else { s with flash := commit s.flash d.boot.image, dev := d.okWith mb c (leBytes 2 s.otp.rollback) }) s

/-- Whether a trial is pending: one that has not had its boot (R406, R415). Log 20 (DESIGN CHOICE). -/
def trialPending (fl : Flash) : Bool := fl.sel.trial != 0 && fl.sel.tries == 0

/-- FW_CANCEL_TRIAL (R415). -/
def execFwCancelTrial (mb : Nat) (s : State) : Host.Outcome State Fault Refusal :=
  serve mb 0xB1 (fun c => c.f 0 1 == 3) (fun _ c => activateChks c) (fun c s =>
    { s with
      flash := if trialPending s.flash then s.flash.writeSel (fun x => { x with trial := 0, tries := 0 }) else s.flash
      dev := s.dev.okWith mb c [] }) s

/-- FUSE_BURN_COMPLETE (R311, R415): a burn that cannot be verified consumes the spare, or leaves the counter at whatever was
burned. Log 22 (DEDUCED), 109 (DEDUCED). -/
def execFuseBurnComplete (verified : Bool) (s : State) : Host.Outcome State Fault Refusal :=
  match s.dev.burn with
  | none => .next s
  | some (some r, _) =>
    let d := { s.dev with burn := none }
    let o := { s.otp with repairs := s.otp.repairs ++ [r] }
    .next { s with
      otp := o
      dev := if verified then d.finish 0 0x90 0 0 (leBytes 4 (Dev.sparesLeft o r.stack r.pch r.column))
        else d.finish 0 0x90 7 ((d.stack r.stack).st + 2 ^ 8) [] }
  | some (none, target) =>
    let d := { s.dev with burn := none }
    if verified then
      let o := { s.otp with rollback := Nat.max s.otp.rollback (Nat.min 128 target) }
      .next { s with otp := o, flash := commit s.flash d.boot.image, dev := d.finish 0 0xB1 0 0 (leBytes 2 o.rollback) }
    else
      let n := s.otp.rollback + Config.freeNat d.fresh % (Nat.min 128 target - s.otp.rollback + 1)
      .next { s with otp := { s.otp with rollback := n }, dev := (d.bump).finish 0 0xB1 7 d.devDetail [] }

end Sys2Proof.Machine
end

