-- ==== Sys2Proof/Machine/Dispatch.lean ====
section
/-! DEFINITION. One arm per command. -/

namespace Sys2Proof.Machine

/-- The effect of a command on everything but the queue. -/
def exec (i : Instr) (s : State) : Host.Outcome State Fault Refusal :=
  match i with
  | .mbDevQuery mb => Sys2Proof.Machine.execMbDevQuery mb s
  | .mbDevState mb => Sys2Proof.Machine.execMbDevState mb s
  | .mbCtxCreate mb => Sys2Proof.Machine.execMbCtxCreate mb s
  | .mbCtxLoad mb => Sys2Proof.Machine.execMbCtxLoad mb s
  | .mbCtxStart mb => Sys2Proof.Machine.execMbCtxStart mb s
  | .ctxStopAtBoundary mb => Sys2Proof.Machine.execCtxStopAtBoundary mb s
  | .ctxStopAtEnd mb => Sys2Proof.Machine.execCtxStopAtEnd mb s
  | .mbCtxDestroy mb => Sys2Proof.Machine.execMbCtxDestroy mb s
  | .mbCtxStatus mb => Sys2Proof.Machine.execMbCtxStatus mb s
  | .mbTickConfig mb => Sys2Proof.Machine.execMbTickConfig mb s
  | .tickReacquire mb => Sys2Proof.Machine.execTickReacquire mb s
  | .mbSlotTable mb => Sys2Proof.Machine.execMbSlotTable mb s
  | .mbBoundWrite mb => Sys2Proof.Machine.execMbBoundWrite mb s
  | .mbSqConfig mb => Sys2Proof.Machine.execMbSqConfig mb s
  | .setStrength mb => Sys2Proof.Machine.execSetStrength mb s
  | .setLocalGib mb => Sys2Proof.Machine.execSetLocalGib mb s
  | .setIoPct mb => Sys2Proof.Machine.execSetIoPct mb s
  | .setCorrWarn mb => Sys2Proof.Machine.execSetCorrWarn mb s
  | .memMapWindow mb => Sys2Proof.Machine.execMemMapWindow mb s
  | .memUnmapWindow mb => Sys2Proof.Machine.execMemUnmapWindow mb s
  | .mbFabricId mb => Sys2Proof.Machine.execMbFabricId mb s
  | .fabricLinkSettings mb => Sys2Proof.Machine.execFabricLinkSettings mb s
  | .macsecInstallKey mb => Sys2Proof.Machine.execMacsecInstallKey mb s
  | .fabricRecordFlash mb => Sys2Proof.Machine.execFabricRecordFlash mb s
  | .peerAdd mb => Sys2Proof.Machine.execPeerAdd mb s
  | .peerRemove mb => Sys2Proof.Machine.execPeerRemove mb s
  | .peerRemoveAll mb => Sys2Proof.Machine.execPeerRemoveAll mb s
  | .groupSet mb => Sys2Proof.Machine.execGroupSet mb s
  | .groupClear mb => Sys2Proof.Machine.execGroupClear mb s
  | .traceSet mb => Sys2Proof.Machine.execTraceSet mb s
  | .traceStop mb => Sys2Proof.Machine.execTraceStop mb s
  | .mbCounterRead mb => Sys2Proof.Machine.execMbCounterRead mb s
  | .portStatusRead mb => Sys2Proof.Machine.execPortStatusRead mb s
  | .corrLogRead mb => Sys2Proof.Machine.execCorrLogRead mb s
  | .coreCounterRead mb => Sys2Proof.Machine.execCoreCounterRead mb s
  | .mbEventAck mb => Sys2Proof.Machine.execMbEventAck mb s
  | .mbDomainSet mb => Sys2Proof.Machine.execMbDomainSet mb s
  | .powerCapSet mb => Sys2Proof.Machine.execPowerCapSet mb s
  | .unitDisable mb => Sys2Proof.Machine.execUnitDisable mb s
  | .unitReturnToService mb => Sys2Proof.Machine.execUnitReturnToService mb s
  | .mbUnitFence mb => Sys2Proof.Machine.execMbUnitFence mb s
  | .mbRepairCommit mb => Sys2Proof.Machine.execMbRepairCommit mb s
  | .scrubSetPatrol mb => Sys2Proof.Machine.execScrubSetPatrol mb s
  | .scrubRange mb => Sys2Proof.Machine.execScrubRange mb s
  | .trafficTest mb => Sys2Proof.Machine.execTrafficTest mb s
  | .scrubStop mb => Sys2Proof.Machine.execScrubStop mb s
  | .attestQuote mb => Sys2Proof.Machine.execAttestQuote mb s
  | .attestCertChunk mb => Sys2Proof.Machine.execAttestCertChunk mb s
  | .mbFwStage mb => Sys2Proof.Machine.execMbFwStage mb s
  | .fwActivateTrial mb => Sys2Proof.Machine.execFwActivateTrial mb s
  | .fwActivateReset mb => Sys2Proof.Machine.execFwActivateReset mb s
  | .fwCommit mb => Sys2Proof.Machine.execFwCommit mb s
  | .fwCancelTrial mb => Sys2Proof.Machine.execFwCancelTrial mb s
  | .mbCodecStreamOpen mb => Sys2Proof.Machine.execMbCodecStreamOpen mb s
  | .mbCodecFrame mb => Sys2Proof.Machine.execMbCodecFrame mb s
  | .codecCloseDrain mb => Sys2Proof.Machine.execCodecCloseDrain mb s
  | .codecCloseDiscard mb => Sys2Proof.Machine.execCodecCloseDiscard mb s
  | .matmul st => Sys2Proof.Machine.execMatmul st s
  | .attend st => Sys2Proof.Machine.execAttend st s
  | .convDense st => Sys2Proof.Machine.execConvDense st s
  | .convDepthwiseDiagonal st => Sys2Proof.Machine.execConvDepthwiseDiagonal st s
  | .convSpaceToChannel st => Sys2Proof.Machine.execConvSpaceToChannel st s
  | .poolMax st => Sys2Proof.Machine.execPoolMax st s
  | .poolAverage st => Sys2Proof.Machine.execPoolAverage st s
  | .poolChannelArgmax st => Sys2Proof.Machine.execPoolChannelArgmax st s
  | .vopCopyConvert st => Sys2Proof.Machine.execVopCopyConvert st s
  | .vopAdd st => Sys2Proof.Machine.execVopAdd st s
  | .vopSubtract st => Sys2Proof.Machine.execVopSubtract st s
  | .vopMultiply st => Sys2Proof.Machine.execVopMultiply st s
  | .vopFma st => Sys2Proof.Machine.execVopFma st s
  | .vopScaleOffset st => Sys2Proof.Machine.execVopScaleOffset st s
  | .vopMax st => Sys2Proof.Machine.execVopMax st s
  | .vopMin st => Sys2Proof.Machine.execVopMin st s
  | .vopSelect st => Sys2Proof.Machine.execVopSelect st s
  | .vopAbsoluteValue st => Sys2Proof.Machine.execVopAbsoluteValue st s
  | .vopClamp st => Sys2Proof.Machine.execVopClamp st s
  | .vopRowSum st => Sys2Proof.Machine.execVopRowSum st s
  | .vopRowMax st => Sys2Proof.Machine.execVopRowMax st s
  | .vopRowMin st => Sys2Proof.Machine.execVopRowMin st s
  | .sfnReciprocal st => Sys2Proof.Machine.execSfnReciprocal st s
  | .sfnRsqrt st => Sys2Proof.Machine.execSfnRsqrt st s
  | .sfnSqrt st => Sys2Proof.Machine.execSfnSqrt st s
  | .sfnExp2 st => Sys2Proof.Machine.execSfnExp2 st s
  | .sfnLog2 st => Sys2Proof.Machine.execSfnLog2 st s
  | .sfnSine st => Sys2Proof.Machine.execSfnSine st s
  | .sfnCosine st => Sys2Proof.Machine.execSfnCosine st s
  | .sfnSigmoid st => Sys2Proof.Machine.execSfnSigmoid st s
  | .sfnTanh st => Sys2Proof.Machine.execSfnTanh st s
  | .sfnSilu st => Sys2Proof.Machine.execSfnSilu st s
  | .sfnGelu st => Sys2Proof.Machine.execSfnGelu st s
  | .sfnLookup st => Sys2Proof.Machine.execSfnLookup st s
  | .normst st => Sys2Proof.Machine.execNormst st s
  | .normap st => Sys2Proof.Machine.execNormap st s
  | .rope st => Sys2Proof.Machine.execRope st s
  | .quant st => Sys2Proof.Machine.execQuant st s
  | .moveCopy st => Sys2Proof.Machine.execMoveCopy st s
  | .moveMulticast st => Sys2Proof.Machine.execMoveMulticast st s
  | .moveBoundLoad st => Sys2Proof.Machine.execMoveBoundLoad st s
  | .moveBoundSet st => Sys2Proof.Machine.execMoveBoundSet st s
  | .pref st => Sys2Proof.Machine.execPref st s
  | .krb st => Sys2Proof.Machine.execKrb st s
  | .syncWaitAll st => Sys2Proof.Machine.execSyncWaitAll st s
  | .syncAdd st => Sys2Proof.Machine.execSyncAdd st s
  | .syncSet st => Sys2Proof.Machine.execSyncSet st s
  | .loopMi st => Sys2Proof.Machine.execLoopMi st s
  | .markBegin st => Sys2Proof.Machine.execMarkBegin st s
  | .markEnd st => Sys2Proof.Machine.execMarkEnd st s
  | .markPoint st => Sys2Proof.Machine.execMarkPoint st s
  | .haltMi st => Sys2Proof.Machine.execHaltMi st s
  | .issueWaitSatisfied st => Sys2Proof.Machine.execIssueWaitSatisfied st s
  | .haloWaitSatisfied core => Sys2Proof.Machine.execHaloWaitSatisfied core s
  | .tileComplete core upsets => Sys2Proof.Machine.execTileComplete core upsets s
  | .miComplete st n => Sys2Proof.Machine.execMiComplete st n s
  | .lutReloadHoldRelease st => Sys2Proof.Machine.execLutReloadHoldRelease st s
  | .ctabReloadHoldRelease unit => Sys2Proof.Machine.execCtabReloadHoldRelease unit s
  | .krbDeliveryResume st => Sys2Proof.Machine.execKrbDeliveryResume st s
  | .streamYield st => Sys2Proof.Machine.execStreamYield st s
  | .kscan stack bufErr => Sys2Proof.Machine.execKscan stack bufErr s
  | .kredStatistics stack bufErr => Sys2Proof.Machine.execKredStatistics stack bufErr s
  | .kredCombine stack bufErr => Sys2Proof.Machine.execKredCombine stack bufErr s
  | .kredOrderedSum stack bufErr => Sys2Proof.Machine.execKredOrderedSum stack bufErr s
  | .kredOrderedMax stack bufErr => Sys2Proof.Machine.execKredOrderedMax stack bufErr s
  | .kstream stack bufErr => Sys2Proof.Machine.execKstream stack bufErr s
  | .kgathGather stack bufErr => Sys2Proof.Machine.execKgathGather stack bufErr s
  | .kgathScatter stack bufErr => Sys2Proof.Machine.execKgathScatter stack bufErr s
  | .kgathTransform stack bufErr => Sys2Proof.Machine.execKgathTransform stack bufErr s
  | .kgathFill stack bufErr => Sys2Proof.Machine.execKgathFill stack bufErr s
  | .ksurv stack bufErr => Sys2Proof.Machine.execKsurv stack bufErr s
  | .kscrub stack => Sys2Proof.Machine.execKscrub stack s
  | .ktraf stack bad => Sys2Proof.Machine.execKtraf stack bad s
  | .kerbProgress stack lane => Sys2Proof.Machine.execKerbProgress stack lane s
  | .kerbEngineComplete stack lane => Sys2Proof.Machine.execKerbEngineComplete stack lane s
  | .kerbCommandStop stack lane => Sys2Proof.Machine.execKerbCommandStop stack lane s
  | .backgroundStop src done => Sys2Proof.Machine.execBackgroundStop src done s
  | .tickBoundary => Sys2Proof.Machine.execTickBoundary s
  | .tickInEdge widthNs => Sys2Proof.Machine.execTickInEdge widthNs s
  | .tickInWindowExpiry => Sys2Proof.Machine.execTickInWindowExpiry s
  | .reacquireTimeout => Sys2Proof.Machine.execReacquireTimeout s
  | .ptpSlaveAcquired port => Sys2Proof.Machine.execPtpSlaveAcquired port s
  | .ptpSlaveLost port => Sys2Proof.Machine.execPtpSlaveLost port s
  | .ptpMessage port ptpNs secured => Sys2Proof.Machine.execPtpMessage port ptpNs secured s
  | .ppsOutPulse => Sys2Proof.Machine.execPpsOutPulse s
  | .maintWindowEnd => Sys2Proof.Machine.execMaintWindowEnd s
  | .slotBegin => Sys2Proof.Machine.execSlotBegin s
  | .swapComplete => Sys2Proof.Machine.execSwapComplete s
  | .slotEnd => Sys2Proof.Machine.execSlotEnd s
  | .invocationEnd => Sys2Proof.Machine.execInvocationEnd s
  | .calibrationStepStart stack kind => Sys2Proof.Machine.execCalibrationStepStart stack kind s
  | .calibrationStepDone stack => Sys2Proof.Machine.execCalibrationStepDone stack s
  | .calibrationForced stack kind => Sys2Proof.Machine.execCalibrationForced stack kind s
  | .ctxStalled ctx => Sys2Proof.Machine.execCtxStalled ctx s
  | .refreshIssue stack pch bank => Sys2Proof.Machine.execRefreshIssue stack pch bank s
  | .refreshManagementRequest stack pch bank => Sys2Proof.Machine.execRefreshManagementRequest stack pch bank s
  | .stackTempReading stack degC => Sys2Proof.Machine.execStackTempReading stack degC s
  | .stackTempNoReading stack => Sys2Proof.Machine.execStackTempNoReading stack s
  | .latCapWindow => Sys2Proof.Machine.execLatCapWindow s
  | .stackedReadRequest rq => Sys2Proof.Machine.execStackedReadRequest rq s
  | .stackedWriteRequest rq data => Sys2Proof.Machine.execStackedWriteRequest rq data s
  | .pageDecodeDone page => Sys2Proof.Machine.execPageDecodeDone page s
  | .pageLockRelease page => Sys2Proof.Machine.execPageLockRelease page s
  | .memCorrRate stack => Sys2Proof.Machine.execMemCorrRate stack s
  | .stackTrainingLost stack => Sys2Proof.Machine.execStackTrainingLost stack s
  | .wcbIdleDrain die line => Sys2Proof.Machine.execWcbIdleDrain die line s
  | .teardownComplete ctx => Sys2Proof.Machine.execTeardownComplete ctx s
  | .oftMbox a => Sys2Proof.Machine.execOftMbox a s
  | .oftWrite a => Sys2Proof.Machine.execOftWrite a s
  | .oftReadReq a => Sys2Proof.Machine.execOftReadReq a s
  | .oftReadResp a => Sys2Proof.Machine.execOftReadResp a s
  | .oftAck a => Sys2Proof.Machine.execOftAck a s
  | .oftNak a => Sys2Proof.Machine.execOftNak a s
  | .oftCollData a => Sys2Proof.Machine.execOftCollData a s
  | .collCtrlReady a => Sys2Proof.Machine.execCollCtrlReady a s
  | .collCtrlAbort a => Sys2Proof.Machine.execCollCtrlAbort a s
  | .oftProbe a => Sys2Proof.Machine.execOftProbe a s
  | .oftPlacementVisible peer psn => Sys2Proof.Machine.execOftPlacementVisible peer psn s
  | .ackDelayTimer peer => Sys2Proof.Machine.execAckDelayTimer peer s
  | .retransmitTimeout peer psn => Sys2Proof.Machine.execRetransmitTimeout peer psn s
  | .pathAckTimeout peer path => Sys2Proof.Machine.execPathAckTimeout peer path s
  | .probeTimer => Sys2Proof.Machine.execProbeTimer s
  | .ecnRateIncrease peer => Sys2Proof.Machine.execEcnRateIncrease peer s
  | .linkDown link => Sys2Proof.Machine.execLinkDown link s
  | .linkUp link => Sys2Proof.Machine.execLinkUp link s
  | .pfcFrame port prio pause secured => Sys2Proof.Machine.execPfcFrame port prio pause secured s
  | .neighbourRequest fr v6 target asker => Sys2Proof.Machine.execNeighbourRequest fr v6 target asker s
  | .collTrigger group => Sys2Proof.Machine.execCollTrigger group s
  | .collComplete group => Sys2Proof.Machine.execCollComplete group s
  | .codecTrigger stream => Sys2Proof.Machine.execCodecTrigger stream s
  | .codecFrameStart engine => Sys2Proof.Machine.execCodecFrameStart engine s
  | .codecFrameDone engine => Sys2Proof.Machine.execCodecFrameDone engine s
  | .unitDrainComplete kind index => Sys2Proof.Machine.execUnitDrainComplete kind index s
  | .drainTimeout kind index => Sys2Proof.Machine.execDrainTimeout kind index s
  | .domainRampDone => Sys2Proof.Machine.execDomainRampDone s
  | .powerCapRegulate => Sys2Proof.Machine.execPowerCapRegulate s
  | .telemetrySweep r => Sys2Proof.Machine.execTelemetrySweep r s
  | .thermtripAssert r => Sys2Proof.Machine.execThermtripAssert r s
  | .enterCold pwrOk resetN => Sys2Proof.Machine.execEnterCold pwrOk resetN s
  | .leaveCold strapBoot strapI3c refclk => Sys2Proof.Machine.execLeaveCold strapBoot strapI3c refclk s
  | .imageVerified timeout => Sys2Proof.Machine.execImageVerified timeout s
  | .fwRunning => Sys2Proof.Machine.execFwRunning s
  | .fwStartTimeout => Sys2Proof.Machine.execFwStartTimeout s
  | .stackTrainingDone stack pass => Sys2Proof.Machine.execStackTrainingDone stack pass s
  | .squareBistDone die failed => Sys2Proof.Machine.execSquareBistDone die failed s
  | .clusterBistDone cluster pass => Sys2Proof.Machine.execClusterBistDone cluster pass s
  | .fullClockStep => Sys2Proof.Machine.execFullClockStep s
  | .i3cEntdaa addr => Sys2Proof.Machine.execI3cEntdaa addr s
  | .i3cRstdaa => Sys2Proof.Machine.execI3cRstdaa s
  | .i3cEnec enint => Sys2Proof.Machine.execI3cEnec enint s
  | .i3cPrivateWrite offset => Sys2Proof.Machine.execI3cPrivateWrite offset s
  | .i3cPrivateRead len => Sys2Proof.Machine.execI3cPrivateRead len s
  | .i3cStatusRefresh r => Sys2Proof.Machine.execI3cStatusRefresh r s
  | .tapReset => Sys2Proof.Machine.execTapReset s
  | .extest => Sys2Proof.Machine.execExtest s
  | .samplePreload cells => Sys2Proof.Machine.execSamplePreload cells s
  | .idcode => Sys2Proof.Machine.execIdcode s
  | .clamp => Sys2Proof.Machine.execClamp s
  | .highz => Sys2Proof.Machine.execHighz s
  | .extestPulse => Sys2Proof.Machine.execExtestPulse s
  | .extestTrain => Sys2Proof.Machine.execExtestTrain s
  | .bypass opcode => Sys2Proof.Machine.execBypass opcode s
  | .rosarnPrivate opcode => Sys2Proof.Machine.execRosarnPrivate opcode s
  | .slaacRouterAdvertisement fr pfx dup => Sys2Proof.Machine.execSlaacRouterAdvertisement fr pfx dup s
  | .updateDr cells capture => Sys2Proof.Machine.execUpdateDr cells capture s
  | .stagingComplete ok => Sys2Proof.Machine.execStagingComplete ok s
  | .fuseBurnComplete verified => Sys2Proof.Machine.execFuseBurnComplete verified s
  | .imagePlacementComplete mb => Sys2Proof.Machine.execImagePlacementComplete mb s

end Sys2Proof.Machine
end

