-- ==== Sys2Proof/Machine/Idle.lean ====
section
/-! DEFINITION. What a step does when no command waits: the block idles for one nanosecond. -/

namespace Sys2Proof.Machine

/-- Idling (DESIGN CHOICE): the clock of the model advances by 1 ns; nothing else moves. More than 10 ms after
`THERMTRIP_N` with power still applied the part does not promise to survive (R419): the model stops.
Log 2 (DESIGN CHOICE). -/
def idle (s : State) : Host.Outcome State Fault Refusal :=
  match s.dev.power.thermtripNs with
  | some t => if t + 10000000 < s.dev.now then .fault .pastThermtrip
      else .next { s with dev := { s.dev with now := s.dev.now + 1 } }
  | none => .next { s with dev := { s.dev with now := s.dev.now + 1 } }

/-- A command run with the queue's rest: the meaning sees the machine without the command. -/
def withRest (s : State) (rest : List Instr) : State := { s with pending := rest }

end Sys2Proof.Machine
end

