-- ==== Sys2Proof/Machine/Step.lean ====
section
/-! DEFINITION. One step: the command at the front of the queue, or idling. -/

namespace Sys2Proof.Machine

/-- The command at the front of `pending` runs on the machine with the queue's rest; an empty queue idles.
Log 1 (DESIGN CHOICE), 2 (DESIGN CHOICE), 145 (DESIGN CHOICE). -/
def step (s : State) : Host.Outcome State Fault Refusal :=
  match s.pending with
  | [] => idle s
  | c :: rest => exec c (withRest s rest)

/-- The command a table word spells put at the front of the queue; unchanged where the word spells none.
Log 4 (DESIGN CHOICE). -/
def State.withFetchWord (s : State) (nbits w : Nat) : State :=
  match decodeTableWord nbits w with
  | some c => { s with pending := c :: s.pending }
  | none => s

end Sys2Proof.Machine
end

