-- ==== Sys2Proof/Safety.lean ====
section
/-! DEFINITION. What counts as a safe run of the block, and the relations between a state and its successor that
statements use: mailbox traffic, traced events, commands whose turn it is. -/

namespace Sys2Proof.Machine

/-- A step that neither stops nor is refused. -/
def Runs (s : State) : Prop := ∃ t, step s = .next t

/-- A command that completes on a machine. -/
def Completes (c : Instr) (s : State) : Prop := ∃ t, exec c s = .next t

/-- A stack with what an access to it counts and logs, and the writes that wait there, blanked out (R294, R296 to R299, R301). -/
def Stack.bare (k : Stack) : Stack := { k with
    log := [], corrTick := 0, uncorrPages := [], latUsed := [], ready := [], ioWait := []
    locks := k.locks.map (fun l => { l with waiting := [] }) }

namespace Dev

/-- Payloads handed to the transport for a peer, oldest first: the unacknowledged packets, then those that wait
(R356, R357). -/
def sentTo (d : Dev) (peer : Nat) : List (List Byte) :=
  ((d.space peer).unacked ++ (d.space peer).waiting).map (fun t => t.pkt.payload)

/-- `t` is `d` after traffic of mailbox `mb` alone: its queue may have moved on, packets may have been handed to the
transport and put on the wire, packet counters may have moved. Nothing handed over before is lost. -/
structure Traffic (mb : Nat) (d t : Dev) : Prop where
  same : ∃ ms sp w c, t = { d with mboxes := ms, net := { d.net with spaces := sp, wire := w }, ctr := c }
  others : ∀ k, k ≠ mb → t.mbox k = d.mbox k
  keeps : { t.mbox mb with queue := [] } = { d.mbox mb with queue := [] }
  sent : ∀ p, d.sentTo p <+: t.sentTo p

/-- The response to `c` with these fields has been handed to the transport for its sender (R317, R319). -/
def Answered (mb : Nat) (c : MbCmd) (status detail : Nat) (warn : Bool) (payload : List Byte) (d t : Dev) : Prop :=
  (d.sentTo c.peer ++ [responseBytes mb c status detail warn payload d.tu.tick]) <+: t.sentTo c.peer

/-- `c` is the first command of mailbox `mb` that has not begun, is a message `msg`, and its turn has come: no blocking
command of the mailbox executes, its sender's earlier packets are visible and no R320 command precedes it (R317, R320,
R358). -/
def Turn (d : Dev) (mb msg : Nat) (c : MbCmd) : Prop := d.headCmd mb = some c ∧ c.msg = msg ∧ d.mayRun c = true

/-- A machine with the counters, the events that mailboxes keep and the packets sent blanked out. -/
def calm (d : Dev) : Dev :=
  { d with
    ctr := [], net := { d.net with spaces := [], wire := [] }
    mboxes := d.mboxes.map (fun (m : Mbox) => { m with events := [], evSeq := 0, lost := 0 }) }

/-- The same machine with the trace unit and what its ring writes reach blanked out too: bytes of memory, the Squares, copies
fetched ahead, counts, logs and waiting writes of stacks. -/
def still (d : Dev) : Dev :=
  { d.calm with trace := {}, mem := {}, sq := [], staged := [], upsets := [], stk := d.stk.map Stack.bare }

/-- `t` is `d` after counts and events alone (R322, R435, R444): counters, events kept and packets sent may have moved,
and, while a trace records, its ring. Nothing handed to the transport is lost. -/
structure Noted (d t : Dev) : Prop where
  still : t.still = d.still
  calm : d.trace.cfg.tclass = 0 → t.calm = d.calm
  sent : ∀ p, d.sentTo p <+: t.sentTo p

/-- `t` is `d` after the event `e` has been raised to the mailboxes `mbs` and to mailbox 0 (R322): each that is claimed
keeps it, under its next number and with its count of lost ones, or counts it as lost where 64 wait. `u` is the machine with
the event traced, where a trace records (R444). -/
structure Raised (mbs : List Nat) (e : EvRec) (d t : Dev) : Prop where
  noted : Noted d t
  kept : ∃ u, Noted d u ∧ (d.trace.cfg.tclass = 0 → u = d) ∧ (∀ mb, mb ≠ 0 → u.mbox mb = d.mbox mb) ∧
    ∀ mb, mb = 0 ∨ (mb ∈ mbs ∧ mbs.Nodup ∧ (d.ctx mb).st ≠ .unclaimed) → mb < d.mboxes.length →
      t.mbox mb = if 64 ≤ (u.mbox mb).events.length then { u.mbox mb with lost := (u.mbox mb).lost + 1 }
        else boxKeep (u.stamped mb e) (u.mbox mb)
  others : ∀ mb, mb ≠ 0 → mb ∉ mbs → t.mbox mb = d.mbox mb

/-- `t` is `d` but for what the slot unit moves (R37 to R42, R120): the clock, slots, contexts, mailboxes and packets, memory
with its caches, its errors, what its stacks hold back and deliver, counters and the trace. -/
def Slotted (d t : Dev) : Prop :=
  ∃ now fresh sl cx mb mem sq stk sg up dl tr ctr sp w,
    t = { d with now := now, fresh := fresh, slots := sl, ctxs := cx, mboxes := mb, mem := mem, sq := sq, stk := stk
                 staged := sg, upsets := up, delivered := dl, trace := tr, ctr := ctr, net := { d.net with spaces := sp, wire := w } }

/-- The same, and what every boundary renews: the tick, the I/O share, the per-tick counts of stacks, of the patrol and of
mismatches. -/
def Ticked (d t : Dev) : Prop :=
  ∃ tu mc st ke mm, Slotted { d with
    tu := tu, mcfg := mc, stk := st, kerb := d.kerb.map (fun e => { e with patrolDone := ke }), net := { d.net with mismatched := mm } } t

end Dev

/-- `t` is `e` but for what counts and events move. -/
def State.Notes (e t : State) : Prop := t = { e with dev := t.dev } ∧ Dev.Noted e.dev t.dev

/-- `t` is `d` after what an item of work does: reads of a core or of a Kerb engine, counts and bookkeeping, lines installed
clean in the home cache as they were read, and stores, each within a run `[a, a + n)` for which `ok a n` holds (R147, R193). -/
inductive Dev.Worked (ok : Nat → Nat → Prop) (d : Dev) : Dev → Prop
  | rest : Worked ok d d
  | read (t : Dev) (acc : Access) (a n : Nat) : Worked ok d t → Worked ok d (t.fetch acc a n).2
  | kread (t : Dev) (cls a n : Nat) : Worked ok d t → Worked ok d (t.kerbFetch cls a n).2
  | note (t u : Dev) : Worked ok d t → u = { t with mis := u.mis, kcmds := u.kcmds, ctr := u.ctr, fresh := u.fresh } → Worked ok d u
  | fill (t : Dev) (cls a : Nat) (bad : Bool) : Worked ok d t →
      Worked ok d ((t.kerbLine cls a).2.install (Dev.homeOf ((t.canon a).getD 0)) a (t.kerbLine cls a).1.1
        ((t.kerbLine cls a).1.2 || bad) false true)
  | store (t : Dev) (acc : Access) (user a : Nat) (bs : List Byte) (poison : Nat → Bool) : Worked ok d t → ok a bs.length →
      Worked ok d (t.store acc user a bs poison)
  | kstore (t : Dev) (cls a : Nat) (bs : List Byte) (poison : Nat → Bool) : Worked ok d t → ok a bs.length →
      Worked ok d (t.kerbStore cls a bs poison)

/-- Reads, counts and bookkeeping alone. -/
abbrev Dev.OnlyRead : Dev → Dev → Prop := Dev.Worked (fun _ _ => False)

/-- Whether a store lies in one of some runs. -/
def Within (l : List (Nat × Nat)) (a n : Nat) : Prop := ∃ r ∈ l, r.1 ≤ a ∧ a + n ≤ r.1 + r.2

/-- What the issue of a macro-instruction has checked of its operands and a store relies on (R57 to R65, R67, R170, R194, R252): an
output in a format below a byte is written in whole blocks of 32, a lone element is of whole bytes, `QUANT` with outliers writes
OV4-O, and the output's `COMP` is one of those of R258. -/
def InFlight.Whole (m : InFlight) (q : Nat) : Prop :=
  let d := m.ten 8
  let n := T.span m d q 0
  n.1 < n.2 ∧ d.comp ≤ 3 ∧ (d.eb < 8 → n.1 % 32 = 0 ∧ n.2 % 32 = 0) ∧ (∀ s, m.ten? 18 = some s → 8 ≤ s.eb) ∧
    (miOpc m.raw = 0x20 → 0x10 ≤ m.f 16 1 → 8 ≤ d.eb) ∧ (miOpc m.raw = 0x13 → miVar m.raw = 2 → 8 ≤ d.eb ∧ 8 ≤ (m.ten 12).eb) ∧
    (miOpc m.raw = 0x25 → bit (miVar m.raw) 0 = true → d.dtype = .ov4o ∧ d.comp = 0)

/-- The lines `ls` of code page `pg` as an access finds them sound: the stack holds its contents, the page has no damage, each of
these has a valid check and no poison (R293, R295, R428). -/
def Dev.Healthy (d : Dev) (pg : Nat) (ls : List Nat) : Prop :=
  (d.stack (stkOf (1024 * pg))).lost = false ∧ d.damageOf pg = 0 ∧
    ∀ i ∈ ls, i < 16 ∧ d.mem.noCheck.contains (16 * pg + i) = false ∧ d.mem.poison.contains (16 * pg + i) = false

/-- Every line of `[a, a + n)` lies in a Square's scratch or in a core buffer, and nothing stored on the part there reads wrong
(R105, R127). -/
def Dev.Local (d : Dev) (a n : Nat) : Prop :=
  0x200000000000 ≤ a ∧ d.upsets = [] ∧ d.staged = [] ∧ ∀ l, a / 64 ≤ l → 64 * l < a + n → d.canon (64 * l) = some (64 * l)

/-- The rows of macro-instructions with tiles, with class and variant (R58). -/
def tileRows (st : Nat) : List (Instr × Nat × Nat) :=
  [(.matmul st, 0x10, 0), (.attend st, 0x11, 0), (.convDense st, 0x12, 0), (.convDepthwiseDiagonal st, 0x12, 1),
   (.convSpaceToChannel st, 0x12, 2), (.poolMax st, 0x13, 0), (.poolAverage st, 0x13, 1), (.poolChannelArgmax st, 0x13, 2),
   (.vopCopyConvert st, 0x20, 0x00), (.vopAdd st, 0x20, 0x01), (.vopSubtract st, 0x20, 0x02), (.vopMultiply st, 0x20, 0x03),
   (.vopFma st, 0x20, 0x04), (.vopMax st, 0x20, 0x05), (.vopMin st, 0x20, 0x06), (.vopSelect st, 0x20, 0x07),
   (.vopScaleOffset st, 0x20, 0x08), (.vopAbsoluteValue st, 0x20, 0x09), (.vopClamp st, 0x20, 0x0A), (.vopRowSum st, 0x20, 0x10),
   (.vopRowMax st, 0x20, 0x11), (.vopRowMin st, 0x20, 0x12)]
  ++ [(.sfnReciprocal st, 0x21, 0), (.sfnRsqrt st, 0x21, 1), (.sfnSqrt st, 0x21, 2), (.sfnExp2 st, 0x21, 3), (.sfnLog2 st, 0x21, 4),
   (.sfnSine st, 0x21, 5), (.sfnCosine st, 0x21, 6), (.sfnSigmoid st, 0x21, 7), (.sfnTanh st, 0x21, 8), (.sfnSilu st, 0x21, 9),
   (.sfnGelu st, 0x21, 10), (.sfnLookup st, 0x21, 11), (.normst st, 0x22, 0), (.normap st, 0x23, 0), (.rope st, 0x24, 0),
   (.quant st, 0x25, 0), (.moveCopy st, 0x30, 0), (.moveMulticast st, 0x30, 1), (.pref st, 0x31, 0)]

/-- The rows of the classes without tiles. -/
def controlRows (st : Nat) : List (Instr × Nat × Nat) :=
  [(.moveBoundLoad st, 0x30, 2), (.moveBoundSet st, 0x30, 3), (.krb st, 0x40, 0), (.syncWaitAll st, 0x50, 0), (.syncAdd st, 0x50, 1),
   (.syncSet st, 0x50, 2), (.loopMi st, 0x51, 0), (.markBegin st, 0x52, 0), (.markEnd st, 0x52, 1), (.markPoint st, 0x52, 2),
   (.haltMi st, 0x5F, 0)]

namespace Dev

/-- Stream `st` of `d`, of context `i`, stands at the issue of the well-formed macro-instruction `raw`, of class and variant
`key`, read without a fault (R51, R58); `e` is the machine after the read. -/
structure AtMi (d : Dev) (st i : Nat) (x : Stream) (key : Nat × Nat) (raw : List Byte) (e : Dev) : Prop where
  at' : d.atIssue st .none = some (i, x)
  read : (fetchMi x.pc).run.run d = (.ok raw, e)
  key : miRow raw = some key
  form : miOk (d.progOf i) (d.lutListed i) raw = true
  nest : nestOk x raw = true
  order : miOpc raw = 0x5F → d.mis.any (fun m => m.ctx == i && m.st == st) = false

/-- The header wait of `raw` is met on `d` and no wait held earlier for its object is (R90, R92); `e` is `d` with what it
consumes. -/
def WaitMet (d : Dev) (st i : Nat) (raw : List Byte) (e : Dev) : Prop :=
  d.earlierWait i st d.fresh (waitObjs false raw) = false ∧ headerWait i raw d = some e

/-- The header's signal applied, where it stays within its object (R91). -/
def signalled (i : Nat) (raw : List Byte) (d : Dev) : Dev :=
  if sigMode raw = 0 then d
  else d.setCtx i (fun c => { c with objs := aset c.objs (sigSo raw) (BitVec.ofNat 32 (d.objVal i (sigSo raw) + sigN raw)) })

def SignalFits (d : Dev) (i : Nat) (raw : List Byte) : Prop :=
  sigMode raw = 0 ∨ (holds (d.ctx i) = true ∧ d.objVal i (sigSo raw) + sigN raw ≤ 0xFFFFFFFF)

/-- Numbers added to objects, one after the other (R94), and that no sum passes the word. -/
def added (i : Nat) (l : List (Nat × Nat)) (d : Dev) : Dev :=
  l.foldl (fun d n => d.setCtx i (fun c => { c with objs := aset c.objs n.1 (BitVec.ofNat 32 (d.objVal i n.1 + n.2)) })) d
def SumsFit (d : Dev) (i : Nat) (l : List (Nat × Nat)) : Prop :=
  holds (d.ctx i) = true ∧ ∀ k (h : k < l.length), (d.added i (l.take k)).objVal i (l[k]).1 + (l[k]).2 ≤ 0xFFFFFFFF

/-- Context `i` has just faulted on `t`, whose last moment before was `d` (R421). -/
def FaultsAt (d : Dev) (i : Nat) (f : FaultRec) (t : Dev) : Prop :=
  (t.ctx i).st = .tearingDown ∧ (t.ctx i).fault = { f with tick := d.tu.tick }

end Dev

/-- The rows of the Kerb operations of contexts, with the operation and variant of the commands they take. -/
def kerbRows (stack : Nat) (bufErr : Bool) : List (Instr × (KCmd → Bool)) :=
  [(.kscan stack bufErr, fun c => c.kop == 1), (.kredStatistics stack bufErr, fun c => c.kop == 2 && c.kvar == 0),
   (.kredCombine stack bufErr, fun c => c.kop == 2 && c.kvar == 1),
   (.kredOrderedSum stack bufErr, fun c => c.kop == 2 && c.kvar == 2),
   (.kredOrderedMax stack bufErr, fun c => c.kop == 2 && c.kvar == 3),
   (.kstream stack bufErr, fun c => c.kop == 3), (.kgathGather stack bufErr, fun c => c.kop == 4 && c.kvar == 0),
   (.kgathScatter stack bufErr, fun c => c.kop == 4 && c.kvar == 1),
   (.kgathTransform stack bufErr, fun c => c.kop == 4 && c.kvar == 2),
   (.kgathFill stack bufErr, fun c => c.kop == 4 && c.kvar == 3), (.ksurv stack bufErr, fun c => c.kop == 5)]

/-- The commands of the test access port (R466 to R470). -/
def isTap : Instr → Bool
  | .tapReset => true
  | .extest => true
  | .samplePreload _ => true
  | .idcode => true
  | .clamp => true
  | .highz => true
  | .extestPulse => true
  | .extestTrain => true
  | .bypass _ => true
  | .rosarnPrivate _ => true
  | .updateDr _ _ => true
  | _ => false

/-- The commands that put an image into flash or take one out (R414). -/
def writesImages : Instr → Bool
  | .mbFwStage _ => true
  | .stagingComplete _ => true
  | _ => false

/-- The fuses of `t` are those of `s`, but that the rollback counter may have risen and repairs may have been added (R311,
R404, R415). -/
def Otp.Burned (s t : Otp) : Prop :=
  s.rollback ≤ t.rollback ∧ s.repairs <+: t.repairs ∧ { t with rollback := s.rollback, repairs := s.repairs } = s

/-- The rows of packets, with type and flags that name them (R354, R356, R369, R372). -/
def packetRows (a : Arrival) : List (Instr × Nat × Bool) :=
  [(.oftMbox a, 1, true), (.oftWrite a, 2, true), (.oftReadReq a, 3, true), (.oftReadResp a, 4, true), (.oftAck a, 5, true),
   (.oftNak a, 6, true), (.oftCollData a, 7, true), (.collCtrlReady a, 8, !a.pkt.oflags.getLsbD 5),
   (.collCtrlAbort a, 8, a.pkt.oflags.getLsbD 5), (.oftProbe a, 9, true)]

/-- A frame that a link brings whole, secured where the part asks for it, to one of its addresses and to the transport's
port (R342, R343, R351, R353). -/
def Dev.Framed (d : Dev) (o : Otp) (a : Arrival) : Prop :=
  (d.net.links.getD a.link {}).up = true ∧ damaged a = false ∧
    (d.net.fab.macsecReq = true → a.macsec.any (fun an => d.net.fab.keys.any (fun k => k.1 == an)) = true) ∧
    ownMac o a.dst = true ∧ a.port = d.net.fab.port

/-- A packet whole, in such a frame (R354). -/
def Dev.Sound (d : Dev) (o : Otp) (a : Arrival) : Prop :=
  d.Framed o a ∧ a.pkt.payload.length = a.pkt.olen.toNat ∧ a.pkt.crc = crc32c (a.pkt.header ++ a.pkt.payload) ∧ a.pkt.ver = 1

/-- Packet `a` is taken, and its number is new and one that its sender can have reached; `e` is the machine with the sender's
space as the packet finds it (R356, R357, R361). -/
def Dev.NewPacket (d : Dev) (o : Otp) (a : Arrival) (e : Dev) : Prop :=
  ∃ f, d.taken o a = (true, f) ∧ e = f.synced a.pkt ∧ hadPsn a.pkt (e.space a.pkt.srcId.toNat) = false ∧
    missingBelow a.pkt (e.space a.pkt.srcId.toNat) < 256

/-- The command `c` of mailbox `mb`, a message `msg`, is at its turn and no check of R318 fails: `args` are the length and
field checks of its rule. -/
def State.Served (s : State) (mb msg : Nat) (c : MbCmd) (args : List Chk) : Prop :=
  s.dev.Turn mb msg c ∧ s.dev.refusal mb c args = none

/-- The same with the units that it is aimed at not yet looked at (R318): the checks of form and of the device's state pass. -/
def State.Reaches (s : State) (mb msg : Nat) (c : MbCmd) (args : List Chk) : Prop :=
  s.dev.Turn mb msg c ∧ firstOff ((mboxOk c.msg mb, 3) :: (headerChks c ++ args)) = none ∧
    (s.dev.st = .full ∨ s.dev.st = .reduced) ∧ (mb = 0 ∨ (s.dev.ctx mb).st ≠ .unclaimed)

/-- `t` is `e` but for the traffic of mailbox `mb`, which hands the response to `c` to its sender when no earlier command
of the mailbox is outstanding (R317). -/
def State.Answers (mb : Nat) (c : MbCmd) (status detail : Nat) (warn : Bool) (payload : List Byte) (e t : State) : Prop :=
  t = { e with dev := t.dev } ∧ Dev.Traffic mb e.dev t.dev
    ∧ ((e.dev.mbox mb).queue.head? = some c → Dev.Answered mb c status detail warn payload e.dev t.dev)

/-- `t` is `e` but for the traffic of mailbox `mb`, in which `c` waits for a completion (R321); where the mailbox holds
known messages only, nothing else moves. -/
def State.Waits (mb : Nat) (c : MbCmd) (e t : State) : Prop :=
  t = { e with dev := t.dev } ∧ Dev.Traffic mb (e.dev.hold mb c) t.dev
    ∧ ((∀ x ∈ (e.dev.mbox mb).queue, Dev.knownMsg x.msg = true) → t.dev = e.dev.hold mb c)

end Sys2Proof.Machine
end

