-- ==== Sys2Proof/Certificates/Slice0/Obligations.lean ====
section
/-! DEFINITION. The statements for the provers. A command of a mailbox is stated by the state that its rule gives and the
response it hands over (`State.Answers`, `State.Waits`): everything that those do not name is unchanged. -/

open Sys2Proof Sys2Proof.Machine Sys2Proof.Machine.Dev

/-- R317 to R320: a command at its turn that fails a check is answered with the status and detail of the first failing check,
and has no other effect. Any mailbox row. -/
def Obligations.FailedCheckAnswersAlone : Prop :=
  ∀ (s : State) (mb msg : Nat) (c : MbCmd) (sel : MbCmd → Bool) (args : State → MbCmd → List Chk)
    (body : MbCmd → State → State) (st det : Nat),
    s.dev.Turn mb msg c → Dev.knownMsg msg = true → sel c = true → s.dev.refusal mb c (args s c) = some (st, det) →
    ∃ t, serve mb msg sel args body s = .next t ∧ State.Answers mb c st det false [] s t

/-- R8, R9, R318, R319: the checks of a command go by stages: mailbox, length and fields (`BAD_ARGUMENT` with the lowest offset
at fault), the states of the device and of the mailbox's context, the units it is aimed at, absent ones first, then a domain
that is off and units that are not in service, then stacks under test (R407, R411), and last what a faulted context still takes.
The order of the stages, with the domain's check beside the units' and its code, the faulted context last, and the details are
the model's own choices (log entries 34, 32, 33). -/
def Obligations.ChecksGoByStages : Prop :=
  ∀ (d : Dev) (mb : Nat) (c : MbCmd) (args : List Chk),
    let form : List Chk := (mboxOk c.msg mb, 3) :: (headerChks c ++ args)
    let live : Prop := d.st = .full ∨ d.st = .reduced ∨ (d.st = .link ∧ c.msg ∈ [0x01, 0x02, 0xA0])
    let claimed : Prop := mb = 0 ∨ (d.ctx mb).st ≠ .unclaimed
    let powered : Prop := needsCrossing c = false ∨ d.power.on.getLsbD 53 = true
    let trained : Prop := d.idleStack c = none
    let torn : Prop := mb ≠ 0 ∧ (d.ctx mb).st ∈ [CtxState.faulted, .tearingDown] ∧ Dev.exemptMsg c.msg = false
    (∀ x ∈ form, x.1 = false → (∀ y ∈ form, y.1 = false → x.2 ≤ y.2) → d.refusal mb c args = some (8, x.2)) ∧
    ((∀ x ∈ form, x.1 = true) →
      (¬ live → d.refusal mb c args = some (7, d.st.code + 512)) ∧
      (live → ¬ claimed → d.refusal mb c args = some (7, 0xFF)) ∧
      (live → claimed →
        (∀ u, d.absentUnit c = some u → d.refusal mb c args = some (2, u.1 + u.2 * 256)) ∧
        (d.absentUnit c = none → ¬ powered → d.refusal mb c args = some (7, Svc.disabled.code + 256)) ∧
        (d.absentUnit c = none → powered → ∀ u, d.idleUnit c = some u → d.refusal mb c args = some (7, (d.svcOf u.1 u.2).code + 256)) ∧
        (d.absentUnit c = none → powered → d.idleUnit c = none → ∀ k, d.idleStack c = some k →
          d.refusal mb c args = some (7, d.stackCode k + 256)) ∧
        (d.absentUnit c = none → powered → d.idleUnit c = none → trained →
          (torn → d.refusal mb c args = some (7, (d.ctx mb).st.code)) ∧ (¬ torn → d.refusal mb c args = none)))) ∧
    (∀ u, d.absentUnit c = some u → u ∈ c.units ∧ d.fitted u.1 u.2 = false) ∧
    (∀ u, d.idleUnit c = some u → u ∈ c.units ∧ d.svcOf u.1 u.2 ≠ .inService) ∧
    (∀ k, d.idleStack c = some k → k ∈ c.onStacks ∧ (d.stack k).st ≠ 0 ∧ d.st ≠ .full)

/-- R325, R326: the two queries of the device answer with its identity and its state, and change nothing but the mailbox's
traffic. Rows: `mbDevQuery`, `mbDevState`. -/
def Obligations.DeviceQueriesAnswer : Prop :=
  ∀ (s : State) (mb : Nat) (c : MbCmd),
    (s.Served mb 0x01 c [lenIs c 0] → ∃ t, exec (.mbDevQuery mb) s = .next t ∧
      State.Answers mb c 0 0 false
        (leBytes 8 s.dev.part.caps.toNat ++ leBytes 4 s.dev.part.idcode.toNat ++ leBytes 4 s.dev.boot.fwVersion.toNat
          ++ leBytes 8 s.otp.serial.toNat ++ leBytes 6 s.otp.mac0.toNat ++ leBytes 6 s.otp.mac1.toNat
          ++ leBytes 1 s.dev.boot.image ++ leBytes 1 64 ++ leBytes 2 4096 ++ leBytes 2 16 ++ leBytes 2 s.otp.rollback
          ++ leBytes 20 0) s t) ∧
    (s.Served mb 0x02 c [lenIs c 0] → ∃ t, exec (.mbDevState mb) s = .next t ∧
      State.Answers mb c 0 0 false (s.dev.devStateBytes s.otp) s t)

/-- R327: a context is claimed: the one asked for, or the lowest unclaimed one; it is `EMPTY`, its counters are zero, its
mailbox has no event and reports to the sender; the response gives its number. A claimed one answers `BAD_STATE`, and without a
free one the answer is `REFUSED_RESOURCES`. The details of a refusal are the model's own choice (log entry 33). Rows:
`mbCtxCreate`. -/
def Obligations.ContextIsClaimed : Prop :=
  ∀ (s : State) (mb : Nat) (c : MbCmd), s.Served mb 0x10 c (createChks c) →
    (∀ i, (if c.f 0 1 = 0 then Dev.ctxIds.find? (fun i => (s.dev.ctx i).st == .unclaimed) = some i
        else i = c.f 0 1 ∧ (s.dev.ctx i).st = .unclaimed) →
      let new : Ctx := { st := .empty, evMask := BitVec.ofNat 32 (c.f 4 4), stallTicks := c.f 8 4 }
      let d : Dev := { s.dev.setCtx i (fun _ => new) with
        ctr := s.dev.ctr.filter (fun p => !(0x60 ≤ p.1 / 256 && p.1 % 256 == i)) }
      ∃ t, exec (.mbCtxCreate mb) s = .next t ∧ State.Answers mb c 0 0 false (leBytes 4 i)
        { s with dev := d.setMbox i (fun m => { m with events := [], evSeq := 0, lost := 0, sub := some c.peer }) } t) ∧
    (c.f 0 1 ≠ 0 → (s.dev.ctx (c.f 0 1)).st ≠ .unclaimed →
      ∃ t, exec (.mbCtxCreate mb) s = .next t ∧ State.Answers mb c 7 (s.dev.ctx (c.f 0 1)).st.code false [] s t) ∧
    (c.f 0 1 = 0 → (∀ i ∈ Dev.ctxIds, (s.dev.ctx i).st ≠ .unclaimed) →
      ∃ t, exec (.mbCtxCreate mb) s = .next t ∧ State.Answers mb c 3 1 false [] s t)

/-- R334, R335, R337: a `LOADED` or `PARKED` context becomes `READY`. A stop parks a `READY` context at once, and waits on a
running one with the earlier of the stops asked for; in any other state it is refused. The status is answered, with the bounds
when asked. The details of a refusal are the model's own choice (log entry 33). Rows: `mbCtxStart`, `ctxStopAtBoundary`,
`ctxStopAtEnd`, `mbCtxStatus`. -/
def Obligations.ContextStartStopStatus : Prop :=
  ∀ (s : State) (mb : Nat) (c : MbCmd),
    (s.Served mb 0x12 c [lenIs c 8, (c.z 0 8, 64)] →
      ((s.dev.ctx mb).st ∈ [CtxState.loaded, .parked] → ∃ t, exec (.mbCtxStart mb) s = .next t ∧
        State.Answers mb c 0 0 false [] { s with dev := s.dev.setCtx mb (fun x => { x with st := .ready }) } t) ∧
      ((s.dev.ctx mb).st ∉ [CtxState.loaded, .parked] → ∃ t, exec (.mbCtxStart mb) s = .next t ∧
        State.Answers mb c 7 (s.dev.ctx mb).st.code false [] s t)) ∧
    (∀ row : Instr, (row = .ctxStopAtBoundary mb ∧ c.f 0 1 = 0 ∨ row = .ctxStopAtEnd mb ∧ c.f 0 1 = 1) →
      s.Served mb 0x13 c (stopChks c) →
      ((s.dev.ctx mb).st = .running →
        (∃ k, k < 32 ∧ ((s.dev.ctx mb).streams.getD k {}).halted = false ∧ ((s.dev.ctx mb).streams.getD k {}).yielded = false) →
        ∃ t, exec row s = .next t ∧ State.Waits mb c
          { s with dev := s.dev.setCtx mb (fun x => { x with
              stopMode := some (Nat.min (c.f 0 1) (x.stopMode.getD (c.f 0 1))) }) } t) ∧
      ((s.dev.ctx mb).st = .ready → ((s.dev.ctx mb).yielded = false ∨ c.f 0 1 = 0) →
        ∃ t, exec row s = .next t ∧ State.Answers mb c 0 0 false []
          { s with dev := s.dev.setCtx mb (fun x => { x with st := .parked, stopMode := none }) } t) ∧
      ((s.dev.ctx mb).st ∉ [CtxState.running, .ready] →
        ∃ t, exec row s = .next t ∧ State.Answers mb c 7 (s.dev.ctx mb).st.code false [] s t)) ∧
    (s.Served mb 0x15 c (stopChks c) → ∃ t, exec (.mbCtxStatus mb) s = .next t ∧
      State.Answers mb c 0 0 false (s.dev.ctxStatus mb (c.f 0 1 == 1)) s t)

/-- R331 to R333, R338, R339: a load of a sound image that finds its room leaves the program in the context, with the bound
registers and objects that the image gives, and waits for the copy; one that has no room, or fails the check against the slot
table, is refused. A destroy of an `EMPTY` or `FAULTED` context without codec streams releases everything it held; that of a
loaded or parked one discards its Kerb commands, refuses its bound writes and waits for the teardown. That bound writes that
wait are answered as refused, what a release clears, which contexts a destroy releases at once, and that the image is read at
the load are the model's own choices (log entries 41, 47). Rows: `mbCtxLoad`, `mbCtxDestroy`. -/
def Obligations.ContextLoadDestroy : Prop :=
  ∀ (s : State) (mb : Nat) (c : MbCmd),
    (s.Served mb 0x11 c [lenIs c 16] →
      ((s.dev.ctx mb).st ≠ .empty → ∃ t, exec (.mbCtxLoad mb) s = .next t ∧
        State.Answers mb c 7 (s.dev.ctx mb).st.code false [] s t) ∧
      ((s.dev.ctx mb).st = .empty → s.dev.inStacked (c.f 0 8) (c.f 8 8) = false → ∃ t, exec (.mbCtxLoad mb) s = .next t ∧
        State.Answers mb c 5 0 false [] s t) ∧
      ((s.dev.ctx mb).st = .empty → s.dev.inStacked (c.f 0 8) (c.f 8 8) = true →
        (∀ l ls, (s.dev.ioFetch (c.f 0 8) (c.f 8 8)).1.2 = l :: ls → ∃ t, exec (.mbCtxLoad mb) s = .next t ∧
          State.Answers mb c 5 (Nat.min (l - c.f 0 8) 0xFFFFFFFF) false [] { s with dev := (s.dev.ioFetch (c.f 0 8) (c.f 8 8)).2 } t) ∧
        ((s.dev.ioFetch (c.f 0 8) (c.f 8 8)).1.2 = [] →
        let m := Image.parse (s.dev.ioFetch (c.f 0 8) (c.f 8 8)).1.1
        let d := (s.dev.ioFetch (c.f 0 8) (c.f 8 8)).2
        (∀ o, m.firstFault d.scratchAt = some o → ∃ t, exec (.mbCtxLoad mb) s = .next t ∧
          State.Answers mb c 5 o false [] { s with dev := d } t) ∧
        (m.firstFault d.scratchAt = none →
          (∀ e, d.placeProgram mb m.program (Dev.absTables m) = .error e → ∃ t, exec (.mbCtxLoad mb) s = .next t ∧
            State.Answers mb c 3 e false [] { s with dev := d } t) ∧
          (∀ p, d.placeProgram mb m.program (Dev.absTables m) = .ok p →
            (∀ e, d.loadSlotFault mb p = some e → ∃ t, exec (.mbCtxLoad mb) s = .next t ∧
              State.Answers mb c 4 e false [] { s with dev := d } t) ∧
            (d.loadSlotFault mb p = none → ∃ t, exec (.mbCtxLoad mb) s = .next t ∧
              State.Waits mb c
                { s with dev := { d.setCtx mb (fun x => { x with
                    prog := some p, bounds := Dev.boundsOf m, objs := Dev.objsOf m, untimed := d.st != .full, entry := 0
                    unfinished := false, yielded := false, valid := [], dirty := [], descs := [] }) with placing := d.placing ++ [(mb, Dev.placesOf m)] } } t)))))) ∧
    (s.Served mb 0x14 c [lenIs c 0] →
      ((s.dev.ctx mb).st ∈ [CtxState.empty, .faulted] → s.dev.streamsOf mb = [] → ∃ t, exec (.mbCtxDestroy mb) s = .next t ∧
        State.Answers mb c 0 0 false [] { s with dev := s.dev.release mb } t) ∧
      ((s.dev.ctx mb).st ∈ [CtxState.loaded, .parked] → ∃ t, exec (.mbCtxDestroy mb) s = .next t ∧
        let d := (s.dev.setCtx mb (fun x => { x with st := .tearingDown, destroyWait := true, pendBounds := [] })).discardKerb mb
        State.Waits mb c { s with dev := d.finish mb 0x30 7 CtxState.tearingDown.code [] } t) ∧
      ((s.dev.ctx mb).st = .tearingDown → ∃ t, exec (.mbCtxDestroy mb) s = .next t ∧
        State.Waits mb c { s with dev := s.dev.setCtx mb (fun x => { x with destroyWait := true }) } t) ∧
      ((s.dev.ctx mb).st ∈ [CtxState.ready, .running] → ∃ t, exec (.mbCtxDestroy mb) s = .next t ∧
        State.Answers mb c 7 (s.dev.ctx mb).st.code false [] s t))

/-- R27, R30, R36: a valid tick configuration is queued for the next boundary, and a re-acquisition asked for stays asked; a
slot table that passes the check of R44 is queued, one that does not is refused with its first bad entry. A configuration that
takes effect at a boundary is checked when it is set only (log entry 43, the model's reading). Rows: `mbTickConfig`,
`tickReacquire`, `mbSlotTable`. -/
def Obligations.TickAndSlotTableAreQueued : Prop :=
  ∀ (s : State) (mb : Nat) (c : MbCmd),
    (∀ row : Instr, (row = .mbTickConfig mb ∨ row = .tickReacquire mb ∧ bit (c.f 9 1) 1 = true) →
      s.Served mb 0x20 c (tickChks c) →
      let re := s.dev.tu.reacq || bit (c.f 9 1) 1
      let start := s.dev.tu.startNs
      let t0 := s.dev.now
      ∃ t e, exec row s = .next t ∧
        State.Answers mb c 0 0 false []
          { s with dev := { s.dev with tu := { s.dev.tu with pend := some c.tickCfg, reacq := re, endNs := e } } } t ∧
        (re = false → e = s.dev.tu.endNs) ∧
        (re = true → c.f 8 1 = 0 → e = Nat.max t0 (start + c.f 0 4)) ∧
        (re = true → c.f 8 1 = 1 → e = s.dev.tu.holdNext c.tickCfg (Nat.max t0 (start + (c.f 0 4 - c.f 0 4 / 10000)))) ∧
        (re = true → c.f 8 1 = 2 → e = start + 2 * c.f 0 4)) ∧
    (s.Served mb 0x21 c (slotChks s.dev.nextCfg c) →
      (Dev.firstBadSlot (s.dev.checkEnv 0 none) c.slots (fun _ => true) = none → ∃ t, exec (.mbSlotTable mb) s = .next t ∧
        State.Answers mb c 0 0 false [] { s with dev := { s.dev with slots := { s.dev.slots with pend := some c.slots } } } t) ∧
      (∀ i, Dev.firstBadSlot (s.dev.checkEnv 0 none) c.slots (fun _ => true) = some i → ∃ t, exec (.mbSlotTable mb) s = .next t ∧
        State.Answers mb c 4 (i + (c.slots.getD i {}).entry * 2 ^ 8) false [] s t))

/-- R323, R336: bounds written wait for the next invocation, and the response with them when `NEXT` is set; acknowledged events
leave the mailbox, and a new subscriber is sent those that stay. What a full event list does with numbers is the model's own
reading (log entry 40). Rows: `mbBoundWrite`, `mbEventAck`. -/
def Obligations.BoundsAndEventAcks : Prop :=
  ∀ (s : State) (mb : Nat) (c : MbCmd),
    (s.Served mb 0x30 c (boundChks c) →
      let e : State := { s with dev := s.dev.setCtx mb (fun x => { x with
        pendBounds := x.pendBounds ++ (List.range (c.f 0 1)).map (fun i =>
          (c.f (8 + 8 * i) 1, BitVec.ofNat 32 (c.f (12 + 8 * i) 4))) }) }
      (c.f 1 1 = 0 → ∃ t, exec (.mbBoundWrite mb) s = .next t ∧ State.Answers mb c 0 0 false [] e t) ∧
      (c.f 1 1 = 1 → ∃ t, exec (.mbBoundWrite mb) s = .next t ∧ State.Waits mb c e t)) ∧
    (s.Served mb 0x72 c (ackChks mb s.dev c) →
      let d := if bit (c.f 4 1) 1 then s.dev.setCtx mb (fun x => { x with evMask := BitVec.ofNat 32 (c.f 8 4) }) else s.dev
      let left := (s.dev.mbox mb).events.filter (fun e => c.f 0 4 < e.seq.toNat)
      let sub := if bit (c.f 4 1) 0 then some c.peer else (s.dev.mbox mb).sub
      let e : State := { s with dev := d.setMbox mb (fun m => { m with events := left, sub := sub }) }
      ((bit (c.f 4 1) 0 = false ∨ (s.dev.mbox mb).sub = some c.peer) → ∃ t, exec (.mbEventAck mb) s = .next t ∧
        State.Answers mb c 0 0 false [] e t) ∧
      (bit (c.f 4 1) 0 = true → (s.dev.mbox mb).sub ≠ some c.peer → ∃ t u, exec (.mbEventAck mb) s = .next t ∧
        State.Answers mb c 0 0 false [] u t ∧ u = { e with dev := u.dev } ∧ Dev.Traffic mb e.dev u.dev ∧
        u.dev.sentTo c.peer = s.dev.sentTo c.peer ++ left.map (Dev.eventBytes mb)))

/-- R106: while every claimed context is `EMPTY`, each Square's cache becomes as large as the message asks, emptied where that
changes it; a context that holds more refuses it, and a die that is not there has no cache. The details of a refusal, and that
memory which changes hands is undefined, are the model's own choices (log entries 33, 49). Rows: `mbSqConfig`. -/
def Obligations.SquareCacheIsSized : Prop :=
  ∀ (s : State) (mb : Nat) (c : MbCmd),
    (s.Reaches mb 0x40 c (sqChks c) → s.dev.nDies < 2 → c.f 1 1 ≠ 0 → ∃ t, exec (.mbSqConfig mb) s = .next t ∧
      State.Answers mb c 2 0x406 false [] s t) ∧
    (s.Served mb 0x40 c (sqChks c) →
      (∀ i, Dev.ctxIds.find? (fun i => (s.dev.ctx i).st != .unclaimed && (s.dev.ctx i).st != .empty) = some i →
        ∃ t, exec (.mbSqConfig mb) s = .next t ∧ State.Answers mb c 7 (s.dev.ctx i).st.code false [] s t) ∧
      ((∀ i ∈ Dev.ctxIds, (s.dev.ctx i).st = .unclaimed ∨ (s.dev.ctx i).st = .empty) →
        (∀ i < s.dev.nDies, s.dev.cacheOff i (c.f i 1) = false) →
        ∃ t, exec (.mbSqConfig mb) s = .next t ∧
          State.Answers mb c 0 0 false []
            { s with dev := (List.range s.dev.nDies).foldl (fun d i => d.resizeCache i (c.f i 1)) s.dev } t ∧
          ∀ i < s.dev.nDies, i < s.dev.sq.length → (t.dev.square i).g = c.f i 1))

/-- R285, R286, R411: the fields of the memory configuration that the flags name. Strength goes to the parameter record and to
the next start; a new `LOCAL_GIB` applies at once, or when the spans are presented; the I/O share waits for the boundary; the
correction warning applies at once. Any of the four rows whose flag is set. The detail answered while windows are mapped, that
any row whose flag is set executes the whole message, and the time at which the spans apply are the model's own choices (log
entries 33, 31, 24). Rows: `setStrength`, `setLocalGib`, `setIoPct`, `setCorrWarn`. -/
def Obligations.MemoryIsConfigured : Prop :=
  ∀ (s : State) (mb : Nat) (c : MbCmd) (row : Instr), s.Served mb 0x50 c (memChks s.dev c) →
    (row = .setStrength mb ∧ (bit (c.f 0 1) 0 = true ∨ c.f 0 1 = 0) ∨ row = .setLocalGib mb ∧ bit (c.f 0 1) 1 = true
      ∨ row = .setIoPct mb ∧ bit (c.f 0 1) 2 = true ∨ row = .setCorrWarn mb ∧ bit (c.f 0 1) 3 = true) →
    (bit (c.f 0 1) 1 = true → ∀ i, s.dev.busyCtx = some i → ∃ t, exec row s = .next t ∧
      State.Answers mb c 7 (s.dev.ctx i).st.code false [] s t) ∧
    (bit (c.f 0 1) 1 = true → s.dev.busyCtx = none → s.dev.net.windows ≠ [] → ∃ t, exec row s = .next t ∧
      State.Answers mb c 7 s.dev.devDetail false [] s t) ∧
    ((bit (c.f 0 1) 1 = false ∨ s.dev.busyCtx = none ∧ s.dev.net.windows = []) → ∃ t, exec row s = .next t ∧
      let d := if bit (c.f 0 1) 1 && s.dev.mcfg.spans then s.dev.setLocal (c.f 4 2) else s.dev
      State.Answers mb c 0 0 false []
        { s with
          flash := if bit (c.f 0 1) 0 then s.flash.record (fun p => { p with strength := some (c.f 1 1) }) else s.flash
          dev := { d with mcfg :=
            { d.mcfg with
              strengthNext := if bit (c.f 0 1) 0 then c.f 1 1 else s.dev.mcfg.strengthNext
              localPend := if bit (c.f 0 1) 1 && !s.dev.mcfg.spans then some (c.f 4 2) else s.dev.mcfg.localPend
              ioPend := if bit (c.f 0 1) 2 then some (c.f 2 1) else s.dev.mcfg.ioPend
              corrWarn := if bit (c.f 0 1) 3 then c.f 6 2 else s.dev.mcfg.corrWarn } } } t)

/-- R362: a map sets the window; an unmap removes it, once what was accepted for it is visible. That an unmap of a window which
is not mapped answers `OK` is the model's own reading (log entry 38). Rows: `memMapWindow`, `memUnmapWindow`. -/
def Obligations.WindowsAreMapped : Prop :=
  ∀ (s : State) (mb : Nat) (c : MbCmd),
    (s.Served mb 0x51 c (mapChks s.dev c) → c.f 2 1 = 0 → ∃ t, exec (.memMapWindow mb) s = .next t ∧
      State.Answers mb c 0 0 false []
        { s with dev := { s.dev with net := { s.dev.net with windows := aset s.dev.net.windows (c.f 0 2) c.window } } } t) ∧
    (s.Served mb 0x51 c (unmapChks c) → c.f 2 1 = 1 →
      (aget s.dev.net.windows (c.f 0 2) = none → ∃ t, exec (.memUnmapWindow mb) s = .next t ∧
        State.Answers mb c 0 0 false [] s t) ∧
      (∀ w, aget s.dev.net.windows (c.f 0 2) = some w → s.dev.windowBusy (c.f 0 2) = true →
        ∃ t, exec (.memUnmapWindow mb) s = .next t ∧
        State.Waits mb c { s with dev := { s.dev with net := { s.dev.net with
          windows := aset s.dev.net.windows (c.f 0 2) { w with unmapping := true } } } } t) ∧
      (∀ w, aget s.dev.net.windows (c.f 0 2) = some w → s.dev.windowBusy (c.f 0 2) = false → mb = 0 →
        ∃ t, exec (.memUnmapWindow mb) s = .next t ∧
        State.Answers mb c 0 0 false []
          { s with dev := { s.dev with net := { s.dev.net with
            windows := adel (aset s.dev.net.windows (c.f 0 2) { w with unmapping := true }) (c.f 0 2) } } } t))

/-- R345 to R347, R351: the settings that the flags name take effect, a change of identity only after the response, for which it
waits, and with every sequence space restarted; a changed link mode retrains its port, the response gone; with flag 6 the
settings go to the parameter record. A change of identity is refused while a group is set or a window mapped. Any of the four
rows whose flag is set. The detail of the refusal, and that any row whose flag is set executes the whole message, are the
model's own choices (log entries 33, 31). Rows: `mbFabricId`, `fabricLinkSettings`, `macsecInstallKey`, `fabricRecordFlash`. -/
def Obligations.FabricSettingsTakeEffect : Prop :=
  ∀ (s : State) (mb : Nat) (c : MbCmd) (row : Instr), s.Served mb 0x60 c (fabricChks c) →
    (row = .mbFabricId mb ∨ row = .fabricLinkSettings mb ∧ bit (c.f 4 1) 3 = true
      ∨ row = .macsecInstallKey mb ∧ bit (c.f 4 1) 4 = true ∨ row = .fabricRecordFlash mb ∧ bit (c.f 4 1) 6 = true) →
    let old := s.dev.net.fab
    let new := c.fabric old
    let now : Fabric := { new with id := old.id, port := old.port, v6 := old.v6, ipv4 := old.ipv4, ipv6 := old.ipv6, plen := old.plen }
    let flash := if bit (c.f 4 1) 6 then s.flash.record (fun p => { p with fabric := some new }) else s.flash
    (new ≠ now → (s.dev.net.groups ≠ [] ∨ s.dev.net.windows ≠ []) → ∃ t, exec row s = .next t ∧
      State.Answers mb c 7 s.dev.devDetail false [] s t) ∧
    (new ≠ now → s.dev.net.groups = [] → s.dev.net.windows = [] → s.dev.canAnswer mb c = false → exec row s = .next s) ∧
    ((new = now ∨ s.dev.net.groups = [] ∧ s.dev.net.windows = [] ∧ s.dev.canAnswer mb c = true) → ∃ t u, exec row s = .next t ∧
      State.Answers mb c 0 0 false [] { s with flash := flash, dev := { s.dev with net := { s.dev.net with fab := now } } } u ∧
      t = { u with dev := t.dev } ∧
      let trained := (List.range 2).foldl (fun d p =>
        if new.linkMode.getLsbD p != old.linkMode.getLsbD p || new.linkMode.getLsbD (2 + p) != old.linkMode.getLsbD (2 + p) then
          d.trainPort p
        else d) u.dev
      (new = now → Dev.Traffic mb trained t.dev) ∧
      (new ≠ now →
        let d := trained.dropSpaces
        Dev.Traffic mb { d with net := { d.net with fab := new } } t.dev ∧ d.net.reads = [] ∧
        ∀ x ∈ d.net.spaces, x.unacked = [] ∧ x.waiting = [] ∧ x.rxNext = 0 ∧ ∀ p ∈ x.placing, p.old = true))

/-- R349, R350: entries are added or replaced, up to 4,096; entries are removed with their sequence spaces, all of them or those
named, unless one is a member of a set group. Admission is closed from then on. The detail of the refusal and what is kept of a
removed peer's placings are the model's own choices (log entries 33, 113). Rows: `peerAdd`, `peerRemove`, `peerRemoveAll`. -/
def Obligations.PeersAreAdmitted : Prop :=
  ∀ (s : State) (mb : Nat) (c : MbCmd), s.Served mb 0x61 c (peerChks c) →
    (c.f 0 1 = 0 →
      let l := c.peers.foldl (fun l p => l.filter (fun x => x.id != p.id) ++ [p]) s.dev.net.peers
      (4096 < l.length → ∃ t, exec (.peerAdd mb) s = .next t ∧ State.Answers mb c 3 6 false [] s t) ∧
      (l.length ≤ 4096 → ∃ t, exec (.peerAdd mb) s = .next t ∧
        State.Answers mb c 0 0 false [] { s with dev := { s.dev with net := { s.dev.net with peers := l, closed := true } } } t)) ∧
    (∀ (row : Instr) (gone : List Nat),
      (c.f 0 1 = 1 ∧ row = .peerRemove mb ∧ gone = c.peers.map (fun p => p.id)
        ∨ c.f 0 1 = 2 ∧ row = .peerRemoveAll mb ∧ gone = s.dev.net.peers.map (fun p => p.id)) →
      ((∃ i ∈ gone, s.dev.inGroup i = true) → ∃ t, exec row s = .next t ∧
        State.Answers mb c 7 s.dev.devDetail false [] s t) ∧
      ((∀ i ∈ gone, s.dev.inGroup i = false) → ∃ t, exec row s = .next t ∧
        let d := gone.foldl (fun d i => d.dropPeerState i) s.dev
        State.Answers mb c 0 0 false [] { s with dev := { d with net :=
          { d.net with peers := s.dev.net.peers.filter (fun p => !gone.contains p.id), closed := true } } } t ∧
        (∀ x ∈ d.net.spaces, x.peer ∈ gone → x.unacked = [] ∧ x.waiting = [] ∧ ∀ p ∈ x.placing, p.old = true) ∧
        d.net.reads = s.dev.net.reads.filter (fun x => !gone.contains x.peer)))

/-- R365, R366: a group is set for a context that holds a program, or cleared, unless a collective of it runs; R45 follows for
the context's units. The detail answered while a collective of the group runs is the model's own choice (log entry 33). Rows:
`groupSet`, `groupClear`. -/
def Obligations.GroupsAreSet : Prop :=
  ∀ (s : State) (mb : Nat) (c : MbCmd), s.Served mb 0x62 c (groupChks s.dev c) →
    (c.f 1 1 = 0 →
      (Dev.holds (s.dev.ctx (c.f 2 1)) = false → ∃ t, exec (.groupSet mb) s = .next t ∧
        State.Answers mb c 7 (s.dev.ctx (c.f 2 1)).st.code false [] s t) ∧
      (Dev.holds (s.dev.ctx (c.f 2 1)) = true → s.dev.groupRuns (c.f 0 1) = true → ∃ t, exec (.groupSet mb) s = .next t ∧
        State.Answers mb c 7 s.dev.devDetail false [] s t) ∧
      (Dev.holds (s.dev.ctx (c.f 2 1)) = true → s.dev.groupRuns (c.f 0 1) = false → ∃ t, exec (.groupSet mb) s = .next t ∧
        let g : Group := { owner := c.f 2 1, trig := c.f 6 2, list := c.f 8 8, len := c.f 16 2, members := c.members
                           epoch := BitVec.ofNat 32 (c.f 20 4) }
        State.Answers mb c 0 0 false []
          { s with dev := ({ s.dev with net := { s.dev.net with groups := aset s.dev.net.groups (c.f 0 1) g } }).recheckUnits } t)) ∧
    (c.f 1 1 = 1 →
      (s.dev.groupRuns (c.f 0 1) = true → ∃ t, exec (.groupClear mb) s = .next t ∧
        State.Answers mb c 7 s.dev.devDetail false [] s t) ∧
      (s.dev.groupRuns (c.f 0 1) = false → ∃ t, exec (.groupClear mb) s = .next t ∧
        State.Answers mb c 0 0 false []
          { s with dev := ({ s.dev with net := { s.dev.net with groups := adel s.dev.net.groups (c.f 0 1) } }).recheckUnits } t))

/-- R374, R436 to R441: a profiling configuration is queued, with `WARN` when it turns profiling on over a certified `RT` entry,
a stop likewise; counters, port words, the correction log and core counters are answered and nothing moves. Which configuration
counts as a stop is the model's own choice (log entry 63). Rows: `traceSet`, `traceStop`, `mbCounterRead`, `portStatusRead`,
`corrLogRead`, `coreCounterRead`. -/
def Obligations.ProfilingAndCounters : Prop :=
  ∀ (s : State) (mb : Nat) (c : MbCmd),
    (s.Served mb 0x70 c (traceChks s.dev c) →
      let on := c.traceCfg.tclass != 0 || c.traceCfg.cores
      (c.f 0 1 = 0 → on = true → s.dev.obsOn = false → ∃ t, exec (.traceSet mb) s = .next t ∧
        State.Answers mb c 7 (Dev.unitDetail .off) false [] s t) ∧
      (c.f 0 1 = 0 → (on = false ∨ s.dev.obsOn = true) → ∃ t, exec (.traceSet mb) s = .next t ∧
        State.Answers mb c 0 0
          (on && !s.dev.profiling && s.dev.slots.table.any (fun e => e.rt && Dev.holds (s.dev.ctx e.owner) && !(Dev.certified (s.dev.ctx e.owner)).isEmpty))
          [] { s with dev := { s.dev with trace := { s.dev.trace with pend := some c.traceCfg } } } t) ∧
      (c.f 0 1 = 1 → ∃ t, exec (.traceStop mb) s = .next t ∧
        State.Answers mb c 0 0 false [] { s with dev := { s.dev with trace :=
          { s.dev.trace with pend := some { s.dev.trace.cfg with tclass := 0, cores := false, clear := false, stop := true } } } } t)) ∧
    (s.Served mb 0x71 c (counterChks c) →
      (c.f 0 1 = 0 → ∃ t, exec (.mbCounterRead mb) s = .next t ∧
        State.Answers mb c 0 0 false ((List.range (c.f 2 2)).flatMap (fun i =>
          leBytes 8 (s.dev.ctrVal (c.f (8 + 2 * i) 2 / 256) (c.f (8 + 2 * i) 2 % 256)).toNat)) s t) ∧
      (c.f 0 1 = 1 → ∃ t, exec (.portStatusRead mb) s = .next t ∧
        State.Answers mb c 0 0 false (leBytes 8 (s.dev.portWord 0) ++ leBytes 8 (s.dev.portWord 1)) s t) ∧
      (c.f 0 1 = 2 → ∃ t, exec (.corrLogRead mb) s = .next t ∧
        State.Answers mb c 0 0 false (leBytes 4 (s.dev.stack (c.f 1 1)).log.length ++ leBytes 4 0
          ++ (((s.dev.stack (c.f 1 1)).log.drop (c.f 4 2)).take (c.f 2 2)).flatMap LogEntry.bytes) s t) ∧
      (c.f 0 1 = 3 → ∃ t, exec (.coreCounterRead mb) s = .next t ∧
        State.Answers mb c 0 0 false ((List.range 96).flatMap (fun i =>
          leBytes 8 ((aget s.dev.trace.core (96 * c.f 1 1 + i)).getD 0).toNat)) s t)) ∧
    (s.Reaches mb 0x71 c (counterChks c) →
      (c.f 0 1 = 3 → s.dev.fitted 0 (c.f 1 1) = true → s.dev.svcOf 0 (c.f 1 1) ≠ .inService →
        ∃ t, exec (.coreCounterRead mb) s = .next t ∧ State.Answers mb c 7 (Dev.unitDetail (s.dev.svcOf 0 (c.f 1 1))) false [] s t) ∧
      (∀ row k, (c.f 0 1 = 2 ∧ row = .corrLogRead mb ∧ k = 5 ∨ c.f 0 1 = 3 ∧ row = .coreCounterRead mb ∧ k = 0) →
        s.dev.fitted k (c.f 1 1) = false → ∃ t, exec row s = .next t ∧
          State.Answers mb c 2 (k + c.f 1 1 * 256) false [] s t))

/-- R430, R433: a unit in service drains from the disable on, a port only while the other is up; a disabled one ramps its domain
on a return to service, whose response waits. A fence ends the drain: the response precedes the change of state. That the detail
of a refused port names the other port's state, and that the response goes before the change of state, are the model's own
choices (log entries 136, 138). Rows: `unitDisable`, `unitReturnToService`, `mbUnitFence`. -/
def Obligations.UnitsLeaveAndReturn : Prop :=
  ∀ (s : State) (mb : Nat) (c : MbCmd),
    (∀ row, (s.Reaches mb 0x81 c (unitChks c) ∧ (row = .unitDisable mb ∧ c.f 2 1 = 0 ∨ row = .unitReturnToService mb ∧ c.f 2 1 = 1)
        ∨ s.Reaches mb 0x82 c (fenceChks c) ∧ row = .mbUnitFence mb) → s.dev.fitted (c.f 0 1) (c.f 1 1) = false →
      ∃ t, exec row s = .next t ∧ State.Answers mb c 2 (c.f 0 1 + c.f 1 1 * 256) false [] s t) ∧
    (s.Served mb 0x81 c (unitChks c) →
      let k := c.f 0 1
      let i := c.f 1 1
      (c.f 2 1 = 0 → s.dev.canDrain k i = false → ∃ t, exec (.unitDisable mb) s = .next t ∧
        State.Answers mb c 7 (Dev.unitDetail (s.dev.svcOf k i)) false [] s t) ∧
      (c.f 2 1 = 0 → s.dev.canDrain k i = true → k = 3 → s.dev.portUp (1 - i) = false →
        ∃ t, exec (.unitDisable mb) s = .next t ∧
        State.Answers mb c 7 (Dev.unitDetail (s.dev.svcOf 3 (1 - i))) false [] s t) ∧
      (c.f 2 1 = 0 → s.dev.canDrain k i = true → (k ≠ 3 ∨ s.dev.portUp (1 - i) = true) →
        ∃ t, exec (.unitDisable mb) s = .next t ∧ State.Answers mb c 0 0 false [] { s with dev := s.dev.drain k i } t) ∧
      (c.f 2 1 = 1 → s.dev.svcOf k i ≠ .disabled → ∃ t, exec (.unitReturnToService mb) s = .next t ∧
        State.Answers mb c 7 (Dev.unitDetail (s.dev.svcOf k i)) false [] s t) ∧
      (c.f 2 1 = 1 → s.dev.svcOf k i = .disabled → ∃ t, exec (.unitReturnToService mb) s = .next t ∧
        State.Waits mb c { s with dev := { s.dev with power :=
          { s.dev.power with job := some { ramp := [domainOf k i] } } } } t)) ∧
    (s.Served mb 0x82 c (fenceChks c) →
      let k := c.f 0 1
      let i := c.f 1 1
      (s.dev.svcOf k i ≠ .draining → ∃ t, exec (.mbUnitFence mb) s = .next t ∧
        State.Answers mb c 7 (Dev.unitDetail (s.dev.svcOf k i)) false [] s t) ∧
      (s.dev.svcOf k i = .draining → ∃ t u, exec (.mbUnitFence mb) s = .next t ∧
        State.Answers mb c 0 0 false [] { s with dev := s.dev.fence k i } u ∧ t = { u with dev := t.dev } ∧
        Dev.Traffic mb (u.dev.disable k i) t.dev))

/-- R459 to R463: a domain set is refused whole by the first domain named that is absent, then by the first that may not change;
else what is named off goes off, and the response waits while anything named on ramps. With nothing to ramp the cap is set and
the rails are answered. Either row, the second where the cap flag is set. The order of the two refusals with their details, and
that the cap is set at the response, are the model's own choices (log entries 140, 141). Rows: `mbDomainSet`, `powerCapSet`. -/
def Obligations.DomainsAreSet : Prop :=
  ∀ (s : State) (mb : Nat) (c : MbCmd) (row : Instr),
    (row = .mbDomainSet mb ∨ row = .powerCapSet mb ∧ bit (c.f 16 1) 1 = true) →
    let d := (s.dev.offs c).foldl (fun d x => d.switchOff x) s.dev
    (s.Reaches mb 0x80 c (domainChks c) → ∀ x, c.domains.find? (fun x => !s.dev.domainFitted x) = some x → ∃ t, exec row s = .next t ∧
      State.Answers mb c 2 (((unitOf x).getD (0, 0)).1 + ((unitOf x).getD (0, 0)).2 * 256) false [] s t) ∧
    (s.Served mb 0x80 c (domainChks c) → ∀ det, s.dev.domainRefusal c = some det → ∃ t, exec row s = .next t ∧ State.Answers mb c 7 det false [] s t) ∧
    (s.Served mb 0x80 c (domainChks c) → s.dev.domainRefusal c = none → (d.domainJob c).ramp ≠ [] →
      ∃ t, exec row s = .next t ∧
        State.Waits mb c { s with dev := { d with power := { d.power with job := some (d.domainJob c) } } } t) ∧
    (s.Served mb 0x80 c (domainChks c) → s.dev.domainRefusal c = none → (d.domainJob c).ramp = [] →
      ∃ t, exec row s = .next t ∧
        let held : Dev := { d.hold mb c with power := { d.power with job := none } }
        let e := if bit (c.f 16 1) 1 then held.setCap (c.f 18 2) else held
        State.Answers mb { c with busy := true } 0 0 false e.domainBytes { s with dev := e } t)

/-- R307 to R309, R311: a repair that has a spare begins its burn and waits, behind a burn in progress it does not begin; a
patrol rate is set; a range scrub or a traffic test waits on the stacks named; a stop marks them. That a second repair commit
waits behind a burn in progress, the units of the scrub rows, and the details are the model's own choices (log entries 109, 107,
33). Rows: `mbRepairCommit`, `scrubSetPatrol`, `scrubRange`, `trafficTest`, `scrubStop`. -/
def Obligations.RepairAndScrub : Prop :=
  ∀ (s : State) (mb : Nat) (c : MbCmd),
    (s.Reaches mb 0x90 c (repairChks c) → s.dev.fitted 5 (c.f 0 1) = false → ∃ t, exec (.mbRepairCommit mb) s = .next t ∧
      State.Answers mb c 2 (5 + c.f 0 1 * 256) false [] s t) ∧
    (s.Reaches mb 0x90 c (repairChks c) → s.dev.fitted 5 (c.f 0 1) = true → s.dev.st ≠ .full → (s.dev.stack (c.f 0 1)).st ≠ 0 →
      ∃ t, exec (.mbRepairCommit mb) s = .next t ∧ State.Answers mb c 7 (s.dev.stackCode (c.f 0 1) + 256) false [] s t) ∧
    (s.Served mb 0x90 c (repairChks c) →
      let r : Repair := { stack := c.f 0 1, pch := c.f 1 1, column := c.f 2 1 == 1, bank := c.f 3 1, row := c.f 4 4, col := c.f 8 2 }
      (Dev.sparesLeft s.otp r.stack r.pch r.column = 0 → ∃ t, exec (.mbRepairCommit mb) s = .next t ∧
        State.Answers mb c 7 ((s.dev.stack r.stack).st + 256) false [] s t) ∧
      (Dev.sparesLeft s.otp r.stack r.pch r.column ≠ 0 → s.dev.burn ≠ none →
        exec (.mbRepairCommit mb) s = .next s) ∧
      (Dev.sparesLeft s.otp r.stack r.pch r.column ≠ 0 → s.dev.burn = none →
        ∃ t, exec (.mbRepairCommit mb) s = .next t ∧
        State.Waits mb c { s with dev := { s.dev with burn := some (some r, 0) } } t)) ∧
    (∀ row, (row = .scrubSetPatrol mb ∧ c.f 0 1 = 0 ∨ row = .scrubRange mb ∧ c.f 0 1 = 1 ∨ row = .trafficTest mb ∧ c.f 0 1 = 2
        ∨ row = .scrubStop mb ∧ c.f 0 1 = 3) → s.Reaches mb 0x91 c (scrubChks s.dev c) →
      let named := (List.range 8).filter (bit (c.f 1 1))
      (∀ k, named.find? (fun k => !s.dev.fitted 1 k) = some k → ∃ t, exec row s = .next t ∧
        State.Answers mb c 2 (1 + k * 256) false [] s t) ∧
      ((∀ k ∈ named, s.dev.fitted 1 k = true) → s.dev.power.on.getLsbD 53 = true →
        ∀ k, named.find? (fun k => s.dev.svcOf 1 k != .inService) = some k → ∃ t, exec row s = .next t ∧
        State.Answers mb c 7 (Dev.unitDetail (s.dev.svcOf 1 k)) false [] s t)) ∧
    (s.Served mb 0x91 c (scrubChks s.dev c) →
      let named := (List.range 8).filter (bit (c.f 1 1))
      (c.f 0 1 = 0 → ∃ t, exec (.scrubSetPatrol mb) s = .next t ∧
        State.Answers mb c 0 0 false [] { s with dev := named.foldl (fun d k =>
          d.setEng k (fun e => { e with patrol := c.f 4 4, patrolRewrite := bit (c.f 2 1) 0 })) s.dev } t) ∧
      (∀ (row : Instr) (j : ScrubJob),
        (c.f 0 1 = 1 ∧ row = .scrubRange mb ∧
            j = { order := c.order, rewrite := bit (c.f 2 1) 0, addr := c.f 8 8, count := c.f 16 4
                  left := named.filter (fun k => Dev.stkOf (c.f 8 8) == k) }
          ∨ c.f 0 1 = 2 ∧ s.dev.busyCtx = none ∧ s.dev.slots.table = [] ∧ row = .trafficTest mb ∧
            j = { order := c.order, test := true, addr := c.f 8 8, count := c.f 16 4, chmask := c.f 20 4, pattern := c.f 24 1
                  dir := c.f 25 1, seed := c.f 28 4, left := named }) →
        (j.left ≠ [] → ∃ t, exec row s = .next t ∧
          State.Waits mb c { s with dev := { s.dev with scrub := s.dev.scrub ++ [j] } } t) ∧
        (j.left = [] → mb = 0 → ∃ t, exec row s = .next t ∧
          State.Answers mb { c with busy := true } 0 0 false
            (if j.test then leBytes 8 0 ++ leBytes 8 (2 ^ 64 - 1) ++ leBytes 4 0 ++ leBytes 4 0 else leBytes 4 0 ++ leBytes 4 0 ++ leBytes 4 0)
            { s with dev := { s.dev.hold mb c with scrub := s.dev.scrub.filter (fun x => x.order != c.order) } } t)) ∧
      (c.f 0 1 = 2 → ∀ i, s.dev.busyCtx = some i → ∃ t, exec (.trafficTest mb) s = .next t ∧
        State.Answers mb c 7 (s.dev.ctx i).st.code false [] s t) ∧
      (c.f 0 1 = 2 → s.dev.busyCtx = none → s.dev.slots.table ≠ [] → ∃ t, exec (.trafficTest mb) s = .next t ∧
        State.Answers mb c 7 s.dev.devDetail false [] s t) ∧
      (c.f 0 1 = 3 → ∃ t, exec (.scrubStop mb) s = .next t ∧
        let marked : List ScrubJob := s.dev.scrub.map (fun j => { j with stop := j.stop ++ named.filter (fun k => j.left.contains k) })
        let d : Dev := { s.dev with scrub := marked }
        State.Answers mb c 0 0 false [] { s with dev := named.foldl (fun d k => d.dropJobs k) d } t))

/-- R412, R413: a quote answers its 192 bytes and their signature under the device key; a chunk of the chain answers the length
and up to 4,032 bytes. The key and the number of a signature are free values (log entry 13). Rows: `attestQuote`,
`attestCertChunk`. -/
def Obligations.AttestationAnswers : Prop :=
  ∀ (s : State) (mb : Nat) (c : MbCmd), s.Served mb 0xA0 c (attestChks s c) →
    (c.f 0 1 = 0 → ∃ t, exec (.attestQuote mb) s = .next t ∧
      let sig := ecdsaSign (deviceKey s.otp.secret) (sha384 (quoteBody c s)) (Config.signSecret s.dev.fresh)
      State.Answers mb c 0 0 false (quoteBody c s ++ digestBytes sig.1 ++ digestBytes sig.2) { s with dev := s.dev.bump } t) ∧
    (c.f 0 1 = 1 → ∃ t, exec (.attestCertChunk mb) s = .next t ∧
      State.Answers mb c 0 0 false
        (leBytes 4 s.otp.certChain.length ++ leBytes 12 0 ++ (s.otp.certChain.drop (4032 * c.f 2 2)).take 4032) s t)

/-- R414, R415: an image that passes the check is staged into the slot that does not run, which is erased first; an activation
verifies that slot and puts it on trial, in the second form with a reset after the response; a commit makes the running image
the primary, after a burn where one is asked for; a cancel ends a pending trial. The pins at the reset, the check for a trial
before the check of the image, a trial lost when its slot is staged over, a burn that is not needed, and the details are the
model's own choices (log entries 20, 21, 22, 33). Rows: `mbFwStage`, `fwActivateTrial`, `fwActivateReset`, `fwCommit`,
`fwCancelTrial`. -/
def Obligations.FirmwareIsUpdated : Prop :=
  ∀ (s : State) (mb : Nat) (c : MbCmd),
    (s.Served mb 0xB0 c [lenIs c 16, (s.dev.inStacked (c.f 0 8) (c.f 8 4), 64), (c.z 12 4, 76)] →
      let r := s.dev.ioFetch (c.f 0 8) (c.f 8 4)
      let m : FwImage := { header := r.1.1.take 512, body := r.1.1.drop 512 }
      let i := 1 - s.dev.boot.image
      ((onTrial s = true ∨ s.tap.owns = true) → ∃ t, exec (.mbFwStage mb) s = .next t ∧
        State.Answers mb c 7 s.dev.devDetail false [] s t) ∧
      (onTrial s = false → s.tap.owns = false → ∀ l ls, r.1.2 = l :: ls → ∃ t, exec (.mbFwStage mb) s = .next t ∧
        State.Answers mb c 5 (Nat.min (l - c.f 0 8) 0xFFFFFFFF) false [] { s with dev := r.2 } t) ∧
      (onTrial s = false → s.tap.owns = false → r.1.2 = [] → ∀ st det, imageRefusal s.otp m = some (st, det) →
        ∃ t, exec (.mbFwStage mb) s = .next t ∧
        State.Answers mb c st det false [] { s with dev := r.2 } t) ∧
      (onTrial s = false → s.tap.owns = false → r.1.2 = [] → imageRefusal s.otp m = none → ∃ t, exec (.mbFwStage mb) s = .next t ∧
        let fl := if s.flash.sel.trial = i + 1 then s.flash.writeSel (fun x => { x with trial := 0, tries := 0 }) else s.flash
        State.Waits mb c { s with flash := fl.setImage i none, dev :=
          { r.2 with staging := some { m with body := m.body.take m.bodyLen } } } t)) ∧
    (s.Served mb 0xB1 c (activateChks c) →
      let i := 1 - s.dev.boot.image
      (c.f 0 1 = 1 → ∀ j, s.dev.busyCtx = some j → ∃ t, exec (.fwActivateReset mb) s = .next t ∧
        State.Answers mb c 7 (s.dev.ctx j).st.code false [] s t) ∧
      (∀ row, (row = .fwActivateTrial mb ∧ c.f 0 1 = 0 ∨ row = .fwActivateReset mb ∧ c.f 0 1 = 1 ∧ s.dev.busyCtx = none) →
        ∀ st det, imageRefusal s.otp (s.flash.image i) = some (st, det) → ∃ t, exec row s = .next t ∧
        State.Answers mb c st det false [] s t) ∧
      (c.f 0 1 = 0 → imageRefusal s.otp (s.flash.image i) = none → ∃ t, exec (.fwActivateTrial mb) s = .next t ∧
        State.Answers mb c 0 0 false [] { s with flash := s.flash.writeSel (fun x => { x with trial := i + 1, tries := 0 }) } t) ∧
      (c.f 0 1 = 1 → s.dev.busyCtx = none → imageRefusal s.otp (s.flash.image i) = none → s.dev.canAnswer mb c = false →
        exec (.fwActivateReset mb) s = .next s) ∧
      (c.f 0 1 = 1 → s.dev.busyCtx = none → imageRefusal s.otp (s.flash.image i) = none → s.dev.canAnswer mb c = true →
        ∃ t u, exec (.fwActivateReset mb) s = .next t ∧
        State.Answers mb c 0 0 false [] { s with flash := s.flash.writeSel (fun x => { x with trial := i + 1, tries := 0 }) } u ∧
        t = toCold u) ∧
      (c.f 0 1 = 2 → (bit (c.f 1 1) 0 = false ∨ s.dev.boot.fwRollback ≤ s.otp.rollback) → ∃ t, exec (.fwCommit mb) s = .next t ∧
        State.Answers mb c 0 0 false (leBytes 2 s.otp.rollback) { s with flash := commit s.flash s.dev.boot.image } t) ∧
      (c.f 0 1 = 2 → bit (c.f 1 1) 0 = true → s.otp.rollback < s.dev.boot.fwRollback → s.dev.burn = none →
        ∃ t, exec (.fwCommit mb) s = .next t ∧
        State.Waits mb c { s with dev := { s.dev with burn := some (none, s.dev.boot.fwRollback) } } t) ∧
      (c.f 0 1 = 3 → ∃ t, exec (.fwCancelTrial mb) s = .next t ∧
        State.Answers mb c 0 0 false []
          { s with flash := if s.flash.sel.trial ≠ 0 ∧ s.flash.sel.tries = 0 then
              s.flash.writeSel (fun x => { x with trial := 0, tries := 0 }) else s.flash } t))

/-- R382 to R386, R395: a stream opens under a free number of the engine, with its pool's size, for a context that holds a
program; with none free it is refused. A frame whose descriptor passes its checks is queued, up to eight; one that fails them,
of an unknown stream or of a triggered one is refused with the offset at fault. A close drops or keeps what waits and answers
once nothing of the stream is left; one of another's stream is refused. That held frames count among the eight, `BAD_STATE` for
a frame on a closing stream, and the details are the model's own choices (log entries 128, 131, 33). Rows: `mbCodecStreamOpen`,
`mbCodecFrame`, `codecCloseDrain`, `codecCloseDiscard`. -/
def Obligations.CodecStreamCommands : Prop :=
  ∀ (s : State) (mb : Nat) (c : MbCmd),
    (s.Served mb 0xC0 c (openChks c) → ∀ o, firstOff (openOwn s.dev c) = some o → ∃ t, exec (.mbCodecStreamOpen mb) s = .next t ∧
      State.Answers mb c 8 o false [] s t) ∧
    (s.Served mb 0xC0 c (openChks c) → (∀ k ∈ openOwn s.dev c, k.1 = true) → c.f 38 1 ≠ 0 → Dev.holds (s.dev.ctx (c.f 38 1)) = false →
      ∃ t, exec (.mbCodecStreamOpen mb) s = .next t ∧ State.Answers mb c 7 (s.dev.ctx (c.f 38 1)).st.code false [] s t) ∧
    (s.Served mb 0xC0 c (openChks c) → (∀ k ∈ openOwn s.dev c, k.1 = true) →
      (c.f 38 1 = 0 ∨ Dev.holds (s.dev.ctx (c.f 38 1)) = true) →
      ((∀ n, 32 * c.f 0 1 ≤ n → n < 32 * c.f 0 1 + 32 → (s.dev.cstream n).isSome = true) → ∃ t, exec (.mbCodecStreamOpen mb) s = .next t ∧
        State.Answers mb c 3 (7 + c.f 0 1 * 256) false [] s t) ∧
      ((∃ n, 32 * c.f 0 1 ≤ n ∧ n < 32 * c.f 0 1 + 32 ∧ s.dev.cstream n = none) → ∃ t n, exec (.mbCodecStreamOpen mb) s = .next t ∧
        n / 32 = c.f 0 1 ∧ s.dev.cstream n = none ∧
        State.Answers mb c 0 0 false (leBytes 2 n ++ leBytes 2 0 ++ leBytes 4 (poolBytes (c.f 8 2) (c.f 10 2) (c.f 6 1)))
          { s with dev := s.dev.bump.setCodec (c.f 0 1) (fun k => { k with streams := aset k.streams n (c.cstream mb) }) } t)) ∧
    (s.Served mb 0xC1 c (frameChks s.dev c) → (s.dev.cstream (c.f 0 2) = none ∨ (∃ x, s.dev.cstream (c.f 0 2) = some x ∧ x.trig ≠ none)) →
      ∃ t, exec (.mbCodecFrame mb) s = .next t ∧ State.Answers mb c 8 64 false [] s t) ∧
    (s.Served mb 0xC1 c (frameChks s.dev c) → ∀ x o, s.dev.cstream (c.f 0 2) = some x → x.trig = none →
      firstOff (descChks s.dev x (c.payload.drop 8)) = some o →
      ∃ t, exec (.mbCodecFrame mb) s = .next t ∧ State.Answers mb c 8 (72 + o) false [] s t) ∧
    (∀ row, (row = .codecCloseDrain mb ∧ c.f 2 1 = 0 ∨ row = .codecCloseDiscard mb ∧ c.f 2 1 = 1) → s.Served mb 0xC2 c (closeChks c) →
      (s.dev.cstream (c.f 0 2) = none ∨ ∃ x, s.dev.cstream (c.f 0 2) = some x ∧ x.mbox ≠ mb) →
      ∃ t, exec row s = .next t ∧ State.Answers mb c 8 64 false [] s t) ∧
    (s.Served mb 0xC1 c (frameChks s.dev c) → ∀ x, s.dev.cstream (c.f 0 2) = some x →
      x.trig = none → (∀ k ∈ descChks s.dev x (c.payload.drop 8), k.1 = true) →
      (x.closing ≠ none → ∃ t, exec (.mbCodecFrame mb) s = .next t ∧ State.Answers mb c 7 s.dev.devDetail false [] s t) ∧
      (x.closing = none → 8 ≤ x.queue.length + x.held.length → ∃ t, exec (.mbCodecFrame mb) s = .next t ∧
        State.Answers mb c 1 0 false [] s t) ∧
      (x.closing = none → x.queue.length + x.held.length < 8 → ∃ t, exec (.mbCodecFrame mb) s = .next t ∧
        State.Answers mb c 0 0 false []
          { s with dev := s.dev.setCstream (c.f 0 2) (fun s => s.submit (descOf (c.payload.drop 8))) } t)) ∧
    (s.Served mb 0xC2 c (closeChks c) → ∀ x, s.dev.cstream (c.f 0 2) = some x → x.mbox = mb →
      (c.f 2 1 = 0 → (x.queue ≠ [] ∨ x.held ≠ [] ∨ s.dev.inFrame (c.f 0 2) = true) → ∃ t, exec (.codecCloseDrain mb) s = .next t ∧
        State.Waits mb c { s with dev := s.dev.setCstream (c.f 0 2) (fun x => { x with
          queue := x.queue ++ x.held, held := [], closing := some (x.closing.getD 0) }) } t) ∧
      (∀ row, (row = .codecCloseDrain mb ∧ c.f 2 1 = 0 ∨ row = .codecCloseDiscard mb ∧ c.f 2 1 = 1) →
        x.queue = [] → x.held = [] → s.dev.inFrame (c.f 0 2) = false → ∃ t, exec row s = .next t ∧
        t.dev.cstream (c.f 0 2) = none ∧
        ((s.dev.mbox mb).queue.head? = some c → Dev.Answered mb c 0 0 false [] s.dev t.dev)) ∧
      (c.f 2 1 = 1 → s.dev.inFrame (c.f 0 2) = true → ∃ t, exec (.codecCloseDiscard mb) s = .next t ∧ t = { s with dev := t.dev } ∧
        Dev.Traffic mb (((s.dev.hold mb c).setCstream (c.f 0 2) (fun s => { s with queue := [], held := [], closing := some 1 })).discardFrames
          (c.f 0 2) (x.held ++ x.queue)) t.dev))

/-- R22, R28, R30, R33, R36, R286: a boundary, however it comes about, starts the next tick at its moment: the count goes up by
one, everything pending takes effect, the window opens and the table begins again. By its time, by a qualifying edge of
`TICK_IN`, by the end of its window without an edge, or by the end of a re-acquisition. That a row moves the clock forward to
its moment is the model's own choice (log entry 3). Rows: `tickBoundary`, `tickInEdge`, `tickInWindowExpiry`,
`reacquireTimeout`. -/
def Obligations.BoundaryStartsATick : Prop :=
  ∀ (s : State) (row : Instr) (at' : Nat), s.dev.ticking = true →
    ((row = .tickBoundary ∧ s.dev.boundaryDue = some at') ∨
     ((∃ w, row = .tickInEdge w ∧ 20 ≤ w) ∧ s.tap.owns = false ∧ at' = s.dev.now ∧
        ((s.dev.tu.reacq = true ∧ s.dev.tu.gov.source = 2 ∧ s.dev.tu.startNs + s.dev.tu.gov.tMin ≤ s.dev.now) ∨
         (s.dev.tu.reacq = false ∧ s.dev.tu.cfg.source = 2 ∧ s.dev.tu.endNs ≤ s.dev.now + s.dev.tu.cfg.inWindow ∧
            s.dev.now ≤ s.dev.tu.endNs + s.dev.tu.cfg.inWindow))) ∨
     (row = .tickInWindowExpiry ∧ s.dev.tu.cfg.source = 2 ∧ s.dev.tu.holdover = false ∧ s.dev.tu.reacq = false ∧
        at' = s.dev.tu.endNs + s.dev.tu.cfg.inWindow) ∨
     (row = .reacquireTimeout ∧ s.dev.tu.reacq = true ∧ s.dev.tu.gov.source = 2 ∧
        at' = s.dev.tu.startNs + 2 * s.dev.tu.gov.period)) →
    ∃ t, exec row s = .next t ∧ t = { s with dev := t.dev } ∧ Dev.Ticked s.dev t.dev ∧
      t.dev.tu.startNs = Nat.max s.dev.now at' ∧ t.dev.tu.startNs ≤ t.dev.now ∧
      ((∀ k < s.dev.nStacks, (s.dev.stack k).ready = [] ∧ (s.dev.stack k).ioWait = []) → t.dev.now = t.dev.tu.startNs) ∧
      t.dev.tu.tick = s.dev.tu.tick + 1 ∧
      t.dev.tu.cfg = s.dev.tu.pend.getD s.dev.tu.cfg ∧ t.dev.tu.pend = none ∧ t.dev.tu.reacq = false ∧
      t.dev.slots.table = s.dev.slots.pend.getD s.dev.slots.table ∧ t.dev.slots.pend = none ∧ t.dev.slots.window = true ∧
      t.dev.slots.nxt = 0 ∧ t.dev.mcfg = { s.dev.mcfg with ioPct := s.dev.mcfg.ioPend.getD s.dev.mcfg.ioPct, ioPend := none } ∧
      (t.dev.tu.cfg.tickOut = true → t.dev.tu.tickOutNs = some t.dev.tu.startNs)

/-- R23 to R26: the length of the tick that a boundary begins and the status that goes with it: the period and locked on the
free-running source; on PTP the period less the offset, within a ten-thousandth; on `TICK_IN` locked at an edge and in holdover
without one. That `TU_LOCKED` is 0 in holdover, and which rate holdover runs at, are the model's own readings (log entry 52). -/
def Obligations.TickLengthAndStatus : Prop :=
  ∀ (s : State) (row : Instr) (t : State), exec row s = .next t → s.dev.ticking = true → s.dev.tu.pend = none → s.dev.tu.reacq = false →
    (row = .tickBoundary → s.dev.boundaryDue.isSome = true → s.dev.tu.cfg.source = 0 →
      t.dev.tu.endNs = t.dev.tu.startNs + s.dev.tu.cfg.period ∧ t.dev.tu.locked = true ∧ t.dev.tu.holdover = false) ∧
    (row = .tickBoundary → s.dev.tu.cfg.source = 1 → ∀ p, s.dev.tu.slave = some p →
      (t.dev.tu.startNs + s.dev.tu.cfg.period - s.dev.tu.cfg.period / 10000 ≤ t.dev.tu.endNs) ∧
      (t.dev.tu.endNs ≤ t.dev.tu.startNs + s.dev.tu.cfg.period + s.dev.tu.cfg.period / 10000) ∧
      (t.dev.tu.locked = true ↔ t.dev.tu.offset.natAbs ≤ 1000) ∧ t.dev.tu.holdover = false) ∧
    (row = .tickBoundary → s.dev.tu.cfg.source = 1 → s.dev.tu.slave = none → t.dev.tu.locked = false ∧ t.dev.tu.holdover = true) ∧
    (row = .tickInWindowExpiry → s.dev.tu.cfg.source = 2 → s.dev.tu.holdover = false →
      t.dev.tu.endNs = t.dev.tu.startNs + s.dev.tu.cfg.period ∧ t.dev.tu.locked = false ∧ t.dev.tu.holdover = true) ∧
    ((∃ w, row = .tickInEdge w ∧ 20 ≤ w) → s.tap.owns = false → s.dev.tu.cfg.source = 2 →
      s.dev.tu.endNs ≤ s.dev.now + s.dev.tu.cfg.inWindow → s.dev.now ≤ s.dev.tu.endNs + s.dev.tu.cfg.inWindow →
      t.dev.tu.endNs = t.dev.tu.startNs + s.dev.tu.cfg.period ∧ t.dev.tu.locked = true ∧ t.dev.tu.holdover = false)

/-- R25, R470: an edge that starts no tick: shorter than 20 ns or outside every window it is counted and ignored; just after a
boundary that holdover brought, it locks and the tick ends a period after it; while the boundary register owns the lands, or
another source runs, it is not seen. That an edge just after a holdover boundary locks, and that its tick ends a period after
it, is the model's own reading (log entry 50). Rows: `tickInEdge`. -/
def Obligations.OtherEdges : Prop :=
  ∀ (s : State) (w : Nat),
    (s.tap.owns = true → exec (.tickInEdge w) s = .next s) ∧
    (s.tap.owns = false → s.dev.ticking = true → s.dev.tu.reacq = false → s.dev.tu.cfg.source ≠ 2 → exec (.tickInEdge w) s = .next s) ∧
    (s.tap.owns = false → s.dev.ticking = true → s.dev.tu.reacq = false → s.dev.tu.cfg.source = 2 →
      let near : Prop := s.dev.tu.endNs ≤ s.dev.now + s.dev.tu.cfg.inWindow ∧ s.dev.now ≤ s.dev.tu.endNs + s.dev.tu.cfg.inWindow
      let after : Prop := s.dev.tu.holdover = true ∧ s.dev.now ≤ s.dev.tu.startNs + s.dev.tu.cfg.inWindow
      (w < 20 ∨ (¬ near ∧ ¬ after) → exec (.tickInEdge w) s = .next { s with dev := s.dev.cnt 0x40 7 1 }) ∧
      (20 ≤ w → ¬ near → after →
      ∃ t, exec (.tickInEdge w) s = .next t ∧ State.Notes { s with dev := { s.dev with tu :=
        { s.dev.tu with endNs := s.dev.now + s.dev.tu.cfg.period, locked := true, holdover := false } } } t))

/-- R24, R26, R351, R352: the PTP source follows its slave port; a lost one is holdover; a message of the slave port gives the
time, an unsecured one is dropped where MACsec is required; the pulse comes at the next whole second while locked. That
`TU_LOCKED` is 0 in holdover, that a lost port goes back to listening and that its election is outside, and how a pulse is kept
are the model's own choices (log entries 52, 53, 64); so is that an excursion outlasts a spell under another source (log entry
159). Rows: `ptpSlaveAcquired`, `ptpSlaveLost`, `ptpMessage`, `ppsOutPulse`. -/
def Obligations.PtpFollowsItsPort : Prop :=
  ∀ (s : State) (port : Nat),
    (port < 2 → (∃ l ∈ s.dev.portLinks port, (s.dev.net.links.getD l {}).up = true) →
      (exec (.ptpSlaveAcquired port) s = .next { s with dev :=
        let d := (s.dev.setPort (1 - port) (fun q => { q with ptp := if q.ptp == 3 then 4 else q.ptp })).setPort port
          (fun q => { q with ptp := 3 })
        { d with tu := { d.tu with slave := some port, everSlave := true
                                   holdover := if d.tu.cfg.source = 1 then false else d.tu.holdover } } }) ∧
      (∀ ns sec, s.dev.net.fab.macsecReq = true → sec = false →
        exec (.ptpMessage port ns sec) s = .next { s with dev := (s.dev.cnt 0x31 port 1).cnt 0x35 port 1 }) ∧
      (∀ ns sec, (s.dev.net.fab.macsecReq = false ∨ sec = true) → s.dev.tu.slave ≠ some port →
        exec (.ptpMessage port ns sec) s = .next { s with dev := s.dev.cnt 0x31 port 1 }) ∧
      (∀ ns sec, (s.dev.net.fab.macsecReq = false ∨ sec = true) → s.dev.tu.slave = some port → s.dev.tu.cfg.source ≠ 1 →
        exec (.ptpMessage port ns sec) s = .next { s with dev :=
          { s.dev.cnt 0x31 port 1 with tu := { s.dev.tu with ptpNs := ns, ptpAtNs := s.dev.now } } }) ∧
      (∀ ns sec, (s.dev.net.fab.macsecReq = false ∨ sec = true) → s.dev.tu.slave = some port → s.dev.tu.cfg.source = 1 →
        ∃ t, exec (.ptpMessage port ns sec) s = .next t ∧
          let u : TickUnit := { s.dev.tu with ptpNs := ns, ptpAtNs := s.dev.now }
          let o := u.gridOff u.cfg u.startNs
          State.Notes { s with dev := { s.dev with tu :=
            { u with offset := o, excursion := decide (100000 < o.natAbs), locked := decide (o.natAbs ≤ 1000), holdover := false } } } t)) ∧
    (s.dev.tu.slave = some port → ∃ t, exec (.ptpSlaveLost port) s = .next t ∧
      State.Notes { s with dev :=
        { s.dev.setPort port (fun q => { q with ptp := 1 }) with tu :=
          { s.dev.tu with slave := none, locked := if s.dev.tu.cfg.source = 1 then false else s.dev.tu.locked
                          holdover := if s.dev.tu.cfg.source = 1 then true else s.dev.tu.holdover } } } t) ∧
    (s.dev.ticking = true → s.dev.tu.cfg.source = 1 → s.dev.tu.locked = true → s.dev.tu.slave.isSome = true →
      let now := s.dev.now + (1000000000 - s.dev.tu.ptpAt s.dev.now % 1000000000) % 1000000000
      exec .ppsOutPulse s = .next { s with dev := { s.dev with now := now, tu := { s.dev.tu with ppsNs := some now } } })

/-- R33, R38, R446: the window closes at its end, once the trace drain has sent what waited, and the first slot begins. That the
drain and the first slot are one step is the model's own choice (log entry 62). Rows: `maintWindowEnd`. -/
def Obligations.WindowCloses : Prop :=
  ∀ (s : State), s.dev.ticking = true → s.dev.slots.window = true →
    let d := s.dev.drainAll
    let now := Nat.max d.now (s.dev.tu.startNs + s.dev.tu.cfg.maint)
    exec .maintWindowEnd s =
      .next { s with dev := ({ d with now := now, slots := { d.slots with window := false } }).beginSlot } ∧
    (s.dev.drainPacket = none → d = s.dev)

/-- R35, R37, R38, R41, R120: the next entry begins when its start has come and the slot before it lets it: idle where it cannot
run, with a swap first where another context is resident, else with the invocation at once, from the beginning or from where it
yielded. That the row closes a slot that lets it begin, and that yielded work resumes first, are the model's own choices (log
entries 62, 58). Rows: `slotBegin`. -/
def Obligations.SlotBegins : Prop :=
  ∀ (s : State), s.dev.slots.window = false → s.dev.slots.nxt < s.dev.slots.table.length → s.dev.slotFree = true →
    let i := s.dev.slots.nxt
    let e := s.dev.entryAt i
    let now := Nat.max s.dev.now s.dev.nextStart
    let endNs := if e.length = 0 then none else some (now + e.length)
    (s.dev.runnable e = false → ∃ t, exec .slotBegin s = .next t ∧
      State.Notes { s with dev := { s.dev with now := now, slots :=
        { s.dev.slots with nxt := i + 1, swapTo := 0, swapNs := now, cur := some { i := i, startNs := now, endNs := endNs } } } } t) ∧
    (s.dev.runnable e = true → s.dev.slots.resident ≠ e.owner → ∃ t, exec .slotBegin s = .next t ∧
      State.Notes { s with dev := { s.dev with now := now, slots :=
        { s.dev.slots with nxt := i + 1, swapTo := e.owner, swapNs := now
                           cur := some { i := i, startNs := now, endNs := endNs, idle := false, swapping := true } } } } t) ∧
    (s.dev.runnable e = true → s.dev.slots.resident = e.owner → ∃ t, exec .slotBegin s = .next t ∧ t = { s with dev := t.dev } ∧
      Dev.Slotted s.dev t.dev ∧ t.dev.now = now ∧ (t.dev.ctx e.owner).st = .running ∧
      t.dev.slots.cur = some { i := i, startNs := now, endNs := endNs, idle := false, own := !(s.dev.ctx e.owner).yielded } ∧
      ((s.dev.ctx e.owner).yielded = true → (t.dev.ctx e.owner).streams =
        (s.dev.ctx e.owner).streams.map (fun x => { x with yielded := false })) ∧
      ((s.dev.ctx e.owner).yielded = false → (t.dev.ctx e.owner).lastStart = s.dev.tu.tick ∧ (t.dev.ctx e.owner).entry = e.entry ∧
        (t.dev.ctx e.owner).pendBounds = [] ∧
        (t.dev.ctx e.owner).bounds = (s.dev.ctx e.owner).pendBounds.foldl (fun b w => b.set w.1 w.2) (s.dev.ctx e.owner).bounds ∧
        ∀ p k b, (s.dev.ctx e.owner).prog = some p → k < 32 → p.streams.getD (32 * e.entry + k) none = some b →
          (t.dev.ctx e.owner).streams.getD k {} = { pc := b, halted := false }))

/-- R34, R39, R40, R97, R120, R335: the swap makes the incoming context resident and its invocation runs; a slot that ends
before its invocation overruns, and yields where its entry says so; an invocation that has ended, or whose last stream yields,
leaves its context `READY` and the slot's rest to maintenance. What an overrun does with and without a yield, the leaving of a
context whose last stream yields, and when a yield is complete are the model's own readings (log entries 58, 59, 60). Rows:
`streamYield`, `swapComplete`, `slotEnd`, `invocationEnd`. -/
def Obligations.SlotProceeds : Prop :=
  ∀ (s : State),
    (∀ i r, s.dev.slots.swapTo = i → i ≠ 0 → s.dev.swapHeld = false → s.dev.slots.cur = some r → r.swapping = true →
      (s.dev.entryAt r.i).owner = i → s.dev.runnable (s.dev.entryAt r.i) = true →
      ∃ t, exec .swapComplete s = .next t ∧ t = { s with dev := t.dev } ∧ Dev.Slotted s.dev t.dev ∧
        t.dev.slots.resident = i ∧ t.dev.slots.swapTo = 0 ∧ (t.dev.ctx i).st = .running ∧
        t.dev.slots.cur = some { r with swapping := false, own := !(s.dev.ctx i).yielded }) ∧
    (∀ r at', s.dev.slots.cur = some r → r.endNs = some at' → r.idle = false → r.ended = false → r.overrun = false →
      (s.dev.ctx (s.dev.entryAt r.i).owner).streams.all (fun x => x.halted || x.yielded) = false →
      ∃ t, exec .slotEnd s = .next t ∧
        let e := s.dev.entryAt r.i
        State.Notes { s with dev := { s.dev with now := Nat.max s.dev.now at', slots :=
          { s.dev.slots with cur := some { r with overrun := true, yielding := e.rt && e.yield } } } } t) ∧
    (∀ i, s.dev.executing = i → i ≠ 0 → (s.dev.ctx i).st = .running → (s.dev.ctx i).streams.all (fun x => x.halted) = true →
      s.dev.mis.any (fun m => m.ctx == i) = false → s.dev.kcmds.any (fun p => p.2.ctx == i) = false →
      (∀ r, s.dev.slots.cur = some r → s.dev.slots.late ≠ i → r.own = false → r.yielding = false → (s.dev.ctx i).stopMode = none →
        (s.dev.ctx i).prog.isSome = true →
        ∃ t, exec .invocationEnd s = .next t ∧ t = { s with dev := t.dev } ∧ Dev.Slotted s.dev t.dev ∧
          t.dev.slots.cur = some { r with own := true } ∧ (t.dev.ctx i).st = .running ∧ (t.dev.ctx i).lastStart = s.dev.tu.tick) ∧
      (∀ r, s.dev.slots.cur = some r → s.dev.slots.late ≠ i → r.own = true → (s.dev.ctx i).stopMode = none →
        exec .invocationEnd s = .next { s with dev :=
          { s.dev.setCtx i (fun c => { c with st := .ready, yielded := false, unfinished := false }) with slots :=
            { s.dev.slots with cur := some { r with ended := true } } } }) ∧
      (s.dev.slots.late = i → (s.dev.ctx i).stopMode = none →
        exec .invocationEnd s = .next { s with dev :=
          { s.dev.setCtx i (fun c => { c with st := .ready, yielded := false, unfinished := false }) with slots :=
            { s.dev.slots with late := 0 } } }) ∧
      (∀ r m, s.dev.slots.cur = some r → s.dev.slots.late ≠ i → (s.dev.ctx i).stopMode = some m → m ≤ 1 →
        ∃ t, exec .invocationEnd s = .next t ∧ (t.dev.ctx i).st = .parked ∧ (t.dev.ctx i).stopMode = none ∧
          t.dev.slots.cur = some { r with ended := true })) ∧
    (∀ i st x, s.dev.executing = i → i ≠ 0 → (s.dev.ctx i).streams[st]? = some x → x.halted = false → x.yielded = false →
      x.hold ≠ .krb → s.dev.dealt i st = false → (s.dev.mustYield i = true ∨ (s.dev.cluster st).svc ≠ .inService) →
      let d := s.dev.setCtx i (fun c => { c with streams := c.streams.modify st (fun x => { x with yielded := true }) })
      ((∃ k y, k ≠ st ∧ (s.dev.ctx i).streams[k]? = some y ∧ y.halted = false ∧ y.yielded = false) →
        exec (.streamYield st) s = .next { s with dev := d }) ∧
      ((∀ k y, k ≠ st → (s.dev.ctx i).streams[k]? = some y → y.halted = true ∨ y.yielded = true) → s.dev.mustYield i = true →
        s.dev.mis.any (fun m => m.ctx == i && !Dev.letsYield m) = false → (s.dev.ctx i).stopMode = none →
        exec (.streamYield st) s = .next { s with dev :=
          { d.setCtx i (fun c => { c with st := .ready, yielded := true, unfinished := true }) with slots :=
            if s.dev.slots.late = i then { s.dev.slots with late := 0 }
            else { s.dev.slots with cur := s.dev.slots.cur.map (fun r => { r with ended := true }) } } }))

/-- R48, R49, R434: a due calibration step starts where maintenance time has room for it, or, once sixteen ticks have put it
off, at the first slot that gives way, which a slot with an owner reports; when it is done it clears the count. A context that
made no progress for `STALL_TICKS` is reported once. How progress clears the count of a stall is the model's own choice (log
entry 56). Rows: `calibrationStepStart`, `calibrationStepDone`, `calibrationForced`, `ctxStalled`. -/
def Obligations.CalibrationAndStalls : Prop :=
  ∀ (s : State) (k kind : Nat),
    (s.dev.calIsDue k kind = true → (s.dev.stack k).cal = none → (∃ e, s.dev.maintEnd = some e ∧ s.dev.now + Dev.calLength kind ≤ e) →
      exec (.calibrationStepStart k kind) s = .next { s with dev := s.dev.setStack k (fun x => { x with cal := some (kind, s.dev.now) }) }) ∧
    (∀ at', (s.dev.stack k).cal = some (kind, at') → kind < 2 →
      let d := ({ s.dev with now := Nat.max s.dev.now (at' + Dev.calLength kind) }).setStack k (fun x =>
        { x with cal := none, defer := 0, carry := false, calDue := x.calDue.erase kind
                 zqNs := if kind = 0 then at' - x.serviceNs else x.zqNs, trNs := if kind = 1 then at' - x.serviceNs else x.trNs })
      exec (.calibrationStepDone k) s = .next { s with dev := (d.endDecodes k).serveReady k } ∧
      ((d.stack k).locks.any (fun l => l.phase == 3) = false → d.endDecodes k = d) ∧ ((d.stack k).ready = [] → d.serveReady k = d)) ∧
    ((s.dev.stack k).carry = true → ∀ j, s.dev.intrusionAt k j kind = some 0) ∧
    (∀ r, s.dev.slots.cur = some r → s.dev.calIsDue k kind = true → (s.dev.stack k).cal = none → 16 ≤ (s.dev.stack k).defer →
      r.startNs = s.dev.now → s.dev.intrusionAt k r.i kind = some r.i → ∃ t, exec (.calibrationForced k kind) s = .next t ∧
        State.Notes { s with dev := s.dev.setStack k (fun x => { x with cal := some (kind, s.dev.now) }) } t ∧
        (r.idle = false → Dev.Raised [(s.dev.entryAt r.i).owner]
          { code := 0x8005, ctx := (s.dev.entryAt r.i).owner, kind := 5, unit := k, aux := kind }
          ((s.dev.setStack k (fun x => { x with cal := some (kind, s.dev.now) })).cnt 0x18 k 1) t.dev)) ∧
    (∀ i, (s.dev.ctx i).st ∈ [CtxState.ready, .running] → (s.dev.ctx i).stallTicks ≠ 0 →
      (s.dev.ctx i).stallTicks ≤ (s.dev.ctx i).stallCount → (s.dev.ctx i).stallRaised = false →
      ∃ t unit, exec (.ctxStalled i) s = .next t ∧ t = { s with dev := t.dev } ∧
        ((s.dev.ctx i).unfinished = false → unit = 0xFFFF) ∧
        (∀ k < 32, (s.dev.ctx i).unfinished = true → ((s.dev.ctx i).streams.getD k { halted := true }).halted = false →
          (∀ j < k, ((s.dev.ctx i).streams.getD j { halted := true }).halted = true) → unit = k) ∧
        Dev.Raised [i] { code := 0x8008, ctx := i, unit := unit, arg0 := (s.dev.ctx i).stallCount }
          (s.dev.setCtx i (fun c => { c with stallRaised := true })) t.dev)

/-- R51, R53, R73, R77, R91: a macro-instruction with tiles whose wait is met and whose operands and core set are sound is
dealt: it is in flight with its operands, each core of the set has its share, cores with nothing to do are done, and the stream
moves on; one whose walk is empty completes at once. Every row of `tileRows`: `matmul`, `attend`, `convDense`,
`convDepthwiseDiagonal`, `convSpaceToChannel`, `poolMax`, `poolAverage`, `poolChannelArgmax`, `vopCopyConvert`, `vopAdd`,
`vopSubtract`, `vopMultiply`, `vopFma`, `vopMax`, `vopMin`, `vopSelect`, `vopScaleOffset`, `vopAbsoluteValue`, `vopClamp`,
`vopRowSum`, `vopRowMax`, `vopRowMin`, `sfnReciprocal`, `sfnRsqrt`, `sfnSqrt`, `sfnExp2`, `sfnLog2`, `sfnSine`, `sfnCosine`,
`sfnSigmoid`, `sfnTanh`, `sfnSilu`, `sfnGelu`, `sfnLookup`, `normst`, `normap`, `rope`, `quant`, `moveCopy`, `moveMulticast`,
`pref`. That an empty walk completes at once (log entry 72), that a macro-instruction is dealt whole with its first prefetch
(74, 75), and how tiles hold for a halo (86) are the model's own choices. -/
def Obligations.TilesAreDealt : Prop :=
  ∀ (s : State) (st i : Nat) (x y : Stream) (row : Instr) (key : Nat × Nat) (raw : List Byte) (d e f : Dev) (m : InFlight) (pl : Plan),
    (row, key) ∈ tileRows st → s.dev.AtMi st i x key raw d → x.met = false → d.WaitMet st i raw e →
    (prepare i st raw).run.run e = (.ok (m, pl, .none), f) → (f.ctx i).streams[st]? = some y →
    ∃ (t : State) (u : Dev), exec row s = .next t ∧ t = { s with dev := u.moveOn i st 1 } ∧ u.streamOf i st = y ∧
      t.dev.mis = u.mis ∧ (y.loops = [] → (t.dev.streamOf i st).pc = y.pc + 64 ∧ (t.dev.streamOf i st).hold = .none) ∧
      (prodOf m.n = 0 → u.mis = f.mis) ∧
      (prodOf m.n ≠ 0 →
        let cs := coreset (f.progOf i) st m.raw
        let lo := (tileRange cs (prodOf m.n)).1
        let hi := (tileRange cs (prodOf m.n)).2
        let todo := shares m cs lo hi
        u.mis = f.mis ++ [{ m with
          id := f.fresh + 1, todo := todo, doneCores := (todo.filter (fun p => p.2.isEmpty)).map Prod.fst
          halo := if miOpc m.raw == 0x12 && m.f 36 2 != 0 then (todo.flatMap Prod.snd).filter (fun w => isHalo m lo hi (w / m.s))
            else [] }])

/-- R53, R58, R84, R90, R421: any macro-instruction held by its wait stays at the head of its stream; a malformed one, one that
cannot be read and one whose operands are not sound fault the context with their class. Every row of both lists. That a held
macro-instruction is kept as it was taken (log entry 66), that a malformed one faults before its wait is tested (67), and that
waits on one object go in their order (68) are the model's own choices. -/
def Obligations.IssueHoldsAndFaults : Prop :=
  ∀ (s : State) (st i : Nat) (x : Stream) (row : Instr) (key : Nat × Nat), (row, key) ∈ tileRows st ++ controlRows st →
    (∀ raw d, s.dev.AtMi st i x key raw d → x.met = false →
      (d.earlierWait i st d.fresh (waitObjs false raw) = true ∨ headerWait i raw d = none) →
      exec row s = .next { s with dev := (d.setCtx i (fun c => { c with streams := c.streams.modify st (fun x =>
        { x with hold := .wait, met := false, raw := raw, since := d.fresh }) })).bump }) ∧
    (∀ raw d, s.dev.atIssue st .none = some (i, x) → (fetchMi x.pc).run.run s.dev = (.ok raw, d) → holds (d.ctx i) = true →
      (miRow raw = none ∨ miRow raw = some key ∧
        (miOk (s.dev.progOf i) (s.dev.lutListed i) raw = false ∨ nestOk x raw = false)) →
      ∃ t, exec row s = .next t ∧ d.FaultsAt i { cls := some .illegal, stream := st, offset := d.miOff i st } t.dev) ∧
    (∀ cls info d, s.dev.atIssue st .none = some (i, x) → (fetchMi x.pc).run.run s.dev = (.error (.fault cls info), d) →
      holds (d.ctx i) = true →
      ∃ t, exec row s = .next t ∧ d.FaultsAt i { cls := some cls, stream := st, offset := d.miOff i st, info := info } t.dev) ∧
    (∀ raw d e f cls info, (row, key) ∈ tileRows st → s.dev.AtMi st i x key raw d → x.met = false → d.WaitMet st i raw e →
      (prepare i st raw).run.run e = (.error (.fault cls info), f) → holds (f.ctx i) = true →
      ∃ t, exec row s = .next t ∧ f.FaultsAt i { cls := some cls, stream := st, offset := f.miOff i st, info := info } t.dev)

/-- R65, R71, R91, R94, R473: `MOVE` `VAR` 3 writes its immediate to a bound register and signals as it issues; `VAR` 2 is in
flight from its issue, and as it completes writes the word that its address holds, signals and leaves. `SYNC` waits for the sums
of its objects and takes them where asked, adds to its objects, or sets them; then the header's signal, and the stream moves on.
The order of signal and completion of `SYNC` and the bound forms is the model's own choice (log entries 70, 72), and that `SYNC`
`VAR` 2 sets before its header's signal adds (log entry 161). Rows: `moveBoundLoad`, `moveBoundSet`, `syncWaitAll`, `syncAdd`,
`syncSet`, `miComplete`. -/
def Obligations.SyncAndBoundMoves : Prop :=
  ∀ (s : State) (st i : Nat) (x : Stream) (raw : List Byte) (d e : Dev), x.met = false → d.WaitMet st i raw e →
    (s.dev.AtMi st i x (0x30, 3) raw d → csOk (coreset (e.progOf i) st raw) = true →
      (e.setBound i (fld raw 13 1) (fld raw 28 4)).SignalFits i raw →
      ∃ u, exec (.moveBoundSet st) s = .next { s with dev := u.moveOn i st 1 } ∧
        Dev.Noted (((e.setBound i (fld raw 13 1) (fld raw 28 4)).signalled i raw).progressed i) u) ∧
    (s.dev.AtMi st i x (0x30, 2) raw d → csOk (coreset (e.progOf i) st raw) = true →
      ∃ u, exec (.moveBoundLoad st) s = .next { s with dev := u.moveOn i st 1 } ∧ Dev.Noted (({ e with
        fresh := e.fresh + 1
        mis := e.mis ++ [{ id := e.fresh + 1, ctx := i, st := st, off := e.miOff i st, raw := raw, marks := (e.streamOf i st).marks
                           issuedNs := e.now }] } : Dev).progressed i) u) ∧
    (∀ n m rest b f, (s.dev.mis.filter (fun m => m.st == st)).drop n = m :: rest → miRow m.raw = some (0x30, 2) → m.fenced = false →
      m.owes = false → (∀ p ∈ m.todo, p.2 = []) → holds (s.dev.ctx m.ctx) = true → m.f 13 1 < (s.dev.ctx m.ctx).bounds.length →
      (readCtl ((s.dev.progOf m.ctx).addr (m.f 20 6)) 4).run.run s.dev = (.ok b, f) →
      (sigMode m.raw = 0 ∨ f.objVal m.ctx (sigSo m.raw) + sigN m.raw ≤ 0xFFFFFFFF) →
      ∃ t, exec (.miComplete st n) s = .next t ∧ t = { s with dev := t.dev } ∧ t.dev.mis = f.mis.filter (fun x => x.id != m.id) ∧
        t.dev.boundVal m.ctx (m.f 13 1) = leNat b % 2 ^ 32 ∧
        t.dev.objVal m.ctx (sigSo m.raw) =
          f.objVal m.ctx (sigSo m.raw) + (if sigMode m.raw = 1 ∨ sigMode m.raw = 2 then sigN m.raw else 0)) ∧
    (s.dev.AtMi st i x (0x50, 0) raw d →
      e.earlierWait i st e.fresh ((syncNeed raw).map Prod.fst) = false → (∀ n ∈ syncNeed raw, n.2 ≤ e.objVal i n.1) →
      let f := if bit (fld raw 9 1) 0 then
          e.setCtx i (fun c => { c with objs := (syncNeed raw).foldl (fun o n =>
            aset o n.1 (((aget c.objs n.1).getD 0) - BitVec.ofNat 32 n.2)) c.objs })
        else e
      f.SignalFits i raw → ∃ u, exec (.syncWaitAll st) s = .next { s with dev := u.moveOn i st 1 } ∧
        Dev.Noted ((f.signalled i raw).progressed i) u) ∧
    (s.dev.AtMi st i x (0x50, 0) raw d → (∃ n ∈ syncNeed raw, e.objVal i n.1 < n.2) →
      exec (.syncWaitAll st) s = .next { s with dev := (e.setCtx i (fun c => { c with streams := c.streams.modify st (fun x =>
        { x with hold := .wait, met := true, raw := raw, since := e.fresh }) })).bump }) ∧
    (s.dev.AtMi st i x (0x50, 1) raw d → e.SumsFit i (syncEntries raw) → (e.added i (syncEntries raw)).SignalFits i raw →
      ∃ u, exec (.syncAdd st) s = .next { s with dev := u.moveOn i st 1 } ∧
        Dev.Noted (((e.added i (syncEntries raw)).signalled i raw).progressed i) u) ∧
    (s.dev.AtMi st i x (0x50, 2) raw d →
      let f := e.setCtx i (fun c => { c with objs := (syncEntries raw).foldl (fun o n => aset o n.1 (BitVec.ofNat 32 n.2)) c.objs })
      f.SignalFits i raw → ∃ u, exec (.syncSet st) s = .next { s with dev := u.moveOn i st 1 } ∧
        Dev.Noted ((f.signalled i raw).progressed i) u) ∧
    (∀ (d : Dev) (y : Stream) n, (d.ctx i).streams[st]? = some y → y.loops = [] →
      d.moveOn i st n = d.setStream i st (fun y => { y with pc := y.pc + 64 * n, hold := .none, met := false, raw := [] }))

/-- R95 to R99, R447: `LOOP` begins its body, passes it by where the count is 0, and faults above its maximum; `MARK` opens and
closes markers and moves on; `HALT` waits for what its stream has in flight, signals and ends its stream. At the end of a loop's
body the next iteration begins, with its index written, and after the last one the stream goes on behind it; the end of an outer
body may fall there too. When `HALT` issues (log entry 67), which loops are `ILLEGAL` (69), and that these complete as they
issue (72) are the model's own choices. Rows: `loopMi`, `markBegin`, `markEnd`, `markPoint`, `haltMi`. -/
def Obligations.LoopMarkHalt : Prop :=
  (∀ (s : State) (st i : Nat) (x : Stream) (raw : List Byte) (d e : Dev), x.met = false → d.WaitMet st i raw e → e.SignalFits i raw →
    (s.dev.AtMi st i x (0x51, 0) raw d →
      let count := if fld raw 10 1 = 1 then e.boundVal i (fld raw 11 1) else fld raw 12 4
      let l : LoopLevel :=
        { off := (e.streamOf i st).pc, body := fld raw 8 2, count := count, seen := 1
          idx := if bit (fld raw 20 1) 6 then some (fld raw 20 1 % 64) else none
          adv := (List.range (fld raw 21 1)).map (fun k => (fld raw (28 + 8 * k) 2 % 2 ^ 12, sgn 48 (fld raw (30 + 8 * k) 6))) }
      (fld raw 16 4 < count → holds (e.ctx i) = true → ∃ t, exec (.loopMi st) s = .next t ∧
        e.FaultsAt i { cls := some .shape, stream := st, offset := e.miOff i st } t.dev) ∧
      (count = 0 → ∃ u, exec (.loopMi st) s = .next { s with dev := u.moveOn i st (fld raw 8 2 + 1) } ∧
        Dev.Noted ((e.signalled i raw).progressed i) u) ∧
      (0 < count → count ≤ fld raw 16 4 → ∃ t, exec (.loopMi st) s = .next t ∧
        State.Notes { s with dev := (((e.signalled i raw).progressed i).setStream i st (fun x =>
          { x with pc := x.pc + 64, hold := .none, met := false, raw := [], loops := l :: x.loops })).writeIdx i l } t)) ∧
    (∀ row var, (row = .markBegin st ∧ var = 0 ∨ row = .markEnd st ∧ var = 1 ∨ row = .markPoint st ∧ var = 2) →
      s.dev.AtMi st i x (0x52, var) raw d →
      let old := (e.streamOf i st).marks
      let ms := match var with
        | 0 => if old.length < 8 then BitVec.ofNat 32 (fld raw 8 4) :: old else old
        | 1 => old.drop 1
        | _ => old
      ∃ u, exec row s = .next { s with dev := u.moveOn i st 1 } ∧
        Dev.Noted (((e.setStream i st (fun x => { x with marks := ms })).signalled i raw).progressed i) u) ∧
    (s.dev.AtMi st i x (0x5F, 0) raw d → ∃ t, exec (.haltMi st) s = .next t ∧
      State.Notes { s with dev := ((e.signalled i raw).progressed i).setStream i st (fun x =>
        { x with halted := true, hold := .none, met := false, raw := [] }) } t)) ∧
  (∀ (s : State) (st i : Nat) (x : Stream) (raw : List Byte) (d : Dev), s.dev.atIssue st .none = some (i, x) →
    (fetchMi x.pc).run.run s.dev = (.ok raw, d) → miRow raw = some (0x5F, 0) →
    miOk (s.dev.progOf i) (s.dev.lutListed i) raw = true → nestOk x raw = true →
    s.dev.mis.any (fun m => m.ctx == i && m.st == st) = true → exec (.haltMi st) s = .next s) ∧
  (∀ (d : Dev) (n i st : Nat) (x : Stream) (l : LoopLevel) (rest : List LoopLevel),
    (d.ctx i).streams[st]? = some x → x.loops = l :: rest →
    (x.pc ≠ l.off + 64 * (l.body + 1) → Dev.loopEnds (n + 1) i st d = d) ∧
    (x.pc = l.off + 64 * (l.body + 1) → l.iter + 1 < l.count →
      ((Dev.loopEnds (n + 1) i st d).ctx i).streams[st]? =
        some { x with pc := l.off + 64, loops := { l with iter := l.iter + 1, seen := l.seen + 1 } :: rest } ∧
      ∀ r, l.idx = some r → r < (d.ctx i).bounds.length →
        (Dev.loopEnds (n + 1) i st d).boundVal i r = (l.iter + 1) % 2 ^ 32) ∧
    (x.pc = l.off + 64 * (l.body + 1) → l.count ≤ l.iter + 1 →
      Dev.loopEnds (n + 1) i st d = Dev.loopEnds n i st (d.setStream i st (fun x => { x with loops := rest }))))

/-- R53, R90, R92, R97, R138, R139, R209, R274: a stream held at issue goes on, with its operands read then, once its hold has
ended: its wait met and none held earlier, the lookup bank or the table generation no longer in use. A `KRB` held within its
delivery goes on delivering. That what is held is kept as it was taken is the model's own reading (log entry 66). Rows:
`issueWaitSatisfied`, `lutReloadHoldRelease`, `ctabReloadHoldRelease`, `krbDeliveryResume`. -/
def Obligations.HoldsAreReleased : Prop :=
  ∀ (s : State) (st i : Nat) (x : Stream),
    (∀ e, s.dev.atIssue st .wait = some (i, x) → x.met = false → s.dev.earlierWait i st x.since (waitObjs false x.raw) = false →
      (miOpc x.raw = 0x5F → s.dev.mis.any (fun m => m.ctx == i && m.st == st) = false) → headerWait i x.raw s.dev = some e →
      (e.anyBody i st x.raw).streamOf i st ≠ { x with since := ((e.anyBody i st x.raw).streamOf i st).since } →
      exec (.issueWaitSatisfied st) s = .next { s with dev := e.anyBody i st x.raw }) ∧
    (∀ row h, (row = .issueWaitSatisfied st ∧ h = Hold.wait ∧ s.dev.earlierWait i st x.since (waitObjs true x.raw) = false
          ∨ row = .lutReloadHoldRelease st ∧ h = Hold.lut ∨ row = .ctabReloadHoldRelease st ∧ st < 32 ∧ h = Hold.ctab) →
      s.dev.atIssue st h = some (i, x) → x.met = true →
      (miOpc x.raw = 0x5F → s.dev.mis.any (fun m => m.ctx == i && m.st == st) = false) →
      (s.dev.anyBody i st x.raw).streamOf i st ≠ { x with since := ((s.dev.anyBody i st x.raw).streamOf i st).since } →
      exec row s = .next { s with dev := s.dev.anyBody i st x.raw }) ∧
    (∀ k e c d, (s.dev.running k 1) = some (e, c) → e.held = 1 → e.stopped = false → s.dev.survWrite k c = some d →
      exec (.ctabReloadHoldRelease (32 + k)) s = .next { s with dev := d }) ∧
    (∀ m, s.dev.executing = i → i ≠ 0 → (s.dev.ctx i).st = .running → (s.dev.streamOf i st).hold = .krb → st < 32 →
      s.dev.mis.find? (fun m => m.ctx == i && m.st == st && !m.kleft.isEmpty) = some m →
      exec (.krbDeliveryResume st) s = .next { s with dev := s.dev.deliverOn i st m.id })

/-- R132 to R139, R159: a `KRB` whose engines are ready and claimed and whose commands are sound is in flight with them; it
delivers them in list order to the engines they name while every claim has room, and moves its stream on with the last. One
whose engine is out of service, unclaimed or lost, or with an unsound command, faults. A command delivered goes to the end of
the queue of every engine named that is not disabled, in its lane; one without room under the context's claim holds the
delivery. `FCMD` 0 and `FINFO` the `LIST` address of a fault of the list are the model's own reading (log entry 95), as is what
a disabled engine takes (log entry 162). Rows: `krb`. -/
def Obligations.KrbDelivers : Prop :=
  (∀ (s : State) (st i : Nat) (x : Stream) (raw : List Byte) (d e : Dev), x.met = false → s.dev.AtMi st i x (0x40, 0) raw d →
    d.WaitMet st i raw e →
    let engs := (List.range 8).filter (bit (fld raw 8 1))
    let list := (e.progOf i).addr (fld raw 16 8)
    ((∃ k ∈ engs, e.engineReady k = false ∨ nth (e.progOf i).kqEntries k < fld raw 10 2) → holds (e.ctx i) = true →
      ∃ t, exec (.krb st) s = .next t ∧ e.FaultsAt i { cls := some .kerb, stream := st, offset := e.miOff i st, info := list } t.dev) ∧
    (∀ k cls info f, (∀ k ∈ engs, e.engineReady k = true ∧ fld raw 10 2 ≤ nth (e.progOf i).kqEntries k) →
      e.readKrb i st raw = (.error (k, cls, info), f) → holds (f.ctx i) = true →
      ∃ t, exec (.krb st) s = .next t ∧
        f.FaultsAt i { cls := some cls, stream := st, cmd := k, offset := f.miOff i st, info := info } t.dev) ∧
    (∀ cs f, (∀ k ∈ engs, e.engineReady k = true ∧ fld raw 10 2 ≤ nth (e.progOf i).kqEntries k) →
      e.readKrb i st raw = (.ok cs, f) →
      let ids := (List.range cs.length).map (fun k => f.fresh + 1 + 1 + k)
      let m : InFlight := { id := f.fresh + 1, ctx := i, st := st, off := f.miOff i st, raw := raw, marks := (f.streamOf i st).marks
                            issuedNs := f.now, kcmds := ids, kleft := ids }
      let g : Dev := { f with
        fresh := f.fresh + 1 + cs.length, mis := f.mis ++ [m]
        kcmds := (ids.zip cs).foldl (fun l y => aset l y.1 { y.2 with id := y.1, mi := f.fresh + 1, st := st, off := f.miOff i st }) f.kcmds }
      ∃ t u, exec (.krb st) s = .next t ∧ t = { s with dev := u.deliverOn i st (f.fresh + 1) } ∧ Dev.Noted (g.progressed i) u)) ∧
  (∀ (d : Dev) (n mi id : Nat) (m : InFlight) (rest : List Nat) (c : KCmd),
    d.mis.find? (fun m => m.id == mi) = some m → m.kleft = id :: rest → aget d.kcmds id = some c →
    ((∃ s ∈ c.engs, nth (d.progOf m.ctx).kqEntries s ≤ d.entriesOf m.ctx s) → Dev.deliver (n + 1) mi d = d) ∧
    ((∀ s ∈ c.engs, d.entriesOf m.ctx s < nth (d.progOf m.ctx).kqEntries s) →
      Dev.deliver (n + 1) mi d = Dev.deliver n mi ((d.deliverCmd id c).setMi mi (fun x => { x with kleft := rest })) ∧
      ∀ s < d.kerb.length, (d.deliverCmd id c).eng s =
        if s ∈ c.engs ∧ (d.eng s).svc ≠ .disabled then { d.eng s with queue := (d.eng s).queue ++ [{ cmd := id, lane := kLane c.kop }] }
        else d.eng s))

/-- R51, R84, R91, R109, R116, R127, R165, R180, R193, R195, R256, R264: a core does its earliest item: the item leaves the
share, whose last one under mode 2 writes its partial lines and signals, unless the completion is still to do more; where
nothing is left to fetch ahead memory and the Squares stand as the item left them. A fault found in it, or an overflow of its
tile, faults the context. While its context does not run, while the item waits on a halo, and while the cap holds matrix tiles
back, it does nothing; a core without an item does nothing. What an item stores lies within the runs of its outputs, computed
from the tile's rows. An item of the element-wise rows of `VOP` and `SFN` reads its sources' values at each element, applies the
operation, and stores the results as segments of the destination. A store to a core's own memory changes the bytes of the store
and none other, and a fetch reads them; each format's numbers decode and encode back; rounding to nearest takes the nearer and
the even one of two; the special functions take R193's and R195's values at their special operands; an LZP block that was
encoded decodes to what it held. One item a row with its prefetch (log entries 74, 75), the halo (86), the cap's hold (141) and
the last signal left to the completion where that does more (171) are the model's own choices. Rows: `tileComplete`. -/
def Obligations.CoresWorkTheirItems : Prop :=
  ∀ (s : State) (core : Nat) (ups : List (Nat × Nat)),
    (s.dev.nextItem core = none → exec (.tileComplete core ups) s = .next s) ∧
    ∀ m w, s.dev.nextItem core = some (m, w) →
    let d := ups.foldl Dev.upset s.dev
    ((d.ctx m.ctx).st ≠ .tearingDown → (d.executing ≠ m.ctx ∨ (d.ctx m.ctx).st ≠ .running ∨ w ∈ m.halo ∨
        (d.power.hold = true ∧ miOpc m.raw ∈ [0x10, 0x11, 0x12])) →
      exec (.tileComplete core ups) s = .next { s with dev := d }) ∧
    (d.executing = m.ctx → (d.ctx m.ctx).st = .running → w ∉ m.halo → (d.power.hold = false ∨ miOpc m.raw ∉ [0x10, 0x11, 0x12]) →
      (tileOver d m (w / m.s) = true → ∃ t, exec (.tileComplete core ups) s = .next t ∧
        d.FaultsAt m.ctx { cls := some .overflow, stream := m.st, offset := m.off, info := d.faultTile m } t.dev) ∧
      (tileOver d m (w / m.s) = false →
        (∀ cls info ts, (ExceptT.run (T.item m (w / m.s) (w % m.s))).run { d := d, core := core + 1 } = (.error (.fault cls info), ts) →
          Dev.holds (ts.d.ctx m.ctx) = true →
          ∃ t, exec (.tileComplete core ups) s = .next t ∧
            ts.d.FaultsAt m.ctx { cls := some cls, stream := m.st, offset := m.off, info := info } t.dev) ∧
        (∀ ts, (ExceptT.run (T.item m (w / m.s) (w % m.s))).run { d := d, core := core + 1 } = (.ok (), ts) →
          let left := ((m.todo.find? (fun p => p.1 == core)).map (fun p => p.2.drop 1)).getD []
          let last : Bool := m.todo.all (fun p => p.1 == core || p.2.isEmpty)
          ∃ t, exec (.tileComplete core ups) s = .next t ∧ t = { s with dev := t.dev } ∧
            (left.length ≤ 1 → (left = [] → sigMode m.raw = 2 → last = true) → t.dev.mem = ts.d.mem ∧ t.dev.sq = ts.d.sq) ∧
            (left.length ≤ 1 → ts.d.mustYield m.ctx = false → ∃ u : Dev,
              u = { ts.d with mis := u.mis, ctr := u.ctr, fresh := u.fresh, trace := { ts.d.trace with core := u.trace.core, meter := [] } } ∧
              t.dev = if left = [] ∧ sigMode m.raw = 2 ∧ last = false
                then (u.drainUser m.id).signal m.ctx (sigSo m.raw) (sigN m.raw) false m.st 0 m.off 0 else u) ∧
            (left = [] → sigMode m.raw = 2 → last = false → Dev.holds (ts.d.ctx m.ctx) = true →
              ts.d.objVal m.ctx (sigSo m.raw) + sigN m.raw ≤ 0xFFFFFFFF →
              t.dev.objVal m.ctx (sigSo m.raw) = ts.d.objVal m.ctx (sigSo m.raw) + sigN m.raw) ∧
            ∀ y ∈ t.dev.mis, y.id = m.id → (left = [] → sigMode m.raw = 2 → last = true → y.owes = true) ∧
              ∃ z ∈ ts.d.mis, z.id = m.id ∧ y.todo = z.todo.map (fun p => if p.1 = core then (p.1, left) else p)))) ∧
    (∀ (m : InFlight) (q k : Nat) (a b : TileSt), (ExceptT.run (T.item m q k)).run a = (.ok (), b) →
      (m.Whole q → Dev.Worked (Within (tileRuns m q)) a.d b.d) ∧
      ∀ (srcs : List Tensor) (fn : List FV → FV) (sr : Bool) (salt : Nat) (und : Nat → Bool),
        ((miOpc m.raw = 0x20 ∧ m.f 16 1 < 0x10 ∧ srcs = vopSrcs m ∧ (∀ x ∈ srcs, x.dtype ≠ .ov4o) ∧
            fn = T.vopFn (m.f 16 1) (f32n (m.f 20 4)) (f32n (m.f 24 4)) ∧ sr = (m.f 17 1 == 1) ∧ salt = m.f 28 4 ∧
            und = T.und (m.ten 8) (srcs.filter (fun x => !T.sameMem (m.ten 8) x))) ∨
         (miOpc m.raw = 0x21 ∧ m.f 12 1 < 11 ∧ srcs = [m.ten 10] ∧ sr = false ∧ salt = 0 ∧ und = (fun _ => false) ∧
            fn = fun v => sfnFunc (if bit (miVar m.raw) 0 then .compat else .native) (m.f 12 1) (Lut.ofBytes [])
              (mulr32 (v.getD 0 .nan) (f32n (m.f 16 4))))) →
        let d := m.ten 8
        let n := T.span m d q 0
        ∃ (e : Dev) (rows : List (List FV)), a.d.OnlyRead e ∧ rows.length = (T.rowsOf m d q).length ∧
          (∀ c r, (c, r) ∈ (T.rowsOf m d q).zip rows → ∃ (x y : TileSt) (vs : List (List FV)), a.d.OnlyRead x.d ∧
            (ExceptT.run (srcs.mapM (fun s => T.bcVals m s d c n.1 n.2))).run x = (.ok vs, y) ∧
            r = (List.range (n.2 - n.1)).map (fun j => fn (vs.map (fun v => v.getD j .nan)))) ∧
          b.d = ((T.rowsOf m d q).zip rows).foldl (fun f x => f.storeSeg
            { ctx := m.ctx, user := m.id, acc := { alloc := true, chint := d.chint, cls := 0, core := a.core }, sr := sr,
              seed := ((e.ctx m.ctx).prog.getD {}).srSeed, salt := BitVec.ofNat 32 salt, tabs := m.tabs, und := und } d x.1 n.1 x.2) e) ∧
    (∀ (d : Dev) (acc : Access) (user a : Nat) (bs : List Byte), d.Local a bs.length →
      let t := d.store acc user a bs (fun _ => false)
      t.sq = d.sq ∧ (∀ x, t.mem.byte x = if a ≤ x ∧ x < a + bs.length then bs.getD (x - a) 0 else d.mem.byte x) ∧
      (d.fetch acc a bs.length).1.1 = (List.range bs.length).map (fun i => d.mem.byte (a + i)) ∧
      (d.fetch acc a bs.length).2.mem = d.mem ∧ (d.fetch acc a bs.length).2.sq = d.sq) ∧
    (∀ f ∈ [Fmt.fp32, .bf16, .fp16, .e5m2, .e4m3, .e3m2, .e2m3, .e2m1], ∀ c < 2 ^ (1 + f.eb + f.mb),
      (f.decode c).isNan = false → f.encode .ne (f.decode c) = c) ∧
    (∀ (m k : Nat) (p : Int), 2 * (((roundGrid .ne m (p - k) p * 2 ^ k : Nat) : Int) - m).natAbs ≤ 2 ^ k ∧
      (2 * (((roundGrid .ne m (p - k) p * 2 ^ k : Nat) : Int) - m).natAbs = 2 ^ k → roundGrid .ne m (p - k) p % 2 = 0)) ∧
    (∀ p lut, (List.range 11).map (fun f => [FV.nan, .inf true, f32n 0x80000000, f32n 0, .inf false].map (fun x => f32bits (sfnFunc p f lut x))) =
      [[0x7FC00000, 0x80000000, 0xFF800000, 0x7F800000, 0], [0x7FC00000, 0x7FC00000, 0xFF800000, 0x7F800000, 0],
       [0x7FC00000, 0x7FC00000, 0x80000000, 0, 0x7F800000], [0x7FC00000, 0, 0x3F800000, 0x3F800000, 0x7F800000],
       [0x7FC00000, 0x7FC00000, 0xFF800000, 0xFF800000, 0x7F800000], [0x7FC00000, 0x7FC00000, 0x80000000, 0, 0x7FC00000],
       [0x7FC00000, 0x7FC00000, 0x3F800000, 0x3F800000, 0x7FC00000], [0x7FC00000, 0, 0x3F000000, 0x3F000000, 0x3F800000],
       [0x7FC00000, 0xBF800000, 0x80000000, 0, 0x3F800000], [0x7FC00000, 0x80000000, 0x80000000, 0, 0x7F800000],
       [0x7FC00000, 0x80000000, 0x80000000, 0, 0x7F800000]]) ∧
    ∀ (bank : List Byte) (w : Nat) (bs out : List Byte), bankKind bank = 3 → bankOk bank = true → 0 < w → w ≤ fld bank 1 1 →
      lzpEncode bank w bs = (out, false) → lzpDecode bank w bs.length out = some bs

/-- R51, R91, R111, R116, R256: a halo tile is released once the objects it waits on have reached their count; a
macro-instruction whose items are all done completes: its entries of the write-combining buffer drain, the blocks it has dropped
are written back, its signal is applied and it leaves. How halo tiles are released, and what is done at the completion, are the
model's own choices (log entries 86, 152). Rows: `haloWaitSatisfied`, `miComplete`. -/
def Obligations.HaloAndCompletion : Prop :=
  ∀ (s : State),
    (∀ core m w, s.dev.nextItem core = some (m, w) → w ∈ m.halo → s.dev.haloMet m w = true → (s.dev.ctx m.ctx).st = .running →
      let d := s.dev.setMi m.id (fun x => { x with halo := x.halo.erase w })
      exec (.haloWaitSatisfied core) s = .next { s with dev := d.addCounts m core (fun ev => if ev == 0x0E then none else some 0) } ∧
      (s.dev.trace.cfg.cores = false → exec (.haloWaitSatisfied core) s = .next { s with dev := d })) ∧
    (∀ st n m rest, (s.dev.mis.filter (fun m => m.st == st)).drop n = m :: rest → miOpc m.raw ≠ 0x40 →
      miRow m.raw ≠ some (0x30, 2) → m.fenced = false →
      (∀ p ∈ m.todo, p.2 = []) → Dev.holds (s.dev.ctx m.ctx) = true →
      let d := ((s.dev.drainUser m.id).flushDrop m.drop).reloadLut m
      (∀ cls info f, (reloadMove m).run.run d = (.error (.fault cls info), f) → Dev.holds (f.ctx m.ctx) = true →
        ∃ t, exec (.miComplete st n) s = .next t ∧
          f.FaultsAt m.ctx { cls := some cls, stream := m.st, offset := m.off, info := info } t.dev) ∧
      (∀ f, (reloadMove m).run.run d = (.ok (), f) → ∃ t, exec (.miComplete st n) s = .next t ∧ t = { s with dev := t.dev } ∧
        t.dev.mis = f.mis.filter (fun x => x.id != m.id) ∧
        ((sigMode m.raw = 1 ∨ m.owes = true) → ∀ v, f.objVal m.ctx (sigSo m.raw) = v → v + sigN m.raw ≤ 0xFFFFFFFF →
          Dev.holds (f.ctx m.ctx) = true → t.dev.objVal m.ctx (sigSo m.raw) = v + sigN m.raw)))


/-- R90: consume waits for the value and subtracts in the same operation as the test; observe waits and takes nothing; zero
waits for zero. Until its condition is met, any macro-instruction is held at issue. -/
def Obligations.WaitModes : Prop :=
  (∀ (s : State) (st i : Nat) (x : Stream) (row : Instr) (key : Nat × Nat) (raw : List Byte) (d : Dev),
    (row, key) ∈ tileRows st ++ controlRows st → s.dev.AtMi st i x key raw d → x.met = false → headerWait i raw d = none →
    exec row s = .next { s with dev := (d.setCtx i (fun c => { c with streams := c.streams.modify st (fun x =>
      { x with hold := .wait, met := false, raw := raw, since := d.fresh }) })).bump }) ∧
  ∀ (d : Dev) (i : Nat) (raw : List Byte),
    (waitMode raw = 1 → waitN raw ≤ d.objVal i (waitSo raw) → ∃ e, headerWait i raw d = some e ∧
      (1 ≤ i → i ≤ d.ctxs.length → e.objVal i (waitSo raw) = d.objVal i (waitSo raw) - waitN raw) ∧
      (∀ o, o ≠ waitSo raw → e.objVal i o = d.objVal i o) ∧ e = d.setCtx i (fun c => { c with objs := (e.ctx i).objs })) ∧
    (waitMode raw = 2 → waitN raw ≤ d.objVal i (waitSo raw) → headerWait i raw d = some d) ∧
    (waitMode raw = 3 → d.objVal i (waitSo raw) = 0 → headerWait i raw d = some d) ∧
    ((waitMode raw = 1 ∨ waitMode raw = 2) → d.objVal i (waitSo raw) < waitN raw → headerWait i raw d = none) ∧
    (waitMode raw = 3 → d.objVal i (waitSo raw) ≠ 0 → headerWait i raw d = none)

/-- R139, R140, R143, R147, R149, R151 to R155, R160: the command that an engine may start next runs there and is recorded: the
cache is cleaned, the Kerb buffer loaded, and the first items of its share worked, which it counts with their result; an engine
without a share works nothing; a fault found faults the context. What the items of a command store lies within the rows that
`KGATH`'s entries select, or the runs of its items; a store writes its bytes and none other. Every row of `kerbRows`: `kscan`,
`kredStatistics`, `kredCombine`, `kredOrderedSum`, `kredOrderedMax`, `kstream`, `kgathGather`, `kgathScatter`, `kgathTransform`,
`kgathFill`, `ksurv`. That the row that starts a command works its first items, and counts them with the result, is the model's
own choice (log entry 88). -/
def Obligations.KerbCommandsStart : Prop :=
  (∀ (c : KCmd) (k : Nat) (q : KEntry) (l : List Nat) (e f : Dev) (n r : Nat), kshapeOk c = true →
    (∀ t ∈ c.tens.filterMap id, t.e 0 ≤ t.a 0) → (kBody c k q l).run.run e = (.ok (n, r), f) →
    Dev.Worked (fun a len =>
      if c.kop = 4 ∧ c.kvar ≠ 2 ∧ c.kvar ≠ 3 then
        let sel := c.f 18 1
        ∃ x, (c.kvar = 0 → x ∈ l) ∧ (c.kvar ≠ 0 → x < (c.ten 0).e sel) ∧
          Within ((sliceRows (c.ten 0) sel x).flatMap (fun r => storedRuns (c.ten 0) r 0 ((c.ten 0).e 0))) a len
      else ∃ j ∈ l, Within (e.itemRuns c j) a len) e f) ∧
  (∀ (d : Dev) (cls a : Nat) (bs : List Byte), d.Local a bs.length →
    let t := d.kerbStore cls a bs (fun _ => false)
    t.sq = d.sq ∧ ∀ x, t.mem.byte x = if a ≤ x ∧ x < a + bs.length then bs.getD (x - a) 0 else d.mem.byte x) ∧
  ∀ (s : State) (k : Nat) (bufErr : Bool) (row : Instr) (sel : KCmd → Bool) (q : KEntry) (c : KCmd),
    (row, sel) ∈ kerbRows k bufErr → s.dev.startable k = some (q, c) →
    (sel c = false → exec row s = .next s) ∧
    (sel c = true →
      let d := (s.dev.setEntry k q.cmd (fun x => { x with running := true })).kerbRec 0x20 k c
      (c.share k = [] → c.owned = false → exec row s = .next { s with dev := d }) ∧
      ((c.share k ≠ [] ∨ c.owned = true) →
        (∀ ld e, (kLoad c k).run.run (d.cleanFor c) = (.ok ld, e) →
          let q' := q.started c k ld bufErr (Config.freeNat e.fresh)
          let e := (e.bump.setEntry k q.cmd (fun _ => q')).setKcmd q.cmd (fun x => { x with result := (x.result + ld.count) % 2 ^ 32 })
          let l := q'.next c k (Dev.stepItems c q')
          (∀ n r f, (kBody c k q' l).run.run e = (.ok (n, r), f) →
            let g := (f.setEntry k q.cmd (fun x => { x with
              items := x.items + n, fill := x.fill.drop l.length, fillBad := x.fillBad && x.fill.length != l.length })).setKcmd q.cmd
                (fun x => { x with result := if c.kop == 1 then Nat.max x.result r else (x.result + r) % 2 ^ 32 })
            exec row s = .next { s with dev := g }) ∧
          (∀ cls info f, (kBody c k q' l).run.run e = (.error (.fault cls info), f) → c.ctx ≠ 0 → Dev.holds (f.ctx c.ctx) = true →
            ∃ t, exec row s = .next t ∧ f.FaultsAt c.ctx
              { cls := some cls, stream := 0xFF, cmd := k, offset := c.off, info := if cls = .kerb then c.addr else info } t.dev)) ∧
        (∀ cls info f, (kLoad c k).run.run (d.cleanFor c) = (.error (.fault cls info), f) → c.ctx ≠ 0 → Dev.holds (f.ctx c.ctx) = true →
          ∃ t, exec row s = .next t ∧ f.FaultsAt c.ctx
            { cls := some cls, stream := 0xFF, cmd := k, offset := c.off, info := if cls = .kerb then c.addr else info } t.dev)))

/-- R91, R139, R143 to R147, R155, R161: an engine signals the progress it owes and works the items up to the next; a stopped
command leaves its lane; what is left of a share without progress signals is worked; a command that ends in an engine leaves its
queue, signals there under mode 2, and in its last engine writes its bound register, signals, and leaves, with its `KRB` when it
was the last of it. That progress is worked up to the next owed signal, and the rest of a share at its completion, is the
model's own choice (log entry 88). Rows: `kerbProgress`, `kerbEngineComplete`, `kerbCommandStop`. -/
def Obligations.KerbEnginesFinish : Prop :=
  ∀ (s : State) (k lane : Nat) (q : KEntry) (c : KCmd), s.dev.running k lane = some (q, c) →
    (q.stopped = true → exec (.kerbCommandStop k lane) s = .next { s with dev := s.dev.dropEntry k q.cmd }) ∧
    (q.stopped = false → c.kop ∉ [6, 7] → q.sent < progressDue k c q → Dev.holds (s.dev.ctx c.ctx) = true →
      let o := c.f 8 2 % 2 ^ 14 + rankOf c k
      let g := (s.dev.setEntry k q.cmd (fun x => { x with sent := x.sent + 1 })).setCtx c.ctx (fun x =>
        { x with objs := aset x.objs o (BitVec.ofNat 32 (s.dev.objVal c.ctx o + 1)) })
      s.dev.objVal c.ctx o + 1 ≤ 0xFFFFFFFF →
        (Dev.shareDone k q c = true → exec (.kerbProgress k lane) s = .next { s with dev := g }) ∧
        (∀ n r f, Dev.shareDone k q c = false → (kBody c k q (q.next c k (Dev.stepItems c q))).run.run g = (.ok (n, r), f) →
          exec (.kerbProgress k lane) s = .next { s with dev := f.worked k q c (q.next c k (Dev.stepItems c q)) n r })) ∧
    (q.stopped = false → c.kop ∉ [6, 7] → progressDue k c q ≤ q.sent → (c.ctx = 0 ∨ Dev.holds (s.dev.ctx c.ctx) = true) →
      (Dev.shareDone k q c = true → exec (.kerbProgress k lane) s = .next s) ∧
      (∀ n r f, Dev.shareDone k q c = false → (kBody c k q (q.next c k (Dev.stepItems c q))).run.run s.dev = (.ok (n, r), f) →
        exec (.kerbProgress k lane) s = .next { s with dev := f.worked k q c (q.next c k (Dev.stepItems c q)) n r })) ∧
    (∀ (d : Dev) l n r, d.worked k q c l n r = (d.setEntry k q.cmd (fun x => { x with
        items := x.items + n, fill := x.fill.drop l.length, fillBad := x.fillBad && x.fill.length != l.length })).setKcmd q.cmd
          (fun x => { x with result := if c.kop == 1 then Nat.max x.result r else (x.result + r) % 2 ^ 32 })) ∧
    (∀ n r f, c.kop ∉ [6, 7] → q.stopped = false → Dev.shareDone k q c = false → c.chunk = 0 →
      let l := q.next c k (if c.fills then q.fill.length else (c.share k).length - q.items)
      (kBody c k q l).run.run s.dev = (.ok (n, r), f) →
      let g := f.worked k q c l n r
      ∀ q' c', g.running k lane = some (q', c') → Dev.shareDone k q' c' = true → c'.kop = c.kop →
        exec (.kerbEngineComplete k lane) s = exec (.kerbEngineComplete k lane) { s with dev := g }) ∧
    (c.kop ≠ 5 → s.dev.survReady k q c = (s.dev, true)) ∧
    (∀ d, c.kop ∉ [6, 7] → q.stopped = false → Dev.shareDone k q c = true → q.sent = progressDue k c q →
      s.dev.survReady k q c = (d, true) →
      let mode := c.f 4 2 / 2 ^ 14
      let o := c.f 4 2 % 2 ^ 14
      let v := d.objVal c.ctx o + c.f 6 2
      (c.left.erase k ≠ [] → (mode = 2 → Dev.holds (d.ctx c.ctx) = true ∧ v ≤ 0xFFFFFFFF) →
        let g := (((d.dropEntry k q.cmd).setEng k (fun x => { x with done := x.done + 1 })).bump).setKcmd q.cmd (fun x =>
          { x with left := c.left.erase k })
        ∃ u : Dev, exec (.kerbEngineComplete k lane) s = .next { s with dev := u.collAll } ∧
          Dev.Noted (if mode = 2 then g.setCtx c.ctx (fun x => { x with objs := aset x.objs o (BitVec.ofNat 32 v) }) else g) u) ∧
      (c.left.erase k = [] → ∃ u : Dev, exec (.kerbEngineComplete k lane) s = .next { s with dev := u.collAll } ∧
        aget u.kcmds c.id = none ∧
        (∀ m, d.mis.find? (fun m => m.id == c.mi) = some m → m.kcmds.erase c.id = [] → ∀ x ∈ u.mis, x.id ≠ c.mi) ∧
        (bit (c.f 3 1) 7 = true → Dev.holds (d.ctx c.ctx) = true → c.f 3 1 % 64 < (d.ctx c.ctx).bounds.length →
          u.boundVal c.ctx (c.f 3 1 % 64) =
            (if bit (c.f 3 1) 6 then Nat.max (d.boundVal c.ctx (c.f 3 1 % 64)) c.result else c.result) % 2 ^ 32) ∧
        (mode ≠ 0 → Dev.holds (d.ctx c.ctx) = true → v ≤ 0xFFFFFFFF → (∀ m ∈ d.mis, m.id = c.mi → m.kcmds.erase c.id ≠ []) →
          u.objVal c.ctx o = v)))

/-- R47, R156, R307 to R309, R446: an engine free in maintenance time takes a range scrub, else the patrol's pages, and a
traffic test; none starts outside it. In maintenance time it completes, which the engine counts. A stop ends the item in hand:
the pages of a patrol advance it, and those of a range scrub are read, counted and leave its engine where none is left. A sound
page scrubbed keeps its bytes and corrects none. A stop of the trace drain lets it send its packets. A range scrub before the
patrol, one step for its pages and how a stop counts them are the model's own choices (log entries 106, 107). Rows: `kscrub`,
`ktraf`, `kerbEngineComplete`, `backgroundStop`. -/
def Obligations.KerbBackground : Prop :=
  ∀ (s : State) (k : Nat) (bad : List Nat),
    (s.dev.maintTime = false → exec (.kscrub k) s = .next s ∧ exec (.ktraf k bad) s = .next s) ∧
    (s.dev.backgroundFree k = true →
      (∀ j, s.dev.scrub.find? (fun j => !j.test && j.left.contains k) = some j →
        let p := (aget j.pos k).getD 0
        let c : KCmd := { raw := scrubRaw j.rewrite (j.addr + 1024 * p) (j.count - p), samples := j.order + 1 }
        exec (.kscrub k) s = .next { s with dev := s.dev.startBackground k c (j.count - p) }) ∧
      (s.dev.scrub.find? (fun j => !j.test && j.left.contains k) = none →
        let e := s.dev.eng k
        let n := Nat.min (Nat.min (e.patrol - e.patrolDone) (2 ^ 24)) (s.dev.perStack / 1024 - e.patrolPos)
        let c : KCmd := { raw := scrubRaw e.patrolRewrite (svBase k + 1024 * e.patrolPos) n }
        n ≠ 0 → exec (.kscrub k) s = .next { s with dev := s.dev.startBackground k c n }) ∧
      (∀ j, s.dev.scrub.find? (fun j => j.test && j.left.contains k) = some j →
        let p := (aget j.pos k).getD 0
        let c : KCmd := { raw := trafRaw j (j.addr + 64 * p) (j.count - p), samples := j.order + 1, hist := bad }
        exec (.ktraf k bad) s = .next { s with dev := s.dev.startBackground k c (j.count - p) })) ∧
    (∀ q c n, s.dev.background k = some (q, c) → k ≠ 8 →
      (s.dev.maintTime = false ∨ (s.dev.eng k).svc ≠ .inService ∨
        s.dev.scrub.any (fun j => j.order + 1 == c.samples && j.stop.contains k) = true) →
      let d := { s.dev.dropEntry k q.cmd with kcmds := adel s.dev.kcmds q.cmd }
      let r := d.scrubPages c (Nat.min n q.items)
      (c.kop = 6 → d.scrub.find? (fun j => j.order + 1 == c.samples) = none →
        exec (.backgroundStop k n) s = .next { s with dev := r.2.setEng k (fun e => { e with
          patrolPos := (e.patrolPos + Nat.min n q.items) % (r.2.perStack / 1024), patrolDone := e.patrolDone + Nat.min n q.items }) }) ∧
      (∀ j, c.kop = 6 → d.scrub.find? (fun j => j.order + 1 == c.samples) = some j →
        let p := (aget j.pos k).getD 0 + Nat.min n q.items
        exec (.backgroundStop k n) s = .next { s with dev := r.2.setJob { j with
          pos := aset j.pos k p, read := j.read + r.1.1, fixed := j.fixed + r.1.2.1, bad := j.bad + r.1.2.2
          left := if Dev.jobItems k j ≤ p ∨ j.stop.contains k = true ∨ (s.dev.eng k).svc ≠ .inService then j.left.erase k
            else j.left } })) ∧
    (∀ (d : Dev) rewrite pg, clearAt (d.stack (stackOfPage pg)) pg = true → d.Healthy pg (List.range 16) →
      let r := d.scrubPage rewrite pg
      r.1 = 0 ∧ r.2.mem = d.mem ∧ r.2.sq = d.sq ∧ r.2.net = d.net ∧ r.2.mboxes = d.mboxes) ∧
    (∀ lane q c, s.dev.running k lane = some (q, c) → c.kop ∈ [6, 7] →
      (s.dev.maintTime = false → exec (.kerbEngineComplete k lane) s = .next s) ∧
      (s.dev.maintTime = true → exec (.kerbEngineComplete k lane) s = .next { s with dev :=
        (((s.dev.backgroundDone k q c q.items).setEng k (fun e => { e with done := e.done + 1 })).traceRec 2 0x21 0 (0x100 + k) 0 c.kop 0)
        })) ∧
    (∀ n, exec (.backgroundStop 8 n) s = .next { s with dev := s.dev.drainTrace n })

/-- R319, R331, R333, R338, R339: when the copy of a load ends the context is `LOADED` and its command is answered with the
placement. When a teardown ends the context holds no work: after a fault it is `FAULTED`, which is reported; a destroy that
waits releases it and is answered. When the bytes of an image are placed, and what a teardown leaves undefined, are the model's
own choices (log entries 47, 110). Rows: `teardownComplete`, `imagePlacementComplete`. -/
def Obligations.LoadsAndTeardownsEnd : Prop :=
  ∀ (s : State) (i : Nat) (c : MbCmd),
    (∀ q p, s.dev.placing.find? (fun x => x.1 == i) = some q → (s.dev.ctx i).prog = some p →
      ∃ t, exec (.imagePlacementComplete i) s = .next t ∧ (t.dev.ctx i).st = .loaded ∧ (t.dev.ctx i).prog = some p ∧
        t.dev.placing = s.dev.placing.filter (fun x => x.1 != i) ∧
        ((s.dev.mbox i).queue.head? = some c → c.busy = true → c.msg = 0x11 → c.done = none →
          ∃ u, (∀ a, s.dev.sentTo a <+: u.sentTo a) ∧ u.tu = s.dev.tu ∧
            Dev.Answered i c 0 0 (p.parts.any (fun x => x.pin && !x.granted)) (loadReply p) u t.dev)) ∧
    ((s.dev.ctx i).st = .tearingDown → (s.dev.ctx i).torn = false → s.dev.quiet i = true →
      ∃ t, exec (.teardownComplete i) s = .next t ∧ (∀ m ∈ t.dev.mis, m.ctx ≠ i) ∧ (∀ x ∈ t.dev.kcmds, x.2.ctx ≠ i) ∧
        ((s.dev.ctx i).fault.cls ≠ none → (s.dev.ctx i).destroyWait = false →
          (t.dev.ctx i).st = .faulted ∧ (t.dev.ctx i).fault = (s.dev.ctx i).fault ∧ (t.dev.ctx i).objs = [] ∧ (t.dev.ctx i).streams = [] ∧
          ∃ e u, e = (s.dev.invalidate i).dropWork i ∧
            Dev.Raised [i] { code := 0x8007, ctx := i, arg0 := s.dev.now - (s.dev.ctx i).faultNs } { e with slots := t.dev.slots } u ∧
            t.dev.mboxes = u.mboxes) ∧
        ((s.dev.ctx i).fault.cls = none → (s.dev.ctx i).destroyWait = true → s.dev.streamsOf i = [] →
          (t.dev.ctx i).st = .unclaimed ∧
          ((s.dev.mbox i).queue.head? = some c → c.busy = true → c.msg = 0x14 → c.done = none →
            Dev.Answered i c 0 0 false [] s.dev t.dev)))

/-- R282, R296, R304 to R306, R408, R428: refreshes are counted by bank. A reading sets the stack's temperature and its refresh
rate, up at once, at the first reading of all, and down after eight low ones; each step of rate, the first reading above 105 °C
and 8 ms without a reading are reported. The rate of corrections is reported once a tick, and a stack that loses training is
lost. The first reading, the order of the reports, and how often the rate of corrections is reported are the model's own choices
(log entries 102, 97, 105). Rows: `refreshIssue`, `refreshManagementRequest`, `stackTempReading`, `stackTempNoReading`,
`memCorrRate`, `stackTrainingLost`. -/
def Obligations.StacksRefreshAndReport : Prop :=
  ∀ (s : State) (k : Nat), s.dev.st ≠ .cold → k < s.dev.nStacks →
    let x := s.dev.stack k
    (∀ row pch bank, (row = .refreshIssue k pch bank ∨ row = .refreshManagementRequest k pch bank) →
      exec row s = .next { s with dev := s.dev.setStack k (fun x =>
        { x with refreshes := amod x.refreshes (64 * pch + bank) 0 (· + 1) }) }) ∧
    (∀ c, let code := nextRefresh x c (if c ≤ 92 then x.low95 + 1 else 0) (if c ≤ 82 then x.low85 + 1 else 0)
      let d := s.dev.setStack k (fun x => { x with
        temp := c, tempValid := true, tempSeen := true, overLimit := 105 < c, lastReadNs := s.dev.now, refresh := code
        low95 := if c ≤ 92 then x.low95 + 1 else 0, low85 := if c ≤ 82 then x.low85 + 1 else 0 })
      (x.tempSeen = false ∨ x.refresh ≤ tempCode c → code = tempCode c) ∧
      (x.tempSeen = true → tempCode c < x.refresh → x.low85 < 7 → x.low95 < 7 → code = x.refresh) ∧
      ∃ (t : State) (u : Dev), exec (.stackTempReading k c) s = .next t ∧ t = { s with dev := t.dev } ∧
        (code = x.refresh → u = d) ∧ (code ≠ x.refresh → Dev.Raised [] { code := 0x800C, kind := 5, unit := k, aux := c, arg0 := code } d u) ∧
        (105 < c → x.overLimit = false →
          Dev.Raised [] { code := 0x800C, kind := 5, unit := k, reason := 2, aux := c, arg0 := code } u t.dev) ∧
        (c ≤ 105 ∨ x.overLimit = true → t.dev = u)) ∧
    (x.tempValid = true →
      let d := ({ s.dev with now := Nat.max s.dev.now (x.lastReadNs + 8000000) }).setStack k (fun x =>
        { x with refresh := 2, tempValid := false, temp := 0, overLimit := false, low95 := 0, low85 := 0 })
      ∃ (t : State) (u : Dev), exec (.stackTempNoReading k) s = .next t ∧ t = { s with dev := t.dev } ∧
        Dev.Raised [] { code := 0x800C, kind := 5, unit := k, reason := 1, arg0 := 2 } d u ∧ (x.refresh = 2 → t.dev = u) ∧
        (x.refresh ≠ 2 → Dev.Raised [] { code := 0x800C, kind := 5, unit := k, arg0 := 2 } u t.dev)) ∧
    (s.dev.mcfg.corrWarn ≠ 0 → s.dev.mcfg.corrWarn ≤ x.corrTick → x.corrRaised = false →
      ∃ t, exec (.memCorrRate k) s = .next t ∧ t = { s with dev := t.dev } ∧
        Dev.Raised [] { code := 0x800A, kind := 5, unit := k, arg0 := x.corrTick }
          (s.dev.setStack k (fun x => { x with corrRaised := true })) t.dev) ∧
    (x.st = 0 → ∃ u, exec (.stackTrainingLost k) s = .next { s with dev := u.recheckUnits } ∧
      Dev.Raised [] { code := 0x8010, kind := 5, unit := k, reason := 4 }
        (s.dev.setStack k (fun x => { x with st := 2, lost := true })) u)

/-- R48, R109, R116, R293 to R295, R300 to R303: a read that hits is served by its home Square, and a partial line written goes
to its buffer. A request that the stack serves waits for the next microsecond where it passes the I/O share or one for its line
waits so; else it is ready, and, unless a calibration step blocks the stack or it waits for maintenance time, goes to its page:
there it waits on the page's lock, takes it for a decoder where a line fails its check, or is served. On sound pages a read
gives the bytes of its lines, a write changes the bytes of its lines under its mask, with their poison, and none other; what the
page's decoder corrects is within its strength and explains the syndromes. A decoded page answers its request and is released,
and the requests that waited are served in the order they came; while a calibration step blocks the stack, both wait for its
end. An idle entry of the write-combining buffer drains after 512 cycles: a full one is written, another is read first and
written when the row comes again (R117). The order of the requests at a stack, what the I/O share holds, what serves a page in
one step, and the hints of a buffered line are the model's own choices (log entries 103, 104, 151, 152). Rows: `latCapWindow`,
`stackedReadRequest`, `stackedWriteRequest`, `pageDecodeDone`, `pageLockRelease`, `wcbIdleDrain`. -/
def Obligations.RequestsAndPageLocks : Prop :=
  (∀ (s : State) row rq data w, (row = .stackedReadRequest rq ∧ w = false ∧ data = [] ∨ row = .stackedWriteRequest rq data ∧ w = true) →
    isStk rq.addr = true → s.dev.canon rq.addr = some rq.addr → stkOf rq.addr < s.dev.stk.length →
    let d := s.dev.hurt (rq.addr / 1024) rq.damage
    let r := { rq with damage := [] }
    let x : Req := (r, data, w)
    let k := stkOf rq.addr
    (∀ vs e, w = false → rq.kerb = false → d.missLines r = [] → d.rawRead r = (vs, e) →
      exec row s = .next { s with dev := e.give r vs }) ∧
    (w = true → rq.kerb = false → rq.lines = 1 → rq.mask ≠ fullMask → exec row s = .next { s with dev :=
      (d.writeMasked { alloc := rq.core, chint := rq.chint, cls := rq.cls } 0 rq.addr rq.mask data rq.poison) }) ∧
    ((rq.kerb = true ∨ w = false ∧ d.missLines r ≠ []) →
      ((d.stack k).ioWait.any (Dev.sameLine x) = true ∨ rq.io = true ∧ d.ioCap < (d.stack k).ioUsed + rq.lines →
        exec row s = .next { s with dev := d.setStack k (fun y => { y with ioWait := y.ioWait ++ [x] }) }) ∧
      ((d.stack k).ioWait.any (Dev.sameLine x) = false → (rq.io = false ∨ (d.stack k).ioUsed + rq.lines ≤ d.ioCap) →
        let e := d.setStack k (fun y => { y with ioUsed := if rq.io then y.ioUsed + rq.lines else y.ioUsed, ready := y.ready ++ [x] })
        exec row s = .next { s with dev := e.serveReady k } ∧
        ((d.stack k).cal.isSome = true → e.serveReady k = e) ∧
        ((d.stack k).cal = none → (d.stack k).ready = [] → (rq.cls ≠ 2 ∨ e.maintTime = true ∧ e.calFirst k = false) →
          e.serveReady k = (e.setStack k (fun y => { y with ready := [], turn := aset y.turn (e.turnKey x) (Dev.requester x) })).atPage x) ∧
        ((d.stack k).ready = [] → rq.cls = 2 → (e.maintTime = false ∨ e.calFirst k = true) → e.serveReady k = e)))) ∧
  (∀ (d : Dev) (r : MemReq) (data : List Byte) (w : Bool), let k := stkOf r.addr
    ((d.stack k).locks.any (fun l => l.page == r.addr / 1024) = true → d.atPage (r, data, w) = d.setStack k (fun y => { y with
      locks := y.locks.map (fun l => if l.page == r.addr / 1024 then { l with waiting := l.waiting ++ [(r, data, w)] } else l) })) ∧
    ((d.stack k).locks.any (fun l => l.page == r.addr / 1024) = false →
      (d.needsDecode r w = true → d.atPage (r, data, w) = d.setStack k (fun y => { y with locks := y.locks ++
        [{ page := r.addr / 1024, rq := r, data := data, write := w
           phase := if ((d.stack k).locks.filter (fun l => l.phase == 1 && l.rq.kerb == r.kerb)).length < (if r.kerb then 1 else 2)
             then 1 else 0 }] })) ∧
      (d.needsDecode r w = false → w = true → d.atPage (r, data, w) = d.rawWrite r data) ∧
      (d.needsDecode r w = false → w = false → d.atPage (r, data, w) = (d.rawRead r).2.handOver r (d.rawRead r).1))) ∧
  (∀ (t n : Nat) (syn : List Nat) (e : List (Nat × Nat)), syn.length = 2 * t → rsDecode t n syn = some e →
    e.length ≤ t ∧ (∀ x ∈ e, x.1 < n) ∧ e.Pairwise (fun x y => x.1 < y.1) ∧ syndromes (2 * t) n e = syn) ∧
  (∀ (d : Dev) (r : MemReq) (data : List Byte), let pg := r.addr / 1024
    d.Healthy pg (reqLines r) → data.length = 64 * r.lines →
    let t := d.rawWrite r data
    t.sq = d.sq ∧ t.net = d.net ∧ (∀ j < r.lines, let a := 1024 * pg + 64 * (r.addr % 1024 / 64 + j)
      t.mem.read a 64 = (if r.lines = 1 then merge r.mask (d.mem.read a 64) data else (data.drop (64 * j)).take 64) ∧
      (t.mem.poison.contains (a / 64) = true ↔ r.poison = true)) ∧
    ∀ x, (x < 1024 * pg + 64 * (r.addr % 1024 / 64) ∨ 1024 * pg + 64 * (r.addr % 1024 / 64) + 64 * r.lines ≤ x) →
      t.mem.byte x = d.mem.byte x) ∧
  (∀ (d : Dev) (cls pg : Nat), clearAt (d.stack (stackOfPage pg)) pg = true →
    (∀ ls, d.Healthy pg ls → let t := (d.dramReadPage cls pg ls).2
      (d.dramReadPage cls pg ls).1 = ls.map (fun i => (d.mem.read (1024 * pg + 64 * i) 64, false)) ∧
      t.mem = d.mem ∧ t.sq = d.sq ∧ t.net = d.net) ∧
    (∀ ws : List (Nat × List Byte × Bool), d.Healthy pg (ws.map Prod.fst) → (ws.map Prod.fst).Nodup →
      (∀ w ∈ ws, w.2.1.length = 64) → let t := d.dramWritePage cls pg ws
      t.sq = d.sq ∧ t.net = d.net ∧
      (∀ w ∈ ws, t.mem.read (1024 * pg + 64 * w.1) 64 = w.2.1 ∧
        (t.mem.poison.contains (16 * pg + w.1) = true ↔ w.2.2 = true)) ∧
      ∀ x, (∀ w ∈ ws, x < 1024 * pg + 64 * w.1 ∨ 1024 * pg + 64 * w.1 + 64 ≤ x) → t.mem.byte x = d.mem.byte x)) ∧
  ∀ (s : State),
    (∀ page l, let k := stackOfPage page
      (s.dev.stack k).locks.find? (fun l => l.page == page && l.phase == 1) = some l →
      ((s.dev.stack k).cal.isSome = true →
        exec (.pageDecodeDone page) s = .next { s with dev := (s.dev.setStack k (fun x => { x with locks := x.locks.map (fun y =>
          if y.page == page then { y with phase := 3 } else y) })).nextDecode k l.rq.kerb }) ∧
      ((s.dev.stack k).cal = none →
      let d := if l.write then s.dev.rawWrite l.rq l.data else (s.dev.rawRead l.rq).2.handOver l.rq (s.dev.rawRead l.rq).1
      (l.waiting = [] → exec (.pageDecodeDone page) s = .next { s with dev :=
        (d.setStack k (fun x => { x with locks := x.locks.filter (fun y => y.page != page) })).nextDecode k l.rq.kerb }) ∧
      (l.waiting ≠ [] → exec (.pageDecodeDone page) s = .next { s with dev :=
        (d.setStack k (fun x => { x with locks := x.locks.map (fun y =>
          if y.page == page then { y with phase := 2 } else y) })).nextDecode k l.rq.kerb }))) ∧
    (∀ page l, let k := stackOfPage page
      (s.dev.stack k).locks.find? (fun l => l.page == page && l.phase == 2) = some l →
      ((s.dev.stack k).cal = none →
        exec (.pageLockRelease page) s = .next { s with dev := (l.waiting.foldl (fun d x => d.atPage x)
          (s.dev.setStack k (fun x => { x with locks := x.locks.filter (fun y => y.page != page) }))) }) ∧
      ((s.dev.stack k).cal.isSome = true → exec (.pageLockRelease page) s = .next { s with dev := s.dev.setStack k (fun x =>
        { x with locks := x.locks.filter (fun y => y.page != page), ready := l.waiting ++ x.ready }) })) ∧
    ((∀ k < s.dev.nStacks, (s.dev.stack k).ioWait = [] ∧ (s.dev.stack k).ready = []) → s.dev.trace.owed = false →
      ∃ t, exec .latCapWindow s = .next t ∧
      t = { s with dev := { s.dev with stk := t.dev.stk } } ∧
      ∀ k < s.dev.nStacks, k < s.dev.stk.length →
        t.dev.stack k = { s.dev.stack k with latUsed := [], ioUsed := (s.dev.stack k).ioUsed - s.dev.ioCap }) ∧
    exec .latCapWindow s = .next { s with
      dev := (List.range s.dev.nStacks).foldl (fun d k => ((d.stack k).ioWait.foldl (fun d r => d.arrive r)
        (d.setStack k (fun x => { x with latUsed := [], ioUsed := x.ioUsed - d.ioCap, ioWait := [] }))).serveReady k)
        (if s.dev.trace.owed then s.dev.traceHead else s.dev) } ∧
    (∀ die line e, (s.dev.square die).wcb.find? (fun e => e.line == line) = some e →
      let d := { s.dev with now := Nat.max s.dev.now (e.sinceNs + s.dev.tcNs 512) }
      ((e.mask = Dev.fullMask ∨ e.rest.isSome = true) → exec (.wcbIdleDrain die line) s = .next { s with dev := d.drainWcb die e }) ∧
      (e.mask ≠ Dev.fullMask → e.rest = none → exec (.wcbIdleDrain die line) s = .next { s with dev := d.readWcb die e } ∧
        ∀ k, d.canon (line * 64) = some k → (d.readWcb die e).wcbEntry die (line * 64) =
          ((d.restOf die k (line * 64)).2.wcbEntry die (line * 64)).map (fun x => { x with rest := some (d.restOf die k (line * 64)).1 })))

/-- R342, R343, R346, R349 to R351, R353 to R357, R361, R375: a packet on a link that is down is lost; one in a damaged frame,
one without a key where MACsec is required, one of the wrong length or whose trailer fails, one for another part and one of a
source that is not admitted are dropped, and counted; one to another address or port and one of another version are dropped; a
duplicate is acknowledged again, and a number that its sender cannot have reached is dropped. Every row of `packetRows`. The
trailer is CRC-32C. The order in which a packet is judged, what an open part takes, and which numbers a sender can have reached
are the model's own readings (log entries 111, 112, 113). -/
def Obligations.PacketsAreDropped : Prop :=
  crc32c ([0x31, 0x32, 0x33, 0x34, 0x35, 0x36, 0x37, 0x38, 0x39] : List Byte) = 0xE3069283 ∧
  ∀ (s : State) (a : Arrival) (row : Instr) (ty : Nat), (row, ty, true) ∈ packetRows a → a.pkt.otype.toNat = ty →
    let c := s.dev.codewords a
    let q := a.link / 2
    let d := c.cnt 0x31 q 1
    let p := a.pkt
    let up := (s.dev.net.links.getD a.link {}).up
    let keyed := s.dev.net.fab.macsecReq = true → a.macsec.any (fun an => s.dev.net.fab.keys.any (fun k => k.1 == an)) = true
    let ours := ownMac s.otp a.dst = true ∧ a.port = s.dev.net.fab.port
    let whole := p.payload.length = p.olen.toNat ∧ p.crc = crc32c (p.header ++ p.payload)
    let forUs := p.dstId = s.dev.net.fab.id ∨ p.dstId = 0xFFFF
    (up = false → exec row s = .next s) ∧
    (up = true → damaged a = true → exec row s = .next { s with dev := c.cnt 0x34 q 1 }) ∧
    (up = true → damaged a = false → ¬ keyed → exec row s = .next { s with dev := d.cnt 0x35 q 1 }) ∧
    (up = true → damaged a = false → keyed → ¬ ours → exec row s = .next { s with dev := d }) ∧
    (s.dev.Framed s.otp a → ¬ whole → exec row s = .next { s with dev := d.cnt 0x40 0 1 }) ∧
    (s.dev.Framed s.otp a → whole → p.ver ≠ 1 → exec row s = .next { s with dev := d }) ∧
    (s.dev.Sound s.otp a → ¬ forUs → exec row s = .next { s with dev := d.cnt 0x40 10 1 }) ∧
    (s.dev.Sound s.otp a → forUs → s.dev.admitted a = false → exec row s = .next { s with dev := d.cnt 0x40 1 1 }) ∧
    (s.dev.Sound s.otp a → forUs → s.dev.admitted a = true → ∃ f, s.dev.taken s.otp a = (true, f)) ∧
    (∀ f, s.dev.taken s.otp a = (true, f) → ty ∉ [5, 6, 9] →
      let x := f.synced p
      (hadPsn p (x.space p.srcId.toNat) = true → exec row s = .next { s with dev := (x.noteAck p.srcId.toNat).settleAll }) ∧
      (hadPsn p (x.space p.srcId.toNat) = false → 256 ≤ missingBelow p (x.space p.srcId.toNat) →
        exec row s = .next { s with dev := x.settleAll }))

/-- R315 to R318, R356, R358, R362 to R364, R366, R459: a mailbox message of sound form waits in its mailbox, or is answered
`QUEUE_FULL` where sixteen wait; a malformed one is counted. A write within its window is placed there, its bytes and none
other, and waits to be visible; a read is answered from it, in packets of the largest payload; any other access is refused with
its reason, in a `NAK` that waits where no path is live. A packet of a collective that matches no group is counted. The order of
the checks of an access, and what becomes of a response that nothing asked for, are the model's own choices (log entries 114,
119). Rows: `oftMbox`, `oftWrite`, `oftReadReq`, `oftReadResp`, `oftCollData`, `collCtrlReady`, `collCtrlAbort`. -/
def Obligations.PacketsDeliver : Prop :=
  ∀ (s : State) (a : Arrival) (e : Dev), s.dev.NewPacket s.otp a e →
    let p := a.pkt
    let q := p.srcId.toNat
    (∀ x addr, e.Local addr p.payload.length → p.poison = 0 →
      let t := e.place a x addr
      let n := e.net.rxBytes + p.payload.length
      (∀ i < p.payload.length, t.mem.byte (addr + i) = p.payload.getD i 0) ∧
      (∀ y, (y < addr ∨ addr + p.payload.length ≤ y) → t.mem.byte y = e.mem.byte y) ∧
      (t.space q).placing = (e.space q).placing ++ [{ x with psn := p.psn, len := p.payload.length, link := a.link }] ∧
      (t.space q).rxNext = (e.space q).rxNext ∧ (t.space q).rxGot = (e.space q).rxGot ∧ t.net.rxBytes = n ∧
      t.net.pfcSent = (if e.net.pfcSent then decide (2097152 ≤ n) else decide (3670016 < n))) ∧
    (e.livePaths q = [] →
      (∀ base, let m := maxPayload e.net.fab
        e.answerRead a base = e.setSpace { e.space q with waiting := (e.space q).waiting ++
          (List.range (Nat.max 1 (cdiv p.ocnt.toNat m))).map (fun i =>
            { pkt := { Packet.mk0 4 [] with
                         apsn := p.psn, obj := p.obj, ooff := p.ooff + BitVec.ofNat 64 (m * i)
                         oflags := if p.ocnt.toNat ≤ m * (i + 1) then 0x10 else 0
                         olen := BitVec.ofNat 16 (Nat.min m (p.ocnt.toNat - m * i)) }
              src := some (base + p.ooff.toNat + m * i) }) }) ∧
      (∀ r, (e.space q).sigs = [] → (e.space q).rxGot.length < 2 ^ 30 →
        let g := e.gotPsn q p.psn
        hadPsn p (g.space q) = true ∧ e.refuse a r = (g.cnt 0x40 4 1).setSpace { g.space q with ctl := (g.space q).ctl ++
          [{ Packet.mk0 6 [] with psn := p.psn, apsn := (g.space q).rxNext, ocnt := BitVec.ofNat 32 r }] })) ∧
    (p.otype = 1 → e.fwUp = true →
      let h := p.payload.take 64
      let mb := fld h 3 1
      let c : MbCmd :=
        { peer := p.srcId.toNat, link := a.link, v6 := a.v6, addr := a.addr, mac := a.mac, order := e.accepted + 1
          msg := fld h 4 2, seq := fld h 6 2, tag := fld h 16 8, hdr := h, payload := p.payload.drop 64, psn := some p.psn }
      let sound := 64 ≤ p.payload.length ∧ fld h 0 2 = 1 ∧ fld h 2 1 = 0 ∧ mb ≤ 64 ∧ fld h 8 2 ≤ 4096
        ∧ fld h 8 2 = (p.payload.drop 64).length
      let took := ({ e with accepted := e.accepted + 1 }).setMbox mb (fun m => { m with queue := m.queue ++ [c] })
      (¬ sound → exec (.oftMbox a) s = .next { s with dev := ((e.cnt 0x40 8 1).atOnce a).settleAll }) ∧
      (sound → (e.mbox mb).queue.length < 16 → exec (.oftMbox a) s = .next { s with dev := (took.atOnce a).settleAll }) ∧
      (sound → 16 ≤ (e.mbox mb).queue.length →
        exec (.oftMbox a) s = .next { s with dev := ((e.sendResponse mb c 1 0 false []).atOnce a).settleAll })) ∧
    (∀ w, e.window p.obj.toNat = some w → e.power.on.getLsbD 52 = true →
      (p.otype = 2 → (w.peer = 0xFFFF ∨ w.peer = p.srcId.toNat) → w.write = true → p.ooff.toNat + p.payload.length ≤ w.size →
        exec (.oftWrite a) s = .next { s with dev :=
          (e.place a { win := some p.obj.toNat, sig := p.oflags.getLsbD 3 } (w.base + p.ooff.toNat)).settleAll }) ∧
      (p.otype = 3 → (w.peer = 0xFFFF ∨ w.peer = p.srcId.toNat) → w.read = true → p.ooff.toNat + p.ocnt.toNat ≤ w.size →
        p.ocnt.toNat ≤ 2 ^ 20 → exec (.oftReadReq a) s = .next { s with dev := ((e.atOnce a).answerRead a w.base).settleAll }) ∧
      (∀ row size right, (row = .oftWrite a ∧ p.otype = 2 ∧ size = p.payload.length ∧ right = w.write ∨
          row = .oftReadReq a ∧ p.otype = 3 ∧ size = p.ocnt.toNat ∧ right = w.read) →
        let known := w.peer = 0xFFFF ∨ w.peer = p.srcId.toNat
        (¬ known → exec row s = .next { s with dev := (e.refuse a 4).settleAll }) ∧
        (known → right = false → exec row s = .next { s with dev := (e.refuse a 3).settleAll }) ∧
        (known → right = true → (w.size < p.ooff.toNat + size ∨ p.otype = 3 ∧ 2 ^ 20 < size) →
          exec row s = .next { s with dev := (e.refuse a 2).settleAll }))) ∧
    (∀ row, (row = .oftWrite a ∧ p.otype = 2 ∨ row = .oftReadReq a ∧ p.otype = 3) →
      (e.window p.obj.toNat = none ∨ e.power.on.getLsbD 52 = false) → exec row s = .next { s with dev := (e.refuse a 1).settleAll }) ∧
    (p.otype = 4 → e.net.reads = [] → exec (.oftReadResp a) s = .next { s with dev := (e.atOnce a).settleAll }) ∧
    (∀ row, (row = .oftCollData a ∧ p.otype = 7 ∨ p.otype = 8 ∧ (row = .collCtrlReady a ∧ p.oflags.getLsbD 5 = false
        ∨ row = .collCtrlAbort a ∧ p.oflags.getLsbD 5 = true)) →
      (e.power.on.getLsbD 52 = false → exec row s = .next { s with dev := (e.refuse a 1).settleAll }) ∧
      (e.power.on.getLsbD 52 = true → e.collFrom a = none → exec row s = .next { s with dev := (e.mismatch a).settleAll }))

/-- R356 to R361, R364, R371: an acknowledgement retires what it covers and cuts the rate under `ECE`; a probe is answered over
its path; bytes that become visible are acknowledged. Each timer does at its moment what its rule says: an acknowledgement goes
out, a packet goes again, marked, under twice the timeout, or its peer is lost after sixteen, a path dies and its packets go
again at once by the live ones, dead paths are probed, the rate rises by 4 Gb/s. A lost peer drops what is unacknowledged, is
reported with its number, and its next packet is a `SYNC`. The form of a probe, the path of an acknowledgement, how a rate is
kept and what a lost peer loses are the model's own choices (log entries 115, 117, 118). Rows: `oftAck`, `oftNak`, `oftProbe`,
`oftPlacementVisible`, `ackDelayTimer`, `retransmitTimeout`, `pathAckTimeout`, `probeTimer`, `ecnRateIncrease`. -/
def Obligations.TransportKeepsOrder : Prop :=
  ∀ (s : State) (peer : Nat),
    (∀ a f, s.dev.taken s.otp a = (true, f) →
      (a.pkt.otype = 5 → exec (.oftAck a) s = .next { s with dev := ((f.ackIn a).collAll.drainAll).settleAll }) ∧
      (a.pkt.otype = 6 → exec (.oftNak a) s = .next { s with dev := ((f.ackIn a).collAll).settleAll }) ∧
      (a.pkt.otype = 5 → f.trace.dstate ≠ 0 →
        let x := f.space a.pkt.srcId.toNat
        let y := { x with
          unacked := x.unacked.filter (fun t => !acked a.pkt t.pkt.psn), lastAckNs := aset x.lastAckNs (f.pathOf a) f.now }
        (a.pkt.oflags.getLsbD 1 = false → f.ackIn a = (f.setSpace y).pumpAll a.pkt.srcId.toNat) ∧
        (a.pkt.oflags.getLsbD 1 = true → x.cutNs = none → f.ackIn a = ((f.cnt 0x40 3 1).setSpace { y with
          stepNs := f.now, cutNs := some f.now, rate := some (Nat.max 8000 (x.rate.getD f.liveRate * 7 / 8)) }).pumpAll a.pkt.srcId.toNat)) ∧
      (a.pkt.otype = 9 →
        let q := a.pkt.srcId.toNat
        let x := f.space q
        let g := f.setSpace { x with dead := x.dead.erase (f.pathOf a), lastAckNs := aset x.lastAckNs (f.pathOf a) f.now }
        let reply := { Packet.mk0 9 [] with ocnt := 1 }
        (a.pkt.ocnt = 0 → g.pausedOn (f.pathOf a) reply = false → exec (.oftProbe a) s = .next { s with dev :=
          ((g.emit q (f.pathOf a) reply).pumpAll q).settleAll }) ∧
        ((a.pkt.ocnt ≠ 0 ∨ g.pausedOn (f.pathOf a) reply = true) →
          exec (.oftProbe a) s = .next { s with dev := (g.pumpAll q).settleAll }))) ∧
    (∀ psn v, (s.dev.space peer).placing.find? (fun v => v.psn == BitVec.ofNat 32 psn) = some v → v.win = none → v.coll = none →
      v.old = false →
      let x := s.dev.space peer
      let d := s.dev.setSpace { x with placing := x.placing.erase v }
      let e := { d with net := { d.net with rxBytes := d.net.rxBytes - v.len } }
      exec (.oftPlacementVisible peer psn) s = .next { s with dev :=
        (((e.pfcUpdate.gotPsn peer v.psn).noteAck peer).fireSigs peer).settleAll }) ∧
    ((s.dev.space peer).toAck ≠ 0 → exec (.ackDelayTimer peer) s = .next { s with dev :=
      ({ s.dev with now := Nat.max s.dev.now ((s.dev.space peer).firstNs + 4000) }).sendAck peer }) ∧
    (∀ psn t, (s.dev.space peer).unacked.find? (fun t => t.pkt.psn == BitVec.ofNat 32 psn) = some t →
      let d := { s.dev with now := Nat.max s.dev.now (t.sentNs + t.timeout) }
      (16 ≤ t.tries → exec (.retransmitTimeout peer psn) s = .next { s with dev := d.losePeer peer }) ∧
      (t.tries < 16 → exec (.retransmitTimeout peer psn) s = .next { s with dev := d.resend peer t.pkt.psn true }) ∧
      (t.tries < 16 → s.dev.livePaths peer ≠ [] →
        s.dev.pausedOn ((s.dev.livePaths peer).getD (t.pkt.psn.toNat % (s.dev.livePaths peer).length) 0) t.pkt = false →
        (t.owner ≠ 0x1000 ∨ d.mayDrain t = true) → ∀ twice, ∃ y ∈ ((d.resend peer t.pkt.psn twice).space peer).unacked,
        y.pkt.psn = t.pkt.psn ∧ y.tries = t.tries + 1 ∧ y.pkt.oflags = t.pkt.oflags ||| 4 ∧
        y.timeout = (if twice then Nat.min (2 * t.timeout) 4096000 else t.timeout))) ∧
    (∀ (d : Dev) path, let x := d.space peer
      d.killPath peer path = (x.unacked.filter (fun t => t.path == path)).foldl (fun d t => d.resend peer t.pkt.psn false)
        (d.setSpace { x with dead := x.dead.insert path })) ∧
    (∀ d : Dev, d.livePaths peer = [] →
      let x := d.space peer
      let drained := x.unacked.any (fun t => t.owner == 0x1000)
      let f := d.setSpace { x with unacked := [], sync := true
                                   waiting := x.waiting.filter (fun t => !drained || t.owner != 0x1000) }
      Dev.Raised [] { code := 0x8012, unit := peer, arg0 := x.unacked.length }
        { f with
          trace := { d.trace with sentPos := if drained then d.trace.rpos else d.trace.sentPos }
          net := { f.net with groups := d.net.groups.map (fun (g : Nat × Group) =>
            if x.unacked.any (fun t => t.owner == g.1 + 1 && g.1 + 1 < 0x1000)
            then (g.1, { g.2 with run := g.2.run.map (fun (r : CollRun) => { r with lost := true }) }) else g) } }
        (d.losePeer peer)) ∧
    (∀ path t ts, (s.dev.space peer).unacked.filter (fun t => t.path == path) = t :: ts → path ∉ (s.dev.space peer).dead →
      let first := ts.foldl (fun m t => Nat.min m t.sentNs) t.sentNs
      let due := Nat.max first ((aget (s.dev.space peer).lastAckNs path).getD 0) + 250000
      exec (.pathAckTimeout peer path) s = .next { s with dev := ({ s.dev with now := Nat.max s.dev.now due }).killPath peer path }) ∧
    (∀ r, (s.dev.space peer).rate = some r →
      let n := Nat.max s.dev.now ((s.dev.space peer).stepNs + 20000)
      exec (.ecnRateIncrease peer) s = .next { s with dev := ({ s.dev with now := n }).setSpace { s.dev.space peer with
        stepNs := n, rate := some (Nat.min (r + 4000) s.dev.liveRate) } }) ∧
    (∀ x path, s.dev.net.spaces = [x] → x.dead = [path] → (s.dev.net.links.getD (path / 2) {}).up = true →
      s.dev.portOpen path = true → s.dev.pausedOn path (Packet.mk0 9 []) = false →
      exec .probeTimer s = .next { s with dev := s.dev.emit x.peer path (Packet.mk0 9 []) })

/-- R344, R347, R348, R351, R359, R360, R376, R424, R430: a link that falls kills its paths, counts a flap and is reported; a
link that has trained comes up, is reported, puts its port in service and lets waiting packets go. An honoured PFC frame pauses
or resumes its priority. A frame of neighbour discovery that MACsec does not secure, where it is required, is counted and
dropped, and one to another address is dropped; the part answers for its own addresses, and takes those that prefixes form
unless they are taken. Paths of a link that goes down, the link that comes back and the formed address are the model's own
choices (log entries 122, 27, 121). Rows: `linkDown`, `linkUp`, `pfcFrame`, `neighbourRequest`, `slaacRouterAdvertisement`. -/
def Obligations.LinksAndNeighbours : Prop :=
  ∀ (s : State),
    (∀ l, (s.dev.net.links.getD l {}).up = true → l / 2 < s.dev.net.ports.length → ∃ (u e : Dev),
      exec (.linkDown l) s = .next { s with dev := u } ∧ Dev.Raised [] { code := 0x8011, kind := 3, unit := l } e u ∧
        e.net.links.getD l {} = { up := false, training := true } ∧
        (e.net.ports.getD (l / 2) {}).flaps = (s.dev.net.ports.getD (l / 2) {}).flaps + 1 ∧
        ∀ x ∈ e.net.spaces, (∃ y ∈ s.dev.net.spaces, y.peer = x.peer) → 2 * l ∈ x.dead ∧ 2 * l + 1 ∈ x.dead) ∧
    (∀ l, let p := l / 2
      s.tap.owns = false → s.dev.fwUp = true → l ∈ s.dev.portLinks p → (s.dev.net.links.getD l {}).training = true →
      (s.dev.net.links.getD l {}).up = false → (s.dev.net.ports.getD p {}).svc ∈ [Svc.inService, Svc.off] → s.dev.domOn (50 + p) = true →
      let d : Dev := { s.dev with net := { s.dev.net with links := s.dev.net.links.set l { up := true } } }
      ∃ u e : Dev, exec (.linkUp l) s = .next { s with dev := e.net.spaces.foldl (fun d x => d.pumpAll x.peer) e } ∧
        e = u.unitUp (50 + p) true ∧ Dev.Raised [] { code := 0x8011, kind := 3, unit := l, reason := 1 }
          ((d.setSvc 3 p .inService).setPort p (fun q => { q with ptp := if q.ptp == 0 then 1 else q.ptp })) u) ∧
    (∀ port prio pause secured, port < 2 → s.dev.portUp port = true →
      let d := (s.dev.cnt 0x31 port 1).cnt 0x36 port 1
      (s.dev.net.fab.macsecReq = true → secured = false →
        exec (.pfcFrame port prio pause secured) s = .next { s with dev := d.cnt 0x35 port 1 }) ∧
      ((s.dev.net.fab.macsecReq = false ∨ secured = true) → s.dev.net.fab.pfcMask.getLsbD prio = false →
        exec (.pfcFrame port prio pause secured) s = .next { s with dev := d }) ∧
      ((s.dev.net.fab.macsecReq = false ∨ secured = true) → s.dev.net.fab.pfcMask.getLsbD prio = true →
        let b : BitVec 8 := 1#8 <<< prio
        (pause = true → exec (.pfcFrame port prio pause secured) s = .next { s with dev := d.setPort port (fun q =>
          { q with paused := q.paused ||| b }) }) ∧
        (pause = false →
          let e := d.setPort port (fun q => { q with paused := q.paused &&& ~~~b })
          exec (.pfcFrame port prio pause secured) s = .next { s with dev := e.net.spaces.foldl (fun d x => d.pumpAll x.peer) e }))) ∧
    (∀ row fr, ((∃ v6 target asker, row = .neighbourRequest fr v6 target asker) ∨
        ∃ pfx dup, row = .slaacRouterAdvertisement fr pfx dup) → fr.port < 2 → s.dev.portUp fr.port = true →
      let d := s.dev.cnt 0x31 fr.port 1
      (s.dev.net.fab.macsecReq = true → fr.secured = false → exec row s = .next { s with dev := d.cnt 0x35 fr.port 1 }) ∧
      ((s.dev.net.fab.macsecReq = false ∨ fr.secured = true) → ownMac s.otp fr.dst = false → fr.dst.getLsbD 0 = false →
        exec row s = .next { s with dev := d })) ∧
    (∀ fr v6 target asker, fr.port < 2 → s.dev.portUp fr.port = true → (s.dev.net.fab.macsecReq = false ∨ fr.secured = true) →
      (ownMac s.otp fr.dst = true ∨ fr.dst.getLsbD 0 = true) →
      let d := s.dev.cnt 0x31 fr.port 1
      (target ∉ s.dev.ownAddrs s.otp fr.port v6 → exec (.neighbourRequest fr v6 target asker) s = .next { s with dev := d }) ∧
      (target ∈ s.dev.ownAddrs s.otp fr.port v6 →
        let e := d.cnt 0x30 fr.port 1
        let f : Dev := { e with net := { e.net with replies := (fr.port, target, asker) :: e.net.replies } }
        exec (.neighbourRequest fr v6 target asker) s = .next { s with dev := f })) ∧
    (∀ fr pfx dup, fr.port < 2 → s.dev.portUp fr.port = true → (s.dev.net.fab.macsecReq = false ∨ fr.secured = true) →
      (ownMac s.otp fr.dst = true ∨ fr.dst.getLsbD 0 = true) →
      let d := s.dev.cnt 0x31 fr.port 1
      let x := v6Addr (leBytes 8 pfx.toNat) (if fr.port == 0 then s.otp.mac0 else s.otp.mac1)
      ((s.dev.net.fab.slaac = false ∨ x ∈ (s.dev.net.ports.getD fr.port {}).slaac) →
        exec (.slaacRouterAdvertisement fr pfx dup) s = .next { s with dev := d }) ∧
      (s.dev.net.fab.slaac = true → x ∉ (s.dev.net.ports.getD fr.port {}).slaac →
        exec (.slaacRouterAdvertisement fr pfx dup) s = .next { s with dev := (d.cnt 0x30 fr.port 1).setPort fr.port (fun q =>
          { q with dad := x :: q.dad, slaac := if dup then q.slaac else q.slaac ++ [x] }) }))

/-- R365 to R372, R421: a triggered group takes its object and the next record: one that is poisoned or malformed faults its
owner; a sound one copies the member's own chunk, tells the members that send to it that it is ready, and goes on. `READY` and
data serve the collective in progress: data is placed at its offset in the destination, or in `RECV` where it is reduced in
order. `ABORT` ends the collective where it names it, bars the group and is reported, and a complete one signals its owner. The
rotation of the members, the reduction as a command of the firmware and what an abort ends are the model's own choices (log
entries 123, 124, 125). Rows: `oftCollData`, `collCtrlReady`, `collCtrlAbort`, `collTrigger`, `collComplete`. -/
def Obligations.CollectivesRun : Prop :=
  ∀ (s : State) (i : Nat) (g : Group),
    (aget s.dev.net.groups i = some g → s.dev.power.on.getLsbD 52 = true → s.dev.triggered (i, g) = true →
      (s.dev.net.groups.filter (fun x => x.2.run.isSome)).length
        + (s.dev.net.groups.filter (fun x => x.1 < i && s.dev.triggered x)).length < 32 →
      let addr := g.list + 64 * g.cursor
      let r := (s.dev.setCtx g.owner (fun c => { c with objs := amod c.objs g.trig 0 (fun v => v - 1) })).ioFetch addr 64
      let c := collRec r.1.1 addr
      let n := g.members.length
      let me := r.2.myIndex g
      let d := r.2.setGroup i (fun h => { h with
        cursor := (h.cursor + 1) % h.len, k := g.k + 1, early := h.early.filter (fun x => x.2 != g.k + 1)
        run := some { k := g.k + 1, cr := c, ready := (g.early.filter (fun x => x.2 == g.k + 1)).map (fun x => x.1) } })
      (Dev.holds (d.ctx g.owner) = true → (r.1.2 ≠ [] ∨ d.collOk r.1.1 c n me g.owner = false) →
        ∃ t, exec (.collTrigger i) s = .next t ∧ d.FaultsAt g.owner
          { cls := some (if r.1.2 = [] then .illegal else .poison), stream := 0xFE, info := addr } t.dev) ∧
      (r.1.2 = [] → d.collOk r.1.1 c n me g.owner = true →
        let e := match ownCopy c me with | some x => d.copyBytes x.1 x.2 c.chunk | none => d
        exec (.collTrigger i) s = .next { s with dev := (((List.range n).filter (fun j => sendsTo c j me)).foldl (fun d j =>
          d.sendPkt (nth g.members j) (collCtl i (g.k + 1) g.epoch false) (1 + i) none) e).collStep i })) ∧
    (∀ a e j, s.dev.NewPacket s.otp a e → e.power.on.getLsbD 52 = true → e.collFrom a = some (g, j) → i = a.pkt.obj.toNat →
      let k := a.pkt.ocnt.toNat
      (a.pkt.otype = 7 → exec (.oftCollData a) s = .next { s with dev := (e.collData a g j).settleAll } ∧
        (g.run.all (fun r => r.k != k) = true → e.collData a g j = e.atOnce a) ∧
        ∀ r, g.run = some r → r.k = k →
          let off := a.pkt.ooff.toNat
          let len := a.pkt.payload.length
          let put (d : Dev) (addr : Nat) := (d.setRun i (fun r => { r with got := amod r.got j 0 (· + len) })).place a { coll := some (i, 0) } addr
          (reduces r.cr = false → off + len ≤ dstBytes r.cr g.members.length → e.collData a g j = put e (r.cr.dst + off)) ∧
          (reduces r.cr = true → r.cr.det = true → (aget r.got j).getD 0 < r.cr.chunk → j * r.cr.chunk ≤ off →
            off + len ≤ j * r.cr.chunk + r.cr.chunk → e.collData a g j = put e (r.cr.recv + off))) ∧
      (a.pkt.otype = 8 → a.pkt.oflags.getLsbD 5 = false →
        (g.run.any (fun r => r.k == k) = true → exec (.collCtrlReady a) s = .next { s with dev :=
          (((e.atOnce a).setRun i (fun r => { r with ready := r.ready ++ [j] })).collStep i).settleAll }) ∧
        (g.run.any (fun r => r.k == k) = false → g.k < k → exec (.collCtrlReady a) s = .next { s with dev :=
          ((e.atOnce a).setGroup i (fun g => { g with early := g.early ++ [(j, k)] })).settleAll })) ∧
      (a.pkt.otype = 8 → a.pkt.oflags.getLsbD 5 = true → ∃ f u : Dev,
        exec (.collCtrlAbort a) s = .next { s with dev := u.settleAll } ∧
        Dev.Raised [g.owner] { code := 0x8014, ctx := g.owner, unit := i, aux := j, arg0 := k } f u ∧
        (g.run.all (fun r => r.k != k) = true → f = (e.atOnce a).setGroup i (fun g => { g with aborted := true })) ∧
        (g.run.any (fun r => r.k == k) = true →
          f.net.groups = ((e.atOnce a).setGroup i (fun g => { g with run := none, aborted := true })).net.groups ∧
          ∀ x ∈ f.net.spaces, ∀ t ∈ x.waiting, t.owner ≠ 1 + i))) ∧
    (∀ r, aget s.dev.net.groups i = some g → g.run = some r → r.lost = false →
      let c := r.cr
      let n := g.members.length
      let me := s.dev.myIndex g
      let others := (List.range n).filter (fun j => j != me)
      (∀ j ∈ others, s.dev.outstanding i (nth g.members j) = false ∧ (sendsTo c me j = true → j ∈ r.sent)) →
      r.vis = expects c n me → (reduces c = true → r.reduced = true) →
      (c.cop = 1 → (∀ j ∈ others, j ∈ r.sent2) ∧ r.vis2 = (n - 1) * c.chunk) →
      let d := s.dev.setGroup i (fun g => { g with run := none })
      (c.doneSo = none → exec (.collComplete i) s = .next { s with dev := d }) ∧
      (∀ o, c.doneSo = some o → Dev.holds (d.ctx g.owner) = true → d.objVal g.owner o + c.doneN ≤ 0xFFFFFFFF →
        exec (.collComplete i) s = .next { s with dev := d.setCtx g.owner (fun x =>
          { x with objs := aset x.objs o (BitVec.ofNat 32 (d.objVal g.owner o + c.doneN)) }) }))

/-- R380, R386 to R394, R426: a triggered stream takes its object and queues the next descriptor of its ring, or records why
not; an idle engine takes the oldest frame of the next stream with one. A frame that is done is recorded: with poison, with an
error of the bitstream, as too large for its ring, or with where its bitstream stands, in a buffer none uses, and what it leaves
marked; a destroy that waits for it goes on. The record is the 32 bytes of R392 in the ring, counted, signalled, and with an
event for a status 1 to 3. When a frame is read and written, and what a damaged one leaves, are the model's own choices (log
entries 127, 132, 134); what a coder makes of a frame is a free value (log entry 14). Rows: `codecTrigger`, `codecFrameStart`,
`codecFrameDone`. -/
def Obligations.CodecFramesRun : Prop :=
  ∀ (s : State),
    (∀ (d : Dev) n x tag status flags buf off len order, d.cstream n = some x →
      let f := d.store Access.io 0 (x.crec + 32 * x.cpos) (leBytes 4 tag ++ leBytes 1 status ++ leBytes 1 flags ++ leBytes 2 buf
        ++ leBytes 8 off ++ leBytes 4 len ++ leBytes 4 order ++ leBytes 4 d.tu.tick.toNat ++ leBytes 4 (x.cseq + 1)) (fun _ => false)
      let g := (f.setCstream n (fun y => { y with cseq := y.cseq + 1, cpos := (y.cpos + 1) % Nat.max 1 y.crecN })).cnt 0x50 (n / 32) 1
      let h := if x.detached then g else x.done.elim g (fun o => g.post x.ctx o 1)
      (1 ≤ status → status ≤ 3 → Dev.Raised (if x.mbox = 0 then [] else [x.mbox])
        { code := 0x8015, kind := 2, unit := n, reason := status, arg0 := tag } h (d.codecRecord n tag status flags buf off len order)) ∧
      (status = 0 ∨ 3 < status → d.codecRecord n tag status flags buf off len order = h)) ∧
    (∀ n x o, s.dev.cstream n = some x → x.trig = some o → x.detached = false → x.closing = none →
      s.dev.svcOf 2 (n / 32) = .inService → x.queue.length + x.held.length < 8 → s.dev.objVal x.ctx o ≠ 0 →
      let d := s.dev.setCtx x.ctx (fun c => { c with objs := aset c.objs o (BitVec.ofNat 32 (s.dev.objVal x.ctx o - 1)) })
      let r := d.ioFetch (fringBase x.crec x.crecN + 256 * x.fpos) 192
      let e := r.2.setCstream n (fun y => { y with fpos := (y.fpos + 1) % Nat.max 1 y.fringN })
      (r.1.2 ≠ [] → exec (.codecTrigger n) s = .next { s with dev := e.codecRecord n (fld r.1.1 0 4) 1 0 0 0 0 0 }) ∧
      (r.1.2 = [] → (∃ k ∈ descChks e x r.1.1, k.1 = false) →
        exec (.codecTrigger n) s = .next { s with dev := e.codecRecord n (fld r.1.1 0 4) 5 0 0 0 0 0 }) ∧
      (r.1.2 = [] → (∀ k ∈ descChks e x r.1.1, k.1 = true) →
        exec (.codecTrigger n) s = .next { s with dev := e.setCstream n (CStream.submit (descOf r.1.1)) })) ∧
    (∀ k n x f rest, let e := s.dev.codec.getD k {}
      e.cur = none → (e.svc = .inService ∨ e.svc = .draining) → s.dev.nextStream k = some n → s.dev.cstream n = some x →
      x.queue = f :: rest →
      let r := s.dev.readInput x f
      let key := if x.decode then Config.decKey x.settings x.enc r.1.1 else startsKey x f
      let p := if key || (!x.decode && x.gop == 0) || (x.decode && x.broken) then (false, r.2) else r.2.readRefs x
      let job : CodecJob := { stream := n, desc := f, key := key, input := r.1.1, poison := r.1.2 || p.1 }
      let q := (p.2.setCstream n (fun y => { y with queue := rest })).setCodec k (fun e => { e with cur := some job, last := n % 32 })
      exec (.codecFrameStart k) s = .next { s with dev := q }) ∧
    (∀ k j x, (s.dev.codec.getD k {}).cur = some j →
      let d := s.dev.setCodec k (fun e => { e with cur := none })
      d.cstream j.stream = some x →
      let n := j.stream
      let tag := j.desc.tag
      let close (f : Dev) : Dev := (f.endStream n).tryRelease x.mbox
      (x.decode = false → j.poison = true →
        let e := d.setCstream n (fun y => atEos j { y with owed := y.owed || (y.gop == 2 && j.key) })
        exec (.codecFrameDone k) s = .next { s with dev := close (e.codecRecord n tag 1 0 0 0 0 0) }) ∧
      (x.decode = true → j.poison = true → (x.broken = false ∨ j.key = true) →
        let e := d.setCstream n (fun y => { y with broken := true })
        exec (.codecFrameDone k) s = .next { s with dev := close (e.codecRecord n tag 1 0 0 0 0 0) }) ∧
      (x.decode = true → (j.poison = false ∨ x.broken = true ∧ j.key = false) →
        let bad := Config.decError x.settings x.enc j.input = true ∨ x.broken = true ∧ j.key = false
        let nxt := Config.decNext x.settings x.enc j.input
        (bad → exec (.codecFrameDone k) s = .next { s with dev :=
          (close ((d.setCstream n (fun y => { y with enc := nxt })).codecRecord n tag 2 0 0 0 0 0)) }) ∧
        (¬ bad → ∃ (buf : Nat) (e : Dev) (short long : List Nat),
          (∀ i ∈ unusedBufs x, buf ∈ unusedBufs x) ∧
          (let marks := buf :: x.refs.length :: x.refs ++ x.ltrs.map (fun p => p.2)
           short = ((Config.decShort x.settings x.enc j.input marks).filter (fun b => b < x.nbuf)).eraseDups ∧
           long = ((Config.decLong x.settings x.enc j.input marks).filter (fun b => b < x.nbuf && !short.contains b)).eraseDups) ∧
          e.cstream n = some { x with enc := nxt, broken := false, refs := short, ltrs := long.zipIdx.map (fun p => (p.2, p.1)) } ∧
          exec (.codecFrameDone k) s = .next { s with dev := close (e.codecRecord n tag 0 (b2n j.key + 2 * b2n (long.contains buf))
            buf 0 0 (Config.decOrder x.settings x.enc j.input)) })) ∧
      (x.decode = false → j.poison = false →
        let order := orderOf x j
        let bs := Config.encBits x.settings x.enc (codedFrame x j order)
        (x.ringSize < bs.length → exec (.codecFrameDone k) s = .next { s with dev := close ((d.setCstream n (fun y =>
          atEos j { y with enc := Config.freeNat d.fresh, owed := y.owed || (y.gop == 2 && j.key) })).bump.codecRecord n tag 3 0 0 0 0 0) }) ∧
        (bs.length ≤ x.ringSize →
          let off := if x.ringSize < x.wpos + bs.length then 0 else x.wpos
          ∃ (buf : Nat) (e : Dev) (y : CStream),
            (let free := unusedBufs (if j.key then { x with refs := [], ltrs := [] } else x)
             ∀ i ∈ free, buf ∈ free) ∧
            e.mem = ((d.bump.writePool x buf).store Access.io 0 (x.ring + off) bs (fun _ => false)).mem ∧ e.cstream n = some y ∧ y.wpos = off + bs.length ∧
            y.enc = Config.encNext x.settings x.enc (codedFrame x j order) ∧
            y.refs = (marksAfter x j buf).refs ∧ y.ltrs = (marksAfter x j buf).ltrs ∧
            (x.gop ≠ 2 → y.order = order + 1 ∧ y.needKey = bit j.desc.flags 3) ∧
            (x.gop = 2 → j.key = true → y.owed = false ∧ y.base = j.desc.order) ∧
            exec (.codecFrameDone k) s = .next { s with dev := close (e.codecRecord n tag 0 (b2n j.key + 2 * b2n (bit j.desc.flags 1))
              buf off bs.length order) })))

/-- R19, R430, R431, R458 to R465: a unit whose work has drained is `DISABLED` and off, which is reported, and one that outlasts
its bound is reported once; domains ramp one at a time. The cap holds matrix tiles back above it, until 2 % above it. A sweep is
kept, and dies and rails that leave or regain their bounds are reported; a die at 125 °C or a stack at 115 °C asserts the trip.
What a drain waits for, its count, the domains without an event, the cap's band and the flags of a sweep are the model's own
choices (log entries 137, 139, 140, 141, 142). Rows: `unitDrainComplete`, `drainTimeout`, `domainRampDone`, `powerCapRegulate`,
`telemetrySweep`, `thermtripAssert`. -/
def Obligations.UnitsAndPower : Prop :=
  ∀ (s : State),
    (∀ kind i, kind ≤ 3 → s.dev.fitted kind i = true → s.dev.svcOf kind i = .draining →
      (s.dev.inFlight kind i = 0 → exec (.unitDrainComplete kind i) s = .next { s with dev := (s.dev.disable kind i).startBist (i / 16) } ∧
        (kind = 1 → ∃ u, s.dev.disable kind i = u.recheckUnits ∧ Dev.Raised [] { code := 0x8010, kind := 1, unit := i, reason := 2 }
          ((s.dev.setEng i (fun e => { e with svc := .disabled })).setDom (40 + i) false) u)) ∧
      (s.dev.inFlight kind i ≠ 0 → (s.dev.drainInfo kind i).2 = false →
        let d := { s.dev with now := Nat.max s.dev.now ((s.dev.drainInfo kind i).1 + drainBound kind) }
        ∃ t, exec (.drainTimeout kind i) s = .next t ∧ t = { s with dev := t.dev } ∧
          Dev.Raised [] { code := 0x800F, kind := kind, unit := i, arg0 := s.dev.inFlight kind i }
            (d.setDrain kind i (s.dev.drainInfo kind i).1 true) t.dev)) ∧
    (∀ j x rest, s.dev.power.job = some j → j.ramp = x :: rest →
      let d : Dev := { s.dev with
        now := Nat.max s.dev.now (s.dev.now + 100000), power := { s.dev.power with job := some { j with ramp := rest } } }
      exec .domainRampDone s = .next { s with dev := (d.ramped x).endPowerJob } ∧ (d.ramped x).domOn x = (x < 56 &&
        !(40 ≤ x && x < 48 && (d.stack (x - 40)).st == 2))) ∧
    (let c := s.dev.power.cap
     let w := s.dev.power.sweep.watts
     (c = 0 ∨ w ≤ c → exec .powerCapRegulate s = .next { s with dev := { s.dev with power := { s.dev.power with hold := false } } }) ∧
     (c ≠ 0 → c * 102 < w * 100 →
       exec .powerCapRegulate s = .next { s with dev := { s.dev with power := { s.dev.power with hold := true } } }) ∧
     (c < w → w * 100 ≤ c * 102 → exec .powerCapRegulate s = .next { s with dev := { s.dev with power :=
       { s.dev.power with hold := c != 0 && !s.dev.power.hold } } })) ∧
    (∀ r, s.dev.st ≠ .cold → ∃ t, exec (.telemetrySweep r) s = .next t ∧ t = { s with dev := t.dev } ∧
      let m := s.dev.maskSweep r
      t.dev.power.sweep = m ∧ ∀ i < 5, i < s.dev.power.hot.length →
        (s.dev.dieOn i = false → t.dev.power.hot.getD i false = false) ∧
        (s.dev.dieOn i = true → (105 < m.dieMax i → t.dev.power.hot.getD i false = true) ∧
          (m.dieMax i < 102 → t.dev.power.hot.getD i false = false) ∧
          (102 ≤ m.dieMax i → m.dieMax i ≤ 105 → t.dev.power.hot.getD i false = s.dev.power.hot.getD i false))) ∧
    (∀ i v, s.dev.fwUp = true → 
      (s.dev.power.hot.getD i false = false → 105 < v → Dev.Raised [] { code := 0x800D, unit := i, aux := v }
        { s.dev with power := { s.dev.power with hot := s.dev.power.hot.set i true } } (s.dev.thermal i v)) ∧
      (i ∉ s.dev.power.railBad → s.dev.railOk i v = false → Dev.Raised [] { code := 0x800E, unit := i, arg0 := v }
        { s.dev with power := { s.dev.power with railBad := s.dev.power.railBad ++ [i] } } (s.dev.rail i v)) ∧
      (i ∈ s.dev.power.railBad → s.dev.railOk i v = true → Dev.Raised [] { code := 0x800E, unit := i, reason := 1, arg0 := v }
        { s.dev with power := { s.dev.power with railBad := s.dev.power.railBad.erase i } } (s.dev.rail i v))) ∧
    (∀ r, s.pins.thermtrip = false → ((∃ i < 5, s.dev.dieThere i = true ∧ 125 ≤ r.dieMax i) ∨ (∃ i < s.dev.nStacks, 115 ≤ nth r.stack i)) →
      ∃ t, exec (.thermtripAssert r) s = .next t ∧ t.pins = { s.pins with thermtrip := true } ∧
        (s.dev.st ≠ .cold → t.dev.power.thermtripNs = some s.dev.now) ∧ (s.dev.fwUp = false → s.dev.st = .cold → t.dev = s.dev))

/-- R129, R310, R398 to R402, R406 to R410, R430: `COLD` keeps the fuses, the flash and the test port and nothing else of what
runs; on leaving it the ROM tries its images and halts with none; an image that verifies starts, and firmware that runs within
its second brings up `LINK`. A stack that trains is in service and reads zero, a tested Square reads zero, and so do a tested
cluster's core buffers and the objects homed in it (all while no trace is kept, whose records could be written there); a cluster
that passes is in service, one that fails is off; the full clock is reached in a maintenance window. What `COLD` keeps beside
what R398 names, the codes of a start without a clock or flash, and the events of bring-up are the model's own choices (log
entries 15, 16, 17, 25). Rows: `enterCold`, `leaveCold`, `imageVerified`, `fwRunning`, `fwStartTimeout`, `stackTrainingDone`,
`squareBistDone`, `clusterBistDone`, `fullClockStep`. -/
def Obligations.StartUp : Prop :=
  ∀ (s : State),
    (∀ p r, (p = false ∨ r = false) →
      (s.dev.st = .cold → exec (.enterCold p r) s = .next { s with pins := { s.pins with pwrOk := p, resetN := r } }) ∧
      (s.dev.st ≠ .cold → exec (.enterCold p r) s = .next { s with
        pins := { pwrOk := p, resetN := r, thermtrip := false }
        dev := { part := s.dev.part, fresh := s.dev.fresh + 1, i3c := { mute := s.tap.owns },
                 net := { wire := s.dev.net.wire, replies := s.dev.net.replies } } })) ∧
    (s.dev.st = .cold → ∀ boot i3c,
      let b : Boot := { strapBoot := boot, strapI3c := i3c }
      let s' : State := { s with pins := { s.pins with pwrOk := true, resetN := true }, dev := { s.dev with now := 0, boot := b } }
      (∃ t, exec (.leaveCold boot i3c false) s = .next t ∧ t.dev.st = .halted ∧ t.dev.boot.bootErr = 9) ∧
      (boot = true → exec (.leaveCold boot i3c true) s = .next { s' with dev := s'.dev.setState .rom }) ∧
      (boot = false → s.flash.usable = false →
        ∃ t, exec (.leaveCold boot i3c true) s = .next t ∧ t.flash = s.flash ∧ t.dev.st = .halted ∧ t.dev.boot.bootErr = 1) ∧
      (boot = false → s.tap.owns = false → s.flash.usable = true → s.flash.sel.trial = 0 →
        let a := s.flash.sel.primary
        (headerCode s.otp (s.flash.image a) = 0 → ∃ t, exec (.leaveCold boot i3c true) s = .next t ∧ t.flash = s.flash ∧
          t.dev.st = .fwCheck ∧ t.dev.boot.order = [a, 1 - a] ∧ t.dev.boot.trial = false) ∧
        (headerCode s.otp (s.flash.image a) ≠ 0 → headerCode s.otp (s.flash.image (1 - a)) ≠ 0 →
          ∃ t, exec (.leaveCold boot i3c true) s = .next t ∧ t.dev.st = .halted))) ∧
    (s.dev.st = .fwCheck → s.dev.boot.started = false → ∀ i rest, s.dev.boot.order = i :: rest →
      (s.tap.owns = false → (s.flash.image i).verified = true → ∃ t, exec (.imageVerified false) s = .next t ∧ t = { s with dev := t.dev } ∧
        t.dev.st = .fwCheck ∧ t.dev.boot.started = true ∧ t.dev.boot.image = i ∧ t.dev.boot.startNs = s.dev.now ∧
        t.dev.boot.fwDigest = (s.flash.image i).digest ∧ t.dev.boot.fwVersion.toNat = (s.flash.image i).f 8 4) ∧
      (s.tap.owns = false → (s.flash.image i).verified = false →
        exec (.imageVerified false) s = .next { s with dev := s.dev.nextImage s.otp s.flash false 6 }) ∧
      exec (.imageVerified true) s = .next { s with dev := s.dev.nextImage s.otp s.flash s.tap.owns 7 }) ∧
    (s.dev.st = .fwCheck → s.dev.boot.started = true →
      exec .fwStartTimeout s = .next { s with dev :=
        ({ s.dev with now := Nat.max s.dev.now (s.dev.boot.startNs + 1000000000) }).nextImage s.otp s.flash s.tap.owns 8 } ∧
      (s.dev.boot.startNs + 1000000000 < s.dev.now → exec .fwRunning s = .next s) ∧
      (s.dev.now ≤ s.dev.boot.startNs + 1000000000 → ∃ t, exec .fwRunning s = .next t ∧ t = { s with dev := t.dev } ∧ t.dev.st = .link ∧ t.dev.boot.running = true ∧
        t.dev.net.fab = s.flash.params.fabric.getD {} ∧ t.dev.mcfg.strength = s.flash.params.strength.getD 2 ∧
        ∀ i < 56, t.dev.domOn i = s.dev.domainFitted i)) ∧
    (s.dev.fwUp = true →
      (∀ k, k < s.dev.nStacks → (s.dev.stack k).st = 1 → k < s.dev.stk.length →
        (∃ t, exec (.stackTrainingDone k true) s = .next t ∧ t = { s with dev := t.dev } ∧ (t.dev.stack k).st = 0 ∧
          (t.dev.stack k).serviceNs = s.dev.now ∧ ∀ a, svBase k ≤ a → a < svBase k + s.dev.perStack →
            t.dev.trace.cfg.tclass = 0 → t.dev.mem.byte a = 0) ∧
        (∃ t, exec (.stackTrainingDone k false) s = .next t ∧ (t.dev.stack k).st = 2)) ∧
      (∀ die failed, die < s.dev.nDies → (s.dev.square die).bist = false → die < s.dev.sq.length →
        ∃ t, exec (.squareBistDone die failed) s = .next t ∧ t = { s with dev := t.dev } ∧ (t.dev.square die).bist = true ∧
          (t.dev.square die).failed = failed &&& (s.dev.square die).quadOn ∧ ∀ a, sqBase die ≤ a → a < sqBase die + 20 * 2 ^ 25 →
            t.dev.trace.cfg.tclass = 0 → t.dev.mem.byte a = 0)) ∧
    (∀ i pass, i < s.dev.nClusters → (s.dev.cluster i).bist = true →
      ∃ t, exec (.clusterBistDone i pass) s = .next t ∧ t = { s with dev := t.dev } ∧ (t.dev.cluster i).bist = false ∧
        (t.dev.cluster i).passed = pass ∧ (t.dev.cluster i).failed = !pass ∧
        (t.dev.cluster i).svc = (if pass then Svc.inService else .off) ∧
        (∀ c a, c < 12 → coreBase + (12 * i + c) * 2 ^ 20 ≤ a → a < coreBase + (12 * i + c) * 2 ^ 20 + 2 ^ 19 →
          t.dev.trace.cfg.tclass = 0 → t.dev.mem.byte a = 0) ∧
        ∀ n x, n / 512 = i → aget (t.dev.ctx s.dev.slots.resident).objs n = some x → x = 0) ∧
    (s.dev.st = .reduced → (∀ k < s.dev.nStacks, (s.dev.stack k).st = 0) → (∀ i < s.dev.nClusters, (s.dev.cluster i).tested = true) →
      s.dev.slots.window = true → s.dev.executing = 0 → s.dev.now + 20000 ≤ s.dev.tu.startNs + s.dev.tu.cfg.maint →
      ∃ t, exec .fullClockStep s = .next t ∧ t = { s with dev := t.dev } ∧ t.dev.fast = true ∧ t.dev.st = .full ∧
        t.dev.now = s.dev.now + 20000)

/-- R311, R317, R319, R414, R415: a staged image is in its slot once it is programmed, or the slot stays empty and the command
is answered so; a burned repair is in the fuses, and a burned rollback count raises the counter and commits the image. The
answer to a staging that does not program, a burn that does not verify, and its count are the model's own choices (log entries
21, 22, 11). Rows: `stagingComplete`, `fuseBurnComplete`. -/
def Obligations.FlashAndFuses : Prop :=
  ∀ (s : State) (c : MbCmd), (s.dev.mbox 0).queue.head? = some c → c.busy = true → c.done = none →
    (∀ m, s.dev.staging = some m → s.flash.present = true → s.tap.owns = false → c.msg = 0xB0 →
      (∃ t, exec (.stagingComplete true) s = .next t ∧ t.otp = s.otp ∧ t.flash = s.flash.setImage s.dev.inactive (some m) ∧
        t.dev.staging = none ∧ Dev.Answered 0 c 0 0 false [] s.dev t.dev) ∧
      (∃ t, exec (.stagingComplete false) s = .next t ∧ t.otp = s.otp ∧ t.flash = s.flash ∧ t.dev.staging = none ∧
        Dev.Answered 0 c 7 s.dev.devDetail false [] s.dev t.dev)) ∧
    (∀ r n, s.dev.burn = some (some r, n) → c.msg = 0x90 →
      let o := { s.otp with repairs := s.otp.repairs ++ [r] }
      (∃ t, exec (.fuseBurnComplete true) s = .next t ∧ t.otp = o ∧ t.flash = s.flash ∧ t.dev.burn = none ∧
        Dev.Answered 0 c 0 0 false (leBytes 4 (sparesLeft o r.stack r.pch r.column)) s.dev t.dev) ∧
      (∃ t, exec (.fuseBurnComplete false) s = .next t ∧ t.otp = o ∧ t.flash = s.flash ∧ t.dev.burn = none ∧
        Dev.Answered 0 c 7 ((s.dev.stack r.stack).st + 256) false [] s.dev t.dev)) ∧
    (∀ n, s.dev.burn = some (none, n) → c.msg = 0xB1 →
      let top := Nat.max s.otp.rollback (Nat.min 128 n)
      (∃ t, exec (.fuseBurnComplete true) s = .next t ∧ t.otp = { s.otp with rollback := top } ∧
        t.flash = commit s.flash s.dev.boot.image ∧ t.dev.burn = none ∧ Dev.Answered 0 c 0 0 false (leBytes 2 top) s.dev t.dev) ∧
      (∃ t, exec (.fuseBurnComplete false) s = .next t ∧ s.otp.rollback ≤ t.otp.rollback ∧ t.otp.rollback ≤ top ∧ t.flash = s.flash ∧
        t.dev.burn = none ∧ Dev.Answered 0 c 7 s.dev.devDetail false [] s.dev t.dev))

/-- R399, R416, R417, R464: the I3C target gives its identity as it takes an address, gives the address up, enables its
interrupt, points at a byte and reads from there, round the 64 bytes of its space; in `COLD`, with its strap or while the lands
are taken it does nothing. The sensors are renewed. How the in-band interrupt is enabled and the offset moves are the model's
own choices (log entry 28). Rows: `i3cEntdaa`, `i3cRstdaa`, `i3cEnec`, `i3cPrivateWrite`, `i3cPrivateRead`,
`i3cStatusRefresh`. -/
def Obligations.I3cTargetAnswers : Prop :=
  ∀ (s : State),
    (s.dev.i3cOn = true →
      (∀ a, s.dev.i3c.addr = none →
        exec (.i3cEntdaa a) s = .next { s with dev := { s.dev with i3c :=
          { s.dev.i3c with addr := some a, last := i3cIdentity s.otp } } }) ∧
      (∀ a b, s.dev.i3c.addr = some b → exec (.i3cEntdaa a) s = .next s) ∧
      exec .i3cRstdaa s = .next { s with dev := { s.dev with i3c := { s.dev.i3c with addr := none } } } ∧
      (∀ en, exec (.i3cEnec en) s = .next { s with dev := { s.dev with i3c := { s.dev.i3c with enint := s.dev.i3c.enint || en } } }) ∧
      (∀ a, s.dev.i3c.addr = some a →
        (∀ o, exec (.i3cPrivateWrite o) s = .next { s with dev := { s.dev with i3c := { s.dev.i3c with off := o.toNat % 64 } } }) ∧
        (∀ n, ∃ t, exec (.i3cPrivateRead n) s = .next t ∧ t = { s with dev := { s.dev with i3c := t.dev.i3c } } ∧
          t.dev.i3c = { s.dev.i3c with last := t.dev.i3c.last, off := (s.dev.i3c.off + n) % 64 } ∧ t.dev.i3c.last.length = n ∧
          ∀ i < n, t.dev.i3c.last.getD i 0 = (s.dev.cxBytes s.otp).getD ((s.dev.i3c.off + i) % 64) 0))) ∧
    (s.dev.i3cOn = false → ∀ a en o n, exec (.i3cEntdaa a) s = .next s ∧ exec .i3cRstdaa s = .next s ∧ exec (.i3cEnec en) s = .next s ∧
      exec (.i3cPrivateWrite o) s = .next s ∧ exec (.i3cPrivateRead n) s = .next s) ∧
    (s.dev.st ≠ .cold → ∀ r, ∃ b, exec (.i3cStatusRefresh r) s = .next { s with dev :=
        { s.dev with i3c := { s.dev.i3c with sensors := b } } } ∧ b.length = 20 ∧
      (b[0]? = some (BitVec.ofNat 8 ((s.dev.maskSweep r).dieMax 0))) ∧
      (s.dev.dieOn 0 = false → b[0]? = some 0)) ∧
    (s.dev.i3c.sensors.length = 20 → (s.dev.cxBytes s.otp).length = 64 ∧
      (s.dev.cxBytes s.otp)[0]? = some (BitVec.ofNat 8 s.dev.st.code) ∧
      (s.dev.cxBytes s.otp)[1]? = some (BitVec.ofNat 8 s.dev.boot.bootErr))

/-- R5, R466 to R470: the port resets to `IDCODE`; instructions that take the lands bring the links down and drive the register,
where the lock level allows them, and act as `BYPASS` where not; every other gives the lands back. Opcodes reserved to the
manufacturer are not disclosed at lock level 0 and act as `BYPASS` above it. Update-DR drives or preloads the cells, Capture-DR
takes the lands into them; while the register owns the lands, its cells drive `TICK_OUT` and `PPS_OUT`. The opcodes that act as
`BYPASS`, the undisclosed registers and what the operands stand for are the model's own choices (log entries 5, 29, 30). Rows:
`tapReset`, `extest`, `samplePreload`, `idcode`, `clamp`, `highz`, `extestPulse`, `extestTrain`, `bypass`, `rosarnPrivate`,
`updateDr`. -/
def Obligations.TestAccessPort : Prop :=
  ∀ (s : State),
    (∀ row op, (row, op) ∈ [(Instr.tapReset, (0x02 : Byte)), (.idcode, 0x02)] → exec row s = .next (giveBack (loadIr op s)) ∧
      tapRegister (giveBack (loadIr op s)) = (32, s.dev.part.idcode.toNat)) ∧
    (∀ op, exec (.bypass op) s = .next (giveBack (loadIr op s))) ∧
    (∀ cells, ∃ t, exec (.samplePreload cells) s = .next t ∧ t.tap.bsr = cells ∧ t.tap.ir = 0x01 ∧ t.tap.owns = false) ∧
    (s.tap.owns = false → ∀ op, giveBack (loadIr op s) =
      { s with tap := { s.tap with ir := op, captured := 0x01, highz := false, train := false } }) ∧
    (s.tap.owns = true → ∀ op, (giveBack (loadIr op s)).tap =
        { s.tap with ir := op, captured := 0x01, owns := false, highz := false, train := false } ∧
      (giveBack (loadIr op s)).dev.i3c = { (giveBack (loadIr op s)).dev.i3c with mute := false }) ∧
    (∀ row op hiz, (row, op, hiz) ∈ [(Instr.extest, (0x00 : Byte), false), (.clamp, 0x03, false), (.highz, 0x04, true),
        (.extestPulse, 0x05, false), (.extestTrain, 0x06, false)] →
      (extestAllowed s = false → exec row s = .next (giveBack (loadIr 0xFF s))) ∧
      (extestAllowed s = true → ∃ t, exec row s = .next t ∧ t = { s with dev := t.dev, tap := t.tap } ∧
        t.tap = { s.tap with ir := op, captured := 0x01, owns := true, drive := s.tap.bsr, highz := hiz, train := false } ∧
        (s.tap.owns = true → t.dev = s.dev) ∧
        (s.tap.owns = false → t.dev.i3c.mute = true ∧ t.dev.staging = none ∧
          ∀ l < 4, (t.dev.net.links.getD l {}).up = false))) ∧
    (∀ op, s.otp.lock ≠ 0 → exec (.rosarnPrivate op) s = .next (giveBack (loadIr op s))) ∧
    (∀ op, s.otp.lock = 0 → exec (.rosarnPrivate op) s = .refused .undisclosed) ∧
    (∀ cells cap,
      (s.tap.ir ≠ 0x01 → (s.tap.owns = false ∨ s.tap.ir ∉ [(0x00 : Byte), 0x05, 0x06]) → exec (.updateDr cells cap) s = .next s) ∧
      (s.tap.ir = 0x01 → exec (.updateDr cells cap) s = .next { s with tap := { s.tap with
        bsr := if cap then captured s cells else cells } }) ∧
      (captured s cells).getLsbD 37 = s.pins.resetN ∧ (captured s cells).getLsbD 38 = s.pins.pwrOk ∧
      (captured s cells).getLsbD 46 = (cells.getLsbD 46 && !thermtripLow s.tap s.pins) ∧
      (s.tap.owns = true → s.tap.ir ∈ [(0x00 : Byte), 0x05, 0x06] →
        exec (.updateDr cells true) s = .next { s with tap := { s.tap with bsr := captured s cells, train := false } } ∧
        exec (.updateDr cells false) s = .next { s with tap := { s.tap with
          bsr := cells, drive := cells, pulses := s.tap.pulses + (if s.tap.ir = 0x05 then 1 else 0), train := s.tap.ir == 0x06 } })) ∧
    (s.tap.owns = true → tickOut s = s.tap.land 41 42 ∧ ppsOut s = s.tap.land 43 44) ∧
    (s.tap.owns = false → s.dev.st = .cold → tickOut s = some false ∧ ppsOut s = some false)

/-- R91, R322, R340, R421, R422: an event is kept by mailbox 0 and by those it is raised to, and sent to a subscriber at once. A
fault tears its context down and is recorded, where none was: commands of its mailbox that wait are answered, its queued Kerb
commands are gone. A signal adds to its object, and one past the word faults. Events on a full list and the answers of a faulted
context's commands are the model's own readings (log entry 40). -/
def Obligations.EventsAndFaults : Prop :=
  ∀ (d : Dev),
    (∀ mbs e, Dev.Raised mbs e d (d.raise mbs e)) ∧
    (∀ e p, (d.mbox 0).sub = some p → 0 < d.mboxes.length → ∃ u, Dev.Noted d u ∧ (d.trace.cfg.tclass = 0 → u = d) ∧
      ((u.mbox 0).events.length < 64 → (u.sentTo p ++ [eventBytes 0 (u.stamped 0 e)]) <+: (d.raise [] e).sentTo p)) ∧
    (∀ i cls st cmd off info, Dev.holds (d.ctx i) = true →
      let t := d.faultCtx i cls st cmd off info
      d.FaultsAt i { cls := some cls, stream := st, cmd := cmd, offset := off, info := info } t ∧ (t.ctx i).faultNs = d.now ∧
      (∀ c ∈ (t.mbox i).queue, c.done = none → Dev.exemptMsg c.msg = true) ∧
      (∀ k q c, q ∈ (t.eng k).queue → aget d.kcmds q.cmd = some c → c.ctx = i → q.running = true ∧ q.stopped = true) ∧
      (∀ k g, aget d.net.groups k = some g → g.owner = i → ∃ h, aget t.net.groups k = some h ∧ h.run = none)) ∧
    (∀ i cls st cmd off info, Dev.holds (d.ctx i) = false →
      d.faultCtx i cls st cmd off info = if cls = .poison then d.cnt 0x66 i 1 else d) ∧
    (∀ i o n kerb st cmd off info, Dev.holds (d.ctx i) = true →
      (d.objVal i o + n ≤ 0xFFFFFFFF → d.signal i o n kerb st cmd off info =
        d.setCtx i (fun c => { c with objs := aset c.objs o (BitVec.ofNat 32 (d.objVal i o + n)) })) ∧
      (0xFFFFFFFF < d.objVal i o + n → d.signal i o n kerb st cmd off info =
        if kerb then d.faultCtx i .kerb st cmd off info else d.faultCtx i .illegal st cmd off (if st = 0xFE then info else 0))) ∧
    (∀ i o n kerb st cmd off info, Dev.holds (d.ctx i) = false → d.signal i o n kerb st cmd off info = d)

/-- A step runs the command at the front of the queue on the machine with the queue's rest. With none the block idles, which is
the model's own choice (log entry 2): its clock advances by 1 ns, and 10 ms after the trip it promises nothing (R419). -/
def Obligations.StepRunsTheFront : Prop :=
  (∀ c rest s, s.pending = c :: rest → step s = exec c { s with pending := rest }) ∧
  (∀ s, s.pending = [] → (∀ t, s.dev.power.thermtripNs = some t → s.dev.now ≤ t + 10000000) →
    step s = .next { s with dev := { s.dev with now := s.dev.now + 1 } }) ∧
  (∀ s t, s.pending = [] → s.dev.power.thermtripNs = some t → t + 10000000 < s.dev.now → step s = .fault .pastThermtrip)

/-- R31: after reset the Tick Unit has a period of 10 ms from its own source, the default window, `TICK_OUT` disabled and an
empty slot table, and a boundary keeps configuration and table until others are pending; with an empty table no slot begins, and
no row that begins slots and invocations makes a context run. The model's memory after reset has its canonical form, which the
model chooses (log entry 9). Rows: `tickBoundary`, `tickInEdge`, `tickInWindowExpiry`, `reacquireTimeout`, `maintWindowEnd`,
`swapComplete`. -/
def Obligations.ResetTick : Prop :=
  State.reset.dev.tu.cfg.period = 10000000 ∧ State.reset.dev.tu.cfg.source = 0 ∧
  State.reset.dev.tu.cfg.maint = Nat.max 8000 (10000000 * 15 / 1000) ∧ State.reset.dev.tu.cfg.tickOut = false ∧
  State.reset.dev.slots.table = [] ∧ State.reset.dev.tu.pend = none ∧ State.reset.dev.slots.pend = none ∧
  State.reset.dev.executing = 0 ∧ State.reset.dev.mem.wf = true ∧
  (∀ (s t : State) row, (row = .tickBoundary ∨ (∃ w, row = .tickInEdge w) ∨ row = .tickInWindowExpiry ∨ row = .reacquireTimeout) →
    s.dev.tu.pend = none → s.dev.slots.pend = none → exec row s = .next t →
    t.dev.tu.cfg = s.dev.tu.cfg ∧ t.dev.slots.table = s.dev.slots.table) ∧
  (∀ s : State, s.dev.slots.table = [] → ∃ t, exec .slotBegin s = .next t ∧ t.dev.ctxs = s.dev.ctxs ∧ t.dev.slots.cur = s.dev.slots.cur) ∧
  (∀ (s t : State) row, (row = .slotBegin ∨ row = .maintWindowEnd ∨ row = .swapComplete) → s.dev.slots.table = [] →
    exec row s = .next t → ∀ i, (t.dev.ctx i).st = .running → (s.dev.ctx i).st = .running)

/-- R311, R404, R415: no step changes a fuse, but that it may raise the rollback counter or add a repair. How far a burn that
does not verify raises the count is the model's own choice (log entry 22). -/
def Obligations.FusesOnlyBurn : Prop :=
  ∀ s t : State, step s = .next t → Otp.Burned s.otp t.otp

/-- R414, R466: only a command of the test access port changes it, and only a staging changes an image in flash; what the board
fixes of the flash, and the area left to its own use, stay. Every step keeps the canonical form of memory: cells at rising
addresses, none zero, which is the model's own form (log entry 9). -/
def Obligations.PortAndImagesAreTheirOwn : Prop :=
  ∀ s t : State, step s = .next t →
    (s.dev.mem.wf = true → t.dev.mem.wf = true) ∧
    ((∀ c, s.pending.head? = some c → isTap c = false) → t.tap = s.tap) ∧
    ((∀ c, s.pending.head? = some c → writesImages c = false) → t.flash.imgA = s.flash.imgA ∧ t.flash.imgB = s.flash.imgB) ∧
    { t.flash with sel0 := s.flash.sel0, sel1 := s.flash.sel1, par0 := s.flash.par0, par1 := s.flash.par1
                   imgA := s.flash.imgA, imgB := s.flash.imgB } = s.flash
end

