-- ==== Sys2Proof/Laws/Mem.lean ====
section
/-! SUPPORT. Stored bytes: every operation keeps the canonical form, and what a byte reads as after it. -/

namespace Sys2Proof.Machine
namespace Mem

/-- The canonical form as a proposition over the cells. -/
def CellsWf (l : List Host.Cell) : Prop := l.Pairwise (fun p q => p.1 < q.1) ∧ ∀ p ∈ l, p.2 ≠ 0

theorem wf_iff (m : Mem) : m.wf = true ↔ CellsWf m.cells := by
  simp [wf, CellsWf]

theorem CellsWf.filter {l : List Host.Cell} (h : CellsWf l) (p : Host.Cell → Bool) : CellsWf (l.filter p) :=
  ⟨h.1.filter p, fun x hx => h.2 x ((List.mem_filter.mp hx).1)⟩

theorem cellsFrom_zero (k : Nat) (bs : List Byte) : cellsFrom k (0 :: bs) = cellsFrom (k + 1) bs := rfl
theorem cellsFrom_cons {k : Nat} {b : Byte} {bs : List Byte} (h : b ≠ 0) :
    cellsFrom k (b :: bs) = (k, b) :: cellsFrom (k + 1) bs := by
  exact if_neg (by simpa using h)

theorem mem_cellsFrom {k : Nat} {bs : List Byte} {p : Host.Cell} (h : p ∈ cellsFrom k bs) :
    k ≤ p.1 ∧ p.1 < k + bs.length ∧ p.2 ≠ 0 := by
  induction bs generalizing k with
  | nil => simp [cellsFrom] at h
  | cons b bs ih =>
    rw [List.length_cons]
    by_cases hb : b = 0
    · subst hb
      have := ih h
      exact ⟨by omega, by omega, this.2.2⟩
    · rw [cellsFrom_cons hb] at h
      rcases List.mem_cons.mp h with rfl | h
      · exact ⟨Nat.le_refl _, by simp only; omega, hb⟩
      · have := ih h
        exact ⟨by omega, by omega, this.2.2⟩

theorem cellsFrom_wf (k : Nat) (bs : List Byte) : CellsWf (cellsFrom k bs) := by
  refine ⟨?_, fun p hp => (mem_cellsFrom hp).2.2⟩
  induction bs generalizing k with
  | nil => exact .nil
  | cons b bs ih =>
    by_cases hb : b = 0
    · subst hb; exact ih (k + 1)
    · rw [cellsFrom_cons hb]
      exact List.pairwise_cons.mpr ⟨fun q hq => by have := (mem_cellsFrom hq).1; simp only; omega, ih (k + 1)⟩

theorem splice_wf {l : List Host.Cell} (h : CellsWf l) (k : Nat) (bs : List Byte) : CellsWf (splice l k bs) := by
  unfold splice
  refine ⟨List.pairwise_append.mpr ⟨List.pairwise_append.mpr ⟨(h.filter _).1, (cellsFrom_wf k bs).1, fun a ha b hb => ?_⟩,
    (h.filter _).1, fun a ha b hb => ?_⟩, fun p hp => ?_⟩
  · have h1 := (List.mem_filter.mp ha).2; have h2 := (mem_cellsFrom hb).1
    simp only [decide_eq_true_eq] at h1; omega
  · have h2 := (List.mem_filter.mp hb).2
    simp only [decide_eq_true_eq] at h2
    rcases List.mem_append.mp ha with ha | ha
    · have h1 := (List.mem_filter.mp ha).2
      simp only [decide_eq_true_eq] at h1; omega
    · have := (mem_cellsFrom ha).2.1; omega
  · rcases List.mem_append.mp hp with hp | hp
    · rcases List.mem_append.mp hp with hp | hp
      · exact (h.filter _).2 p hp
      · exact (cellsFrom_wf k bs).2 p hp
    · exact (h.filter _).2 p hp

/-- Writing keeps the canonical form. -/
theorem write_wf {m : Mem} (h : m.wf = true) (k : Nat) (bs : List Byte) : (m.write k bs).wf = true :=
  (wf_iff _).mpr (splice_wf ((wf_iff m).mp h) k bs)

/-- Making a range undefined keeps it. -/
theorem undefine_wf {m : Mem} (h : m.wf = true) (k n tag : Nat) : (m.undefine k n tag).wf = true :=
  (wf_iff _).mpr (((wf_iff m).mp h).filter _)

/-- Poison, checks, parities and damage stand beside the cells. -/
theorem setPoison_wf {m : Mem} (h : m.wf = true) (l : Nat) (b : Bool) : (m.setPoison l b).wf = true := h

theorem cells_wf {m t : Mem} (h : m.wf = true) (hc : t.cells = m.cells) : t.wf = true := by
  rw [wf_iff] at *; rwa [hc]

/-- So does zeroing what a training or a test leaves zero. -/
theorem filter_wf {m t : Mem} {p : Host.Cell → Bool} (h : m.wf = true) (hc : t.cells = m.cells.filter p) : t.wf = true := by
  rw [wf_iff] at *; rw [hc]; exact h.filter p

/-- The memory of the reset state has the form. -/
theorem reset_wf : State.reset.dev.mem.wf = true := by decide

/-- The cell of an address, as `byte` looks it up. -/
theorem find_cellsFrom (k j : Nat) (bs : List Byte) :
    (((cellsFrom k bs).find? (fun p => p.1 == j)).map Prod.snd).getD 0 = if k ≤ j ∧ j < k + bs.length then bs.getD (j - k) 0 else 0 := by
  induction bs generalizing k with
  | nil => simp [cellsFrom]
  | cons b bs ih =>
    have step (hj : k ≠ j) : (if k + 1 ≤ j ∧ j < k + 1 + bs.length then bs.getD (j - (k + 1)) 0 else 0) =
        if k ≤ j ∧ j < k + (b :: bs).length then (b :: bs).getD (j - k) 0 else 0 := by
      rw [List.length_cons]
      by_cases h1 : k ≤ j ∧ j < k + (bs.length + 1)
      · have h3 : j - k = (j - (k + 1)) + 1 := by omega
        rw [if_pos h1, if_pos (by omega), h3, List.getD_cons_succ]
      · rw [if_neg h1, if_neg (by omega)]
    by_cases hb : b = 0
    · subst hb
      rw [cellsFrom_zero, ih]
      by_cases hj : k = j
      · subst hj
        rw [if_neg (by omega), if_pos (by simp), Nat.sub_self]; rfl
      · exact step hj
    · rw [cellsFrom_cons hb, List.find?_cons]
      by_cases hj : k = j
      · subst hj; simp
      · simp only [beq_eq_false_iff_ne.mpr hj]
        rw [ih]; exact step hj

theorem find_defined (k n j : Nat) (l : List (Nat × Nat × Nat)) (h : j < k ∨ k + n ≤ j) :
    ((defined k n l).find? (fun r => r.1 ≤ j && j < r.2.1)).map (fun r => r.2.2) =
      (l.find? (fun r => r.1 ≤ j && j < r.2.1)).map (fun r => r.2.2) := by
  induction l with
  | nil => rfl
  | cons r l ih =>
    obtain ⟨a, b, t⟩ := r
    unfold defined at ih ⊢
    rw [List.flatMap_cons, List.find?_append, List.find?_cons]
    by_cases hr : a ≤ j ∧ j < b
    · have hc : (decide (a ≤ j) && decide (j < b)) = true := by simp [hr]
      simp only [hc]
      have : (List.find? (fun r : Nat × Nat × Nat => decide (r.1 ≤ j) && decide (j < r.2.1))
          ([(a, min b k, t), (max a (k + n), b, t)].filter (fun x => decide (x.1 < x.2.1)))).map (fun r => r.2.2) = some t := by
        simp only [List.filter_cons, List.filter_nil]
        rcases h with h | h
        · have h1 : a < min b k := by omega
          have h2 : (decide (a ≤ j) && decide (j < min b k)) = true := by simp; omega
          simp only [h1, decide_true, if_true, List.find?_cons, h2, Option.map_some]
        · have h1 : max a (k + n) < b := by omega
          have h2 : (decide (max a (k + n) ≤ j) && decide (j < b)) = true := by simp; omega
          have h3 : (decide (a ≤ j) && decide (j < min b k)) = false := by simp; omega
          by_cases h4 : a < min b k
          · simp only [h4, h1, decide_true, if_true, List.find?_cons, h3, h2, Option.map_some]
          · simp only [h4, h1, decide_true, decide_false, Bool.false_eq_true, if_true, if_false, List.find?_cons, h2, Option.map_some]
      cases hf : (List.find? (fun r : Nat × Nat × Nat => decide (r.1 ≤ j) && decide (j < r.2.1))
          ([(a, min b k, t), (max a (k + n), b, t)].filter (fun x => decide (x.1 < x.2.1)))) with
      | none => rw [hf] at this; simp at this
      | some x => rw [hf] at this; simpa using this
    · have hc : (decide (a ≤ j) && decide (j < b)) = false := by simp; omega
      simp only [hc]
      have : List.find? (fun r : Nat × Nat × Nat => decide (r.1 ≤ j) && decide (j < r.2.1))
          ([(a, min b k, t), (max a (k + n), b, t)].filter (fun x => decide (x.1 < x.2.1))) = none := by
        rw [List.find?_eq_none]
        intro x hx
        have := (List.mem_filter.mp hx).1
        simp only [List.mem_cons, List.not_mem_nil, or_false] at this
        rcases this with rfl | rfl <;> simp <;> omega
      rw [this]
      simpa using ih

theorem find_defined_in (k n j : Nat) (l : List (Nat × Nat × Nat)) (h : k ≤ j ∧ j < k + n) :
    (defined k n l).find? (fun r => r.1 ≤ j && j < r.2.1) = none := by
  rw [List.find?_eq_none]
  intro x hx
  unfold defined at hx
  rw [List.mem_flatMap] at hx
  obtain ⟨r, _, hr⟩ := hx
  have := (List.mem_filter.mp hr).1
  simp only [List.mem_cons, List.not_mem_nil, or_false] at this
  rcases this with rfl | rfl <;> simp <;> omega

theorem byte_eq (m : Mem) (j : Nat) :
    m.byte j = match (m.undef.find? (fun r => r.1 ≤ j && j < r.2.1)).map (fun r => r.2.2) with
      | some t => Config.freeByte t j
      | none => ((m.cells.find? (fun p => p.1 == j)).map Prod.snd).getD 0 := by
  unfold byte
  cases m.undef.find? (fun r => r.1 ≤ j && j < r.2.1) <;> rfl

theorem find_filter_out (l : List Host.Cell) (p : Host.Cell → Bool) (j : Nat) (h : ∀ x ∈ l, x.1 = j → p x = true) :
    (l.filter p).find? (fun x => x.1 == j) = l.find? (fun x => x.1 == j) := by
  induction l with
  | nil => rfl
  | cons x l ih =>
    have ih := ih (fun y hy => h y (List.mem_cons_of_mem _ hy))
    by_cases hx : x.1 = j
    · have := h x (List.mem_cons_self ..) hx
      rw [List.filter_cons, if_pos this, List.find?_cons, List.find?_cons]
      simp [hx]
    · rw [List.find?_cons]
      simp only [beq_eq_false_iff_ne.mpr hx]
      rw [List.filter_cons]
      split
      · rw [List.find?_cons]; simp only [beq_eq_false_iff_ne.mpr hx]; exact ih
      · exact ih

theorem find_none_of (l : List Host.Cell) (j : Nat) (h : ∀ x ∈ l, x.1 ≠ j) : l.find? (fun x => x.1 == j) = none := by
  rw [List.find?_eq_none]; intro x hx; simpa using h x hx

/-- A byte outside a written range reads as before, and one inside as written. -/
theorem byte_write (m : Mem) (k j : Nat) (bs : List Byte) :
    (m.write k bs).byte j = if k ≤ j ∧ j < k + bs.length then bs.getD (j - k) 0 else m.byte j := by
  rw [byte_eq, byte_eq]
  unfold write
  by_cases h : k ≤ j ∧ j < k + bs.length
  · rw [if_pos h]
    simp only [find_defined_in k bs.length j m.undef h, Option.map_none]
    unfold splice
    rw [List.find?_append, List.find?_append]
    rw [find_none_of (m.cells.filter (fun p => p.1 < k)) j
      (fun x hx => by have := (List.mem_filter.mp hx).2; simp only [decide_eq_true_eq] at this; omega)]
    rw [find_none_of (m.cells.filter (fun p => k + bs.length ≤ p.1)) j
      (fun x hx => by have := (List.mem_filter.mp hx).2; simp only [decide_eq_true_eq] at this; omega)]
    have := find_cellsFrom k j bs
    rw [if_pos h] at this
    simpa using this
  · rw [if_neg h]
    simp only [find_defined k bs.length j m.undef (by omega)]
    have hs : (splice m.cells k bs).find? (fun p => p.1 == j) = m.cells.find? (fun p => p.1 == j) := by
      unfold splice
      rw [List.find?_append, List.find?_append]
      rw [find_none_of (cellsFrom k bs) j (fun x hx => by have := mem_cellsFrom hx; omega)]
      by_cases hj : j < k
      · rw [find_none_of (m.cells.filter (fun p => k + bs.length ≤ p.1)) j
          (fun x hx => by have := (List.mem_filter.mp hx).2; simp only [decide_eq_true_eq] at this; omega)]
        rw [find_filter_out m.cells _ j (fun x _ hx => by simp; omega)]
        simp
      · rw [find_none_of (m.cells.filter (fun p => p.1 < k)) j
          (fun x hx => by have := (List.mem_filter.mp hx).2; simp only [decide_eq_true_eq] at this; omega)]
        rw [find_filter_out m.cells _ j (fun x _ hx => by simp; omega)]
        simp
    simp only [hs]

/-- A byte outside an undefined range reads as before. -/
theorem byte_undefine (m : Mem) (k n tag j : Nat) (h : j < k ∨ k + n ≤ j) : (m.undefine k n tag).byte j = m.byte j := by
  rw [byte_eq, byte_eq]
  unfold undefine
  have hc : (m.cells.filter (fun p => p.1 < k || k + n ≤ p.1)).find? (fun p => p.1 == j) = m.cells.find? (fun p => p.1 == j) :=
    find_filter_out m.cells _ j (fun x _ hx => by simp; omega)
  simp only [hc]
  by_cases hn : n = 0
  · simp [hn]
  · simp only [beq_iff_eq, hn, if_false, List.find?_cons]
    have hf : (decide (k ≤ j) && decide (j < k + n)) = false := by simp; omega
    simp only [hf]
    rw [find_defined k n j m.undef h]

end Mem

/-- A zeroed range keeps the form. -/
theorem Dev.zeroKeys_wf {d : Dev} (h : d.mem.wf = true) (k n : Nat) : (d.zeroKeys k n).mem.wf = true :=
  Mem.filter_wf h (p := fun p => p.1 < k || k + n ≤ p.1) rfl

/-- A zeroed range reads as zero, and every other byte as before. -/
theorem Dev.byte_zeroKeys (d : Dev) (k n j : Nat) :
    (d.zeroKeys k n).mem.byte j = if k ≤ j ∧ j < k + n then 0 else d.mem.byte j := by
  rw [Mem.byte_eq, Mem.byte_eq]
  unfold Dev.zeroKeys
  by_cases h : k ≤ j ∧ j < k + n
  · rw [if_pos h]
    simp only [Mem.find_defined_in k n j d.mem.undef h, Option.map_none]
    rw [Mem.find_none_of]
    · rfl
    · intro x hx
      have := (List.mem_filter.mp hx).2
      simp only [Bool.or_eq_true, decide_eq_true_eq] at this
      omega
  · rw [if_neg h]
    simp only [Mem.find_defined k n j d.mem.undef (by omega)]
    rw [Mem.find_filter_out d.mem.cells _ j (fun x _ hx => by simp; omega)]

end Sys2Proof.Machine
end

