-- ==== Sys2Proof/Laws/Traffic.lean ====
section
/-! SUPPORT. What the shared operations of the mailboxes and of the transport can do: each is traffic, and a response to
the command at the head of a queue is handed to its sender. -/

namespace Sys2Proof.Machine
namespace Dev

theorem mbox_setMbox (d : Dev) (m k : Nat) (f : Mbox → Mbox) :
    (d.setMbox m f).mbox k = if m = k ∧ k < d.mboxes.length then f (d.mbox k) else d.mbox k := by
  simp only [mbox, setMbox, List.getD_eq_getElem?_getD, List.getElem?_modify]
  by_cases h : m = k
  · subst h
    by_cases hl : m < d.mboxes.length
    · simp [hl]
    · simp [hl]
  · simp [h]

@[simp] theorem space_setMbox (d : Dev) (m : Nat) (f : Mbox → Mbox) (p : Nat) : (d.setMbox m f).space p = d.space p := rfl
@[simp] theorem sentTo_setMbox (d : Dev) (m : Nat) (f : Mbox → Mbox) (p : Nat) : (d.setMbox m f).sentTo p = d.sentTo p := rfl

theorem space_peer (d : Dev) (p : Nat) : (d.space p).peer = p := by
  unfold space
  cases h : d.net.spaces.find? (fun s => s.peer == p) with
  | none => rfl
  | some s => simpa using List.find?_some h

/-- A list of spaces with one replaced. -/
theorem find_replace (s : Space) (p : Nat) (l : List Space) :
    (l.map (fun x => if x.peer == s.peer then s else x)).find? (fun x => x.peer == p)
      = if s.peer = p then (if l.any (fun x => x.peer == s.peer) then some s else none) else l.find? (fun x => x.peer == p) := by
  induction l with
  | nil => simp
  | cons x l ih =>
    simp only [List.map_cons, List.find?_cons, List.any_cons, ih]
    by_cases hx : x.peer = s.peer
    · by_cases hp : s.peer = p
      · simp [hx, hp]
      · have e : (s.peer == p) = false := by simpa using hp
        simp [hx, hp, e]
    · have e : (x.peer == s.peer) = false := by simpa using hx
      by_cases hp : s.peer = p
      · have e' : (x.peer == p) = false := by rw [← hp]; exact e
        simp [hp, e']
      · simp [e, hp]

/-- Reading a space after one has been set. -/
theorem space_setSpace (d : Dev) (s : Space) (p : Nat) : (d.setSpace s).space p = if s.peer = p then s else d.space p := by
  unfold space setSpace
  by_cases ha : d.net.spaces.any (fun x => x.peer == s.peer) = true
  · simp only [ha, if_true, find_replace]
    split <;> rfl
  · simp only [ha, Bool.false_eq_true, if_false, List.find?_append]
    by_cases hp : s.peer = p
    · have : d.net.spaces.find? (fun x => x.peer == p) = none := by
        rw [List.find?_eq_none]
        intro x hx h
        exact ha (List.any_eq_true.mpr ⟨x, hx, by rw [hp]; exact h⟩)
      simp [this, hp]
    · have e : (s.peer == p) = false := by simpa using hp
      simp [hp, e]

/-- Traffic composes. -/
theorem Traffic.refl (mb : Nat) (d : Dev) : Traffic mb d d :=
  ⟨⟨_, _, _, _, rfl⟩, fun _ _ => rfl, rfl, fun _ => List.prefix_rfl⟩

theorem Traffic.trans {mb : Nat} {d t u : Dev} (h : Traffic mb d t) (g : Traffic mb t u) : Traffic mb d u := by
  obtain ⟨⟨ms, sp, w, c, e⟩, o, k, s⟩ := h
  obtain ⟨⟨ms', sp', w', c', e'⟩, o', k', s'⟩ := g
  refine ⟨⟨ms', sp', w', c', ?_⟩, fun i hi => (o' i hi).trans (o i hi), k'.trans k, fun p => (s p).trans (s' p)⟩
  rw [e', e]

theorem Traffic.foldl {α : Type} {mb : Nat} (l : List α) (f : Dev → α → Dev) (h : ∀ d a, Traffic mb d (f d a)) (d : Dev) :
    Traffic mb d (l.foldl f d) := by
  induction l generalizing d with
  | nil => exact .refl mb d
  | cons a l ih => exact (h d a).trans (ih _)

/-- The queue of one mailbox changed, nothing handed over. -/
theorem Traffic.queue (mb : Nat) (d : Dev) (f : Mbox → Mbox) (hf : ∀ m, { f m with queue := [] } = { m with queue := [] }) :
    Traffic mb d (d.setMbox mb f) := by
  refine ⟨⟨_, _, _, _, rfl⟩, fun k hk => ?_, ?_, fun _ => List.prefix_rfl⟩
  · rw [mbox_setMbox, if_neg (fun h => hk h.1.symm)]
  · rw [mbox_setMbox]
    split
    · exact hf _
    · rfl

theorem hold_traffic (mb : Nat) (c : MbCmd) (d : Dev) : Traffic mb d (d.hold mb c) := .queue mb d _ (fun _ => rfl)

/-- A space rewritten with no payload lost is traffic of every mailbox. -/
theorem setSpace_traffic (mb : Nat) (d : Dev) (s : Space)
    (h : d.sentTo s.peer <+: (s.unacked ++ s.waiting).map (fun t => t.pkt.payload)) : Traffic mb d (d.setSpace s) := by
  refine ⟨⟨_, _, _, _, rfl⟩, fun _ _ => rfl, rfl, fun p => ?_⟩
  unfold sentTo at h ⊢
  rw [space_setSpace]
  by_cases hp : s.peer = p
  · subst hp; simpa using h
  · simp [hp]

theorem emit_traffic (mb peer path : Nat) (p : Packet) (d : Dev) : Traffic mb d (d.emit peer path p) :=
  ⟨⟨_, _, _, _, rfl⟩, fun _ _ => rfl, rfl, fun _ => List.prefix_rfl⟩

@[simp] theorem sentTo_emit (d : Dev) (peer path q : Nat) (p : Packet) : (d.emit peer path p).sentTo q = d.sentTo q := rfl

theorem pumpCtl1_traffic (mb peer : Nat) (d : Dev) : Traffic mb d (d.pumpCtl1 peer) := by
  unfold pumpCtl1
  split
  · exact .refl mb d
  · split
    · exact .refl mb d
    · refine Traffic.trans (setSpace_traffic mb d _ ?_) (emit_traffic ..)
      dsimp only
      rw [space_peer]
      exact List.prefix_rfl

/-- An `ACK` or `NAK` is traffic: it carries no payload of its own. -/
theorem sendCtl_traffic (mb peer : Nat) (p : Packet) (d : Dev) : Traffic mb d (d.sendCtl peer p) := by
  unfold sendCtl pumpCtl
  refine Traffic.trans (setSpace_traffic mb d _ ?_) (Traffic.foldl _ _ (fun d _ => pumpCtl1_traffic mb peer d) _)
  dsimp only
  rw [space_peer]
  exact List.prefix_rfl

/-- The packet that may go now is the first that waits. -/
theorem nextOut_head {d : Dev} {peer path : Nat} {t : TxPkt} (h : d.nextOut peer = some (t, path)) :
    (d.space peer).waiting = t :: (d.space peer).waiting.drop 1 := by
  unfold nextOut at h
  dsimp only at h
  split at h
  · cases h
  next x rest hw =>
    split at h
    · cases h
    · cases h
      simp [hw]

/-- A packet taken from the waiting list stays handed over. -/
theorem sentTo_launch {d : Dev} {peer path : Nat} {t : TxPkt} (h : (d.space peer).waiting = t :: (d.space peer).waiting.drop 1)
    (q : Nat) : (d.launch peer path t).sentTo q = d.sentTo q := by
  unfold launch
  rw [sentTo_emit]
  unfold sentTo
  rw [space_setSpace]
  simp only [afterLaunch, launched, space_peer]
  split
  next e =>
    subst e
    rw [h]
    simp
  · rfl

theorem sentTo_pump1 (d : Dev) (peer q : Nat) : (d.pump1 peer).sentTo q = d.sentTo q := by
  unfold pump1
  split
  next t path h =>
    split
    · exact sentTo_launch (nextOut_head h) q
    · rfl
  · rfl

theorem pump1_shape (d : Dev) (peer : Nat) : ∃ sp w c, d.pump1 peer = { d with net := { d.net with spaces := sp, wire := w }, ctr := c } := by
  unfold pump1
  split
  · split
    · exact ⟨_, _, _, rfl⟩
    · exact ⟨_, _, _, rfl⟩
  · exact ⟨_, _, _, rfl⟩

theorem pump1_traffic (mb peer : Nat) (d : Dev) : Traffic mb d (d.pump1 peer) := by
  obtain ⟨sp, w, c, h⟩ := pump1_shape d peer
  refine ⟨⟨_, _, _, _, h⟩, fun k _ => by rw [h]; rfl, by rw [h]; rfl, fun p => ⟨[], by rw [List.append_nil, sentTo_pump1]⟩⟩

theorem pump_traffic (mb peer : Nat) (d : Dev) : Traffic mb d (d.pump peer) :=
  Traffic.foldl _ _ (fun d _ => pump1_traffic mb peer d) d

theorem sentTo_pump (d : Dev) (peer q : Nat) : (d.pump peer).sentTo q = d.sentTo q := by
  unfold pump
  generalize (d.space peer).waiting = l
  induction l generalizing d with
  | nil => rfl
  | cons a l ih => rw [List.foldl_cons, ih, sentTo_pump1]

/-- A packet handed over is the last for its peer, and no other peer's list changes. -/
theorem sentTo_sendPkt (d : Dev) (peer q : Nat) (p : Packet) (o : Nat) (src : Option Nat) :
    (d.sendPkt peer p o src).sentTo q = if q = peer then d.sentTo q ++ [p.payload] else d.sentTo q := by
  unfold sendPkt
  dsimp only
  rw [sentTo_pump]
  unfold sentTo
  rw [space_setSpace]
  dsimp only
  rw [space_peer]
  by_cases h : peer = q
  · subst h; simp
  · have h' : ¬ q = peer := fun e => h e.symm
    simp [h, h']

theorem sendPkt_traffic (mb peer : Nat) (p : Packet) (o : Nat) (src : Option Nat) (d : Dev) :
    Traffic mb d (d.sendPkt peer p o src) := by
  unfold sendPkt
  dsimp only
  refine (setSpace_traffic mb d _ ?_).trans (pump_traffic ..)
  dsimp only
  rw [space_peer]
  exact ⟨[p.payload], by simp [sentTo]⟩

theorem sendMsg_traffic (mb peer : Nat) (bs : List Byte) (d : Dev) : Traffic mb d (d.sendMsg peer bs) := sendPkt_traffic ..

theorem sentTo_sendMsg (d : Dev) (peer q : Nat) (bs : List Byte) :
    (d.sendMsg peer bs).sentTo q = if q = peer then d.sentTo q ++ [bs] else d.sentTo q := sentTo_sendPkt ..

theorem sentTo_answerTo (d : Dev) (c : MbCmd) (q : Nat) : (d.answerTo c).sentTo q = d.sentTo q := by
  unfold answerTo
  split
  · rfl
  · unfold sentTo
    rw [space_setSpace]
    dsimp only
    rw [space_peer]
    split
    next h => subst h; rfl
    · rfl

theorem answerTo_traffic (mb : Nat) (c : MbCmd) (d : Dev) : Traffic mb d (d.answerTo c) := by
  unfold answerTo
  split
  · exact .refl mb d
  · refine setSpace_traffic mb d _ ?_
    dsimp only
    rw [space_peer]
    exact List.prefix_rfl

theorem sendResponse_traffic (mb : Nat) (c : MbCmd) (st det : Nat) (w : Bool) (pl : List Byte) (d : Dev) :
    Traffic mb d (d.sendResponse mb c st det w pl) :=
  (answerTo_traffic mb c d).trans (sendMsg_traffic ..)

/-- A response is handed over, whatever marks of its own the command has taken on since. -/
theorem sendResponse_answered {mb st det : Nat} {c c' : MbCmd} {w : Bool} {pl : List Byte} {d d' : Dev} (hp : c'.peer = c.peer)
    (hb : responseBytes mb c' st det w pl d'.tu.tick = responseBytes mb c st det w pl d.tu.tick)
    (hs : d'.sentTo c.peer = d.sentTo c.peer) : Answered mb c st det w pl d (d'.sendResponse mb c' st det w pl) := by
  unfold Answered sendResponse
  exact ⟨[], by rw [List.append_nil, sentTo_sendMsg, hp, if_pos rfl, sentTo_answerTo, hb, hs]⟩

theorem flush_traffic (mb : Nat) (d : Dev) : Traffic mb d (d.flush mb) := by
  unfold flush
  refine Traffic.foldl _ _ (fun d _ => ?_) d
  split
  · split
    · refine Traffic.trans (t := d.setMbox mb _) (Traffic.queue mb d _ ?_) (sendResponse_traffic ..)
      exact fun _ => rfl
    · exact .refl mb d
  · exact .refl mb d

theorem complete_traffic (mb o st det : Nat) (w : Bool) (pl : List Byte) (d : Dev) :
    Traffic mb d (d.complete mb o st det w pl) := by
  unfold complete
  refine Traffic.trans (t := d.setMbox mb _) (Traffic.queue mb d _ ?_) (flush_traffic mb _)
  exact fun _ => rfl

theorem reply_traffic (mb : Nat) (c : MbCmd) (st det : Nat) (d : Dev) : Traffic mb d (d.reply mb c st det) :=
  complete_traffic ..

theorem okWith_traffic (mb : Nat) (c : MbCmd) (pl : List Byte) (d : Dev) : Traffic mb d (d.okWith mb c pl) :=
  complete_traffic ..

theorem settle_traffic (mb : Nat) (d : Dev) : Traffic mb d (d.settle mb) := by
  unfold settle
  refine Traffic.foldl _ _ (fun d _ => ?_) d
  split
  · split
    · exact complete_traffic ..
    · exact .refl mb d
  · exact .refl mb d

theorem finish_traffic (mb msg st det : Nat) (pl : List Byte) (d : Dev) : Traffic mb d (d.finish mb msg st det pl) := by
  unfold finish
  exact Traffic.foldl _ _ (fun d _ => complete_traffic ..) d

theorem Answered.then {mb : Nat} {c : MbCmd} {st det : Nat} {w : Bool} {pl : List Byte} {d t u : Dev}
    (h : Answered mb c st det w pl d t) (g : Traffic mb t u) : Answered mb c st det w pl d u := List.IsPrefix.trans h (g.sent _)

/-- The completion of the command at the head of a queue answers it. -/
theorem complete_answered (mb : Nat) (c : MbCmd) (st det : Nat) (w : Bool) (pl : List Byte) (d : Dev)
    (hh : (d.mbox mb).queue.head? = some c) (hn : c.done = none) :
    Answered mb c st det w pl d (d.complete mb c.order st det w pl) := by
  cases hq : (d.mbox mb).queue with
  | nil => simp [hq] at hh
  | cons c' rest =>
    have hc : c' = c := by simpa [hq] using hh
    subst hc
    have hl : mb < d.mboxes.length := by
      apply Decidable.byContradiction
      intro hl
      simp [mbox, List.getD_eq_getElem?_getD, List.getElem?_eq_none (Nat.le_of_not_lt hl)] at hq
    unfold complete flush
    rw [mbox_setMbox, if_pos ⟨rfl, hl⟩]
    dsimp only
    rw [hq, List.map_cons, List.foldl_cons]
    refine Answered.then ?_ (Traffic.foldl _ _ (fun d _ => ?_) _)
    · rw [mbox_setMbox, if_pos ⟨rfl, hl⟩]
      dsimp only
      rw [hq, List.map_cons]
      simp only [beq_self_eq_true, hn, Option.isNone_none, Bool.and_self, if_true]
      exact sendResponse_answered rfl rfl rfl
    · split
      · split
        · refine Traffic.trans (t := Dev.setMbox mb _ _) (Traffic.queue mb _ _ ?_) (sendResponse_traffic ..)
          exact fun _ => rfl
        · exact .refl mb _
      · exact .refl mb _

/-- The head of a queue whose turn has come is not begun. -/
theorem headCmd_idle {d : Dev} {mb : Nat} {c : MbCmd} (h : d.headCmd mb = some c) : c.busy = false ∧ c.done = none := by
  unfold headCmd at h
  split at h
  · cases h
  · have := List.find?_some h
    simpa using this

/-- A known command at its turn leaves nothing to settle. -/
theorem settle_eq_self {d : Dev} {mb : Nat} {c : MbCmd} (h : d.headCmd mb = some c) (hk : knownMsg c.msg = true) :
    d.settle mb = d := by
  unfold settle
  generalize (d.mbox mb).queue = l
  induction l with
  | nil => rfl
  | cons a l ih => rw [List.foldl_cons]; simp only [h, hk, Bool.not_true, Bool.false_and, Bool.false_eq_true, if_false]; exact ih

theorem Turn.serves {d : Dev} {mb msg : Nat} {c : MbCmd} {sel : MbCmd → Bool} (h : Turn d mb msg c) (hk : knownMsg msg = true)
    (hs : sel c = true) : d.serves mb msg sel = some c := by
  obtain ⟨h2, h3, h4⟩ := h
  unfold Dev.serves
  rw [settle_eq_self h2 (h3 ▸ hk), h2]
  simp [h3, hs, h4]

end Dev

/-- What a mailbox row does at its turn when no check fails: its body, and what settles after it. -/
theorem serve_at_turn {s : State} {mb msg : Nat} {c : MbCmd} {sel : MbCmd → Bool} {args : State → MbCmd → List Chk}
    {body : MbCmd → State → State} (h : s.dev.Turn mb msg c) (hk : Dev.knownMsg msg = true) (hs : sel c = true)
    (hr : s.dev.refusal mb c (args s c) = none) :
    serve mb msg sel args body s = .next { (body c s) with dev := (body c s).dev.settle mb } := by
  unfold serve
  rw [h.serves hk hs]
  have he : s.dev.settle mb = s.dev := Dev.settle_eq_self h.1 (h.2.1 ▸ hk)
  simp only [he, hr]

namespace Dev

/-- A mailbox of known messages has nothing to settle. -/
theorem settle_known {d : Dev} {mb : Nat} (h : ∀ x ∈ (d.mbox mb).queue, knownMsg x.msg = true) : d.settle mb = d := by
  unfold settle
  have hc : ∀ c, d.headCmd mb = some c → knownMsg c.msg = true := by
    intro c hc
    unfold headCmd at hc
    split at hc
    · cases hc
    · exact h c (List.mem_of_find?_eq_some hc)
  generalize (d.mbox mb).queue = l
  induction l with
  | nil => rfl
  | cons a l ih =>
    rw [List.foldl_cons]
    split
    next c he => simp only [hc c he, Bool.not_true, Bool.false_and, Bool.false_eq_true, if_false]; exact ih
    · exact ih

/-- Holding a command keeps every message of the queue. -/
theorem hold_known {d : Dev} {mb : Nat} {c : MbCmd} (h : ∀ x ∈ (d.mbox mb).queue, knownMsg x.msg = true) :
    ∀ x ∈ ((d.hold mb c).mbox mb).queue, knownMsg x.msg = true := by
  unfold hold
  rw [mbox_setMbox]
  split
  · intro x hx
    simp only [List.mem_map] at hx
    obtain ⟨y, hy, rfl⟩ := hx
    split
    · exact h y hy
    · exact h y hy
  · exact h

end Dev

/-- A row whose body ends in its response. -/
theorem serve_answers {s e : State} {mb msg st det : Nat} {c : MbCmd} {w : Bool} {pl : List Byte} {sel : MbCmd → Bool}
    {args : State → MbCmd → List Chk} {body : MbCmd → State → State} (h : s.Served mb msg c (args s c))
    (hk : Dev.knownMsg msg = true) (hs : sel c = true) (hb : body c s = { e with dev := e.dev.complete mb c.order st det w pl }) :
    ∃ t, serve mb msg sel args body s = .next t ∧ State.Answers mb c st det w pl e t := by
  refine ⟨_, serve_at_turn h.1 hk hs h.2, ?_⟩
  rw [hb]
  have hn := (Dev.headCmd_idle h.1.1).2
  exact ⟨rfl, (Dev.complete_traffic ..).trans (Dev.settle_traffic ..), fun he =>
    (Dev.complete_answered mb c st det w pl e.dev he hn).then (Dev.settle_traffic ..)⟩

/-- A row whose body leaves its command waiting. -/
theorem serve_waits {s e : State} {mb msg : Nat} {c : MbCmd} {sel : MbCmd → Bool}
    {args : State → MbCmd → List Chk} {body : MbCmd → State → State} (h : s.Served mb msg c (args s c))
    (hk : Dev.knownMsg msg = true) (hs : sel c = true) (hb : body c s = { e with dev := e.dev.hold mb c }) :
    ∃ t, serve mb msg sel args body s = .next t ∧ State.Waits mb c e t := by
  refine ⟨_, serve_at_turn h.1 hk hs h.2, ?_⟩
  rw [hb]
  refine ⟨rfl, Dev.settle_traffic .., fun hq => ?_⟩
  exact Dev.settle_known (Dev.hold_known hq)

end Sys2Proof.Machine
end

