-- ==== Sys2Proof/Laws/Noted.lean ====
section
/-! SUPPORT. What counters, trace records and events can move: `Noted`, one lemma per operation. -/

namespace Sys2Proof.Machine
namespace Dev

theorem Noted.refl (d : Dev) : Noted d d := ⟨rfl, fun _ => rfl, fun _ => List.prefix_rfl⟩

/-- A trace that records nothing is seen as such in what stays. -/
theorem calm_trace {d t : Dev} (h : t.calm = d.calm) : t.trace = d.trace := by
  have h' : t.calm.trace = d.calm.trace := by rw [h]
  exact h'

theorem Noted.trans {d t u : Dev} (h : Noted d t) (g : Noted t u) : Noted d u := by
  refine ⟨g.still.trans h.still, fun hc => ?_, fun p => (h.sent p).trans (g.sent p)⟩
  have h1 := h.calm hc
  exact (g.calm (by rw [calm_trace h1]; exact hc)).trans h1

theorem Noted.foldl {α : Type} (l : List α) (f : Dev → α → Dev) (h : ∀ d a, Noted d (f d a)) (d : Dev) : Noted d (l.foldl f d) := by
  induction l generalizing d with
  | nil => exact .refl d
  | cons a l ih => exact (h d a).trans (ih _)

theorem cnt_noted (g i n : Nat) (d : Dev) : Noted d (d.cnt g i n) := ⟨rfl, fun _ => rfl, fun _ => List.prefix_rfl⟩

theorem emit_noted (peer path : Nat) (p : Packet) (d : Dev) : Noted d (d.emit peer path p) :=
  ⟨rfl, fun _ => rfl, fun _ => List.prefix_rfl⟩

theorem pump_shape (d : Dev) (peer : Nat) : ∃ sp w c, d.pump peer = { d with net := { d.net with spaces := sp, wire := w }, ctr := c } := by
  unfold pump
  generalize (d.space peer).waiting = l
  induction l generalizing d with
  | nil => exact ⟨_, _, _, rfl⟩
  | cons a l ih =>
    obtain ⟨sp', w', c', h'⟩ := ih (d.pump1 peer)
    obtain ⟨sp, w, c, h⟩ := pump1_shape d peer
    exact ⟨sp', w', c', by rw [List.foldl_cons, h', h]⟩

theorem sendPkt_shape (d : Dev) (peer : Nat) (p : Packet) (o : Nat) (src : Option Nat) :
    ∃ sp w c, d.sendPkt peer p o src = { d with net := { d.net with spaces := sp, wire := w }, ctr := c } := by
  unfold sendPkt
  obtain ⟨sp, w, c, h⟩ := pump_shape (d.setSpace { d.space peer with waiting := (d.space peer).waiting ++ [{ pkt := p, owner := o, src := src }] }) peer
  exact ⟨sp, w, c, h⟩

theorem sendPkt_noted (peer : Nat) (p : Packet) (o : Nat) (src : Option Nat) (d : Dev) : Noted d (d.sendPkt peer p o src) := by
  refine ⟨?_, fun _ => ?_, (sendPkt_traffic 0 peer p o src d).sent⟩ <;>
  · obtain ⟨sp, w, c, h⟩ := sendPkt_shape d peer p o src
    rw [h]; rfl

/-- The event fields of one mailbox changed. -/
theorem setMbox_noted (mb : Nat) (f : Mbox → Mbox) (d : Dev)
    (hf : ∀ m, { f m with events := [], evSeq := 0, lost := 0 } = { m with events := [], evSeq := 0, lost := 0 }) :
    Noted d (d.setMbox mb f) := by
  have key : (d.setMbox mb f).calm = d.calm := by
    unfold calm setMbox
    dsimp only
    congr 1
    apply List.ext_getElem?
    intro i
    simp only [List.getElem?_map, List.getElem?_modify]
    by_cases h : mb = i
    · subst h
      cases d.mboxes[mb]? with
      | none => rfl
      | some m => simpa using hf m
    · simp [h]
  exact ⟨by unfold still; rw [key]; rfl, fun _ => key, fun _ => List.prefix_rfl⟩

theorem keepEvent_noted (mb : Nat) (e : EvRec) (d : Dev) : Noted d (d.keepEvent mb e) := by
  unfold keepEvent
  split
  · exact .refl d
  split
  · exact setMbox_noted _ _ _ (fun _ => rfl)
  · have h : Noted d (d.setMbox mb (boxKeep (d.stamped mb e))) := setMbox_noted _ _ _ (fun _ => rfl)
    dsimp only
    split
    · exact h.trans (sendPkt_noted ..)
    · exact h

/-- `t` is `d` after writes to the trace ring and what they count and report. -/
structure Stirred (d t : Dev) : Prop where
  still : t.still = d.still
  sent : ∀ p, d.sentTo p <+: t.sentTo p

theorem Stirred.refl (d : Dev) : Stirred d d := ⟨rfl, fun _ => List.prefix_rfl⟩
theorem Stirred.trans {d t u : Dev} (h : Stirred d t) (g : Stirred t u) : Stirred d u :=
  ⟨g.still.trans h.still, fun p => (h.sent p).trans (g.sent p)⟩
theorem Stirred.foldl {α : Type} (l : List α) (f : Dev → α → Dev) (h : ∀ d a, Stirred d (f d a)) (d : Dev) :
    Stirred d (l.foldl f d) := by
  induction l generalizing d with
  | nil => exact .refl d
  | cons a l ih => exact (h d a).trans (ih _)
theorem Noted.stirred {d t : Dev} (h : Noted d t) : Stirred d t := ⟨h.still, h.sent⟩

/-- What an access to a stack counts and logs. -/
theorem setStack_stirred (s : Nat) (f : Stack → Stack) (d : Dev) (hf : ∀ k, (f k).bare = k.bare) : Stirred d (d.setStack s f) := by
  refine ⟨?_, fun _ => List.prefix_rfl⟩
  unfold still calm setStack
  dsimp only
  congr 1
  apply List.ext_getElem?
  intro i
  simp only [List.getElem?_map, List.getElem?_modify]
  by_cases h : s = i
  · subst h
    cases d.stk[s]? with
    | none => rfl
    | some k => simpa using hf k
  · simp [h]

theorem cnt_stirred (g i n : Nat) (d : Dev) : Stirred d (d.cnt g i n) := ⟨rfl, fun _ => List.prefix_rfl⟩
theorem setSq_stirred (i : Nat) (f : Square → Square) (d : Dev) : Stirred d (d.setSq i f) := ⟨rfl, fun _ => List.prefix_rfl⟩
theorem setTrace_stirred (t : Trace) (d : Dev) : Stirred d (d.setTrace t) := ⟨rfl, fun _ => List.prefix_rfl⟩
theorem setDamage_stirred (pg m : Nat) (d : Dev) : Stirred d (d.setDamage pg m) := ⟨rfl, fun _ => List.prefix_rfl⟩

theorem noteLat_stirred (k cls n : Nat) (d : Dev) : Stirred d (d.noteLat k cls n) := by
  unfold noteLat
  split
  · exact setStack_stirred _ _ _ (fun _ => rfl)
  · exact .refl d

theorem countRd_stirred (s cls n : Nat) (d : Dev) : Stirred d (d.countRd s cls n) := by
  unfold countRd
  dsimp only
  split
  · exact (cnt_stirred ..).trans (cnt_stirred ..)
  · exact cnt_stirred ..

theorem countWr_stirred (s cls n : Nat) (d : Dev) : Stirred d (d.countWr s cls n) := by
  unfold countWr
  dsimp only
  split
  · exact (cnt_stirred ..).trans (cnt_stirred ..)
  · exact cnt_stirred ..

theorem readPage_stirred (cls pg : Nat) (ls : List Nat) (d : Dev) : Stirred d (d.readPage cls pg ls).2 := by
  unfold readPage
  dsimp only
  split
  · exact .refl d
  · exact (countRd_stirred ..).trans (noteLat_stirred ..)

theorem storeLines_stirred (pg : Nat) (ws : List (Nat × List Byte × Bool)) (d : Dev) : Stirred d (d.storeLines pg ws) :=
  Stirred.foldl ws (fun d w => d.storeLine (1024 * pg + 64 * w.1) w.2.1 w.2.2) (fun _ _ => ⟨rfl, fun _ => List.prefix_rfl⟩) d

theorem writePage_stirred (cls pg : Nat) (ws : List (Nat × List Byte × Bool)) (d : Dev) : Stirred d (d.writePage cls pg ws).2 := by
  have h : Stirred d ((d.countWr (stkOf (1024 * pg)) cls (64 * ws.length)).noteLat (1024 * pg) cls ws.length) :=
    (countWr_stirred ..).trans (noteLat_stirred ..)
  unfold writePage
  dsimp only
  split
  · exact .refl d
  split
  · exact (h.trans (storeLines_stirred ..)).trans ⟨rfl, fun _ => List.prefix_rfl⟩
  · refine h.trans ?_
    split
    · exact (storeLines_stirred ..).trans (setDamage_stirred ..)
    · split
      · exact (storeLines_stirred ..).trans (setDamage_stirred ..)
      · exact (storeLines_stirred ..).trans (setDamage_stirred ..)

theorem logCorr_stirred (k kind syms : Nat) (d : Dev) : Stirred d (d.logCorr k kind syms) := by
  unfold logCorr
  dsimp only
  split
  · exact (cnt_stirred ..).trans (setStack_stirred _ _ _ (fun _ => rfl))
  · exact setStack_stirred _ _ _ (fun _ => rfl)

theorem noted_stirred (n : Note) (d : Dev) : Stirred d (d.noted n) := by
  unfold noted
  split
  · exact ((cnt_stirred ..).trans (logCorr_stirred ..)).trans (setStack_stirred _ _ _ (fun _ => rfl))
  · exact ((cnt_stirred ..).trans (logCorr_stirred ..)).trans (setStack_stirred _ _ _ (fun _ => rfl))
  · exact (cnt_stirred ..).trans (logCorr_stirred ..)

theorem Stirred.ite {c : Prop} [Decidable c] {d t u : Dev} (h : Stirred d t) (g : Stirred d u) : Stirred d (if c then t else u) := by
  split
  · exact h
  · exact g

theorem unstage_stirred (k : Nat) (d : Dev) : Stirred d (d.unstage k) := ⟨rfl, fun _ => List.prefix_rfl⟩
theorem clearUpsets_stirred (a : Nat) (ws : List Nat) (d : Dev) : Stirred d (d.clearUpsets a ws) := ⟨rfl, fun _ => List.prefix_rfl⟩
theorem poisonPlace_stirred (k a : Nat) (d : Dev) : Stirred d (d.poisonPlace k a) := by
  unfold poisonPlace
  split
  · exact setSq_stirred ..
  · exact ⟨rfl, fun _ => List.prefix_rfl⟩

theorem countSq_stirred (g k n : Nat) (d : Dev) : Stirred d (d.countSq g k n) := by
  unfold countSq
  split
  · exact Stirred.ite (.refl d) (cnt_stirred ..)
  · exact .refl d

theorem meetWords_stirred (a : Nat) (ws : List Nat) (d : Dev) : Stirred d (d.meetWords a ws) := by
  unfold meetWords
  split
  · exact .refl d
  split
  · exact .refl d
  dsimp only
  split
  · exact .refl d
  split <;> split
  all_goals first | exact clearUpsets_stirred .. | split
  all_goals first
    | exact (countSq_stirred ..).trans (((countSq_stirred ..).trans (poisonPlace_stirred ..)).trans (clearUpsets_stirred ..))
    | exact (countSq_stirred ..).trans (clearUpsets_stirred ..)

theorem meetWrite_stirred (a : Nat) (m : BitVec 64) (d : Dev) : Stirred d (d.meetWrite a m) := by
  unfold meetWrite
  split
  · exact .refl d
  · exact (meetWords_stirred ..).trans (clearUpsets_stirred ..)

theorem touch_stirred (die a : Nat) (keep : Bool) (d : Dev) : Stirred d (d.touch die a keep) := by
  unfold touch
  split
  · exact .refl d
  split
  · exact setSq_stirred ..
  · exact .refl d

/-- A write that waits at its stack moves the lists of waiting requests alone. -/
theorem behind_bare {x : Req} {k s : Stack} (h : behind x k = some s) : s.bare = k.bare := by
  unfold behind at h
  split at h
  · cases h
    simp only [Stack.bare, List.map_map]
    congr 1
    apply List.map_congr_left
    intro l _
    simp only [Function.comp]
    split <;> rfl
  split at h
  · cases h; rfl
  split at h
  · cases h; rfl
  · cases h

/-- One element of the stacks replaced by one that differs in what waits, counts and logs alone. -/
theorem setStack_to_stirred (s : Nat) (k : Stack) (d : Dev) (hk : k.bare = (d.stack s).bare) : Stirred d (d.setStack s (fun _ => k)) := by
  refine ⟨?_, fun _ => List.prefix_rfl⟩
  unfold still calm setStack
  dsimp only
  congr 1
  apply List.ext_getElem?
  intro i
  simp only [List.getElem?_map, List.getElem?_modify]
  by_cases h : s = i
  · subst h
    cases e : d.stk[s]? with
    | none => rfl
    | some x => simpa [stack, List.getD_eq_getElem?_getD, e] using hk
  · simp [h]

theorem ringDown_stirred (k : Nat) (m : BitVec 64) (new : List Byte) (d : Dev) : Stirred d (d.ringDown k m new).2 := by
  unfold ringDown
  dsimp only
  split
  next s h => exact setStack_to_stirred _ _ _ (behind_bare h)
  · split
    · exact writePage_stirred ..
    · exact (readPage_stirred ..).trans (writePage_stirred ..)

theorem ringHit_stirred (k a : Nat) (m : BitVec 64) (new : List Byte) (d : Dev) : Stirred d (d.ringHit k a m new) := by
  unfold ringHit
  exact (((meetWrite_stirred ..).trans (setSq_stirred ..)).trans (setSq_stirred ..)).trans (touch_stirred ..)

theorem ringLine_stirred (a : Nat) (bs : List Byte) (d : Dev) : Stirred d (d.ringLine a bs).2 := by
  have put (k : Nat) (m : BitVec 64) (new : List Byte) (t : Dev) :
      Stirred t (if t.cachedLine k a = true then (([] : List Note), t.ringHit k a m new) else t.ringDown (k / 64 * 64) m new).2 := by
    split
    · exact ringHit_stirred ..
    · exact ringDown_stirred ..
  unfold ringLine
  split
  · exact .refl d
  · dsimp only
    split
    · split
      · exact (unstage_stirred _ d).trans ((setSq_stirred _ _ _).trans (put _ _ _ _))
      · exact (unstage_stirred _ d).trans (setSq_stirred ..)
    · split
      · exact (unstage_stirred _ d).trans (put _ _ _ _)
      · exact (unstage_stirred _ d).trans (setSq_stirred ..)

theorem announce_noted (mbs : List Nat) (e : EvRec) (d : Dev) : Noted d (d.announce mbs e) :=
  (keepEvent_noted 0 e d).trans (Noted.foldl _ _ (fun d m => keepEvent_noted m e d) _)

section Ring
variable {rec : EvRec → Dev → Dev} (hr : ∀ e d, Stirred d (rec e d))
include hr

theorem ringPut_stirred (a : Nat) (bs : List Byte) (d : Dev) : Stirred d (d.ringPut rec a bs) := by
  unfold ringPut
  refine Stirred.foldl _ _ (fun d p => ?_) d
  refine (ringLine_stirred p.1 p.2 d).trans (Stirred.foldl _ _ (fun d n => ?_) _)
  refine (noted_stirred n d).trans ?_
  dsimp only
  split
  · exact (hr _ _).trans (announce_noted ..).stirred
  · exact .refl _

theorem ringHead_stirred (d : Dev) : Stirred d (d.ringHead rec) := by
  unfold ringHead
  split
  · exact (setTrace_stirred ..).trans (ringPut_stirred hr ..)
  · exact .refl d

theorem tracePut_stirred (bs : List Byte) (d : Dev) : Stirred d (d.tracePut rec bs) :=
  ((setTrace_stirred ..).trans (ringPut_stirred hr ..)).trans (ringHead_stirred hr _)

theorem traceLoss_stirred (d : Dev) : Stirred d (d.traceLoss rec) := by
  unfold traceLoss
  split
  · exact .refl d
  · exact (setTrace_stirred ..).trans (tracePut_stirred hr ..)

omit hr in
theorem takeShare_stirred {ws : List (Nat × Nat)} {d t : Dev} (h : d.takeShare ws = some t) : Stirred d t := by
  simp only [takeShare, Option.ite_none_right_eq_some] at h
  rw [← Option.some.inj h.2]
  exact setTrace_stirred ..

theorem headNow_stirred (d : Dev) : Stirred d (d.headNow rec) := by
  unfold headNow
  split
  next h => exact (takeShare_stirred h).trans (ringHead_stirred hr _)
  · exact setTrace_stirred ..

theorem traceDrop_stirred (d : Dev) : Stirred d (d.traceDrop rec) := by
  unfold traceDrop
  exact ((cnt_stirred 0x40 9 1 d).trans (setTrace_stirred d.lossy _)).trans (headNow_stirred hr _)

theorem traceWith_stirred (cls rt ctx src : Nat) (mark : BitVec 32) (a0 a1 : Nat) (d : Dev) :
    Stirred d (d.traceWith rec cls rt ctx src mark a0 a1) := by
  unfold traceWith
  split
  · exact .refl d
  split
  next t h =>
    split at h
    · exact ((takeShare_stirred h).trans (traceLoss_stirred hr _)).trans (tracePut_stirred hr ..)
    · cases h
  · exact traceDrop_stirred hr d

end Ring

theorem eventRec_stirred (n : Nat) (e : EvRec) (d : Dev) : Stirred d (eventRec n e d) := by
  induction n generalizing e d with
  | zero => exact .refl d
  | succ n ih => exact traceWith_stirred ih ..

/-- A trace without classes records nothing. -/
theorem traceWith_off (rec : EvRec → Dev → Dev) (cls rt ctx src : Nat) (mark : BitVec 32) (a0 a1 : Nat) (d : Dev)
    (h : d.trace.cfg.tclass = 0) : d.traceWith rec cls rt ctx src mark a0 a1 = d := by
  unfold traceWith traced
  simp [h]

theorem traceRec_noted (cls rt ctx src : Nat) (mark : BitVec 32) (a0 a1 : Nat) (d : Dev) :
    Noted d (d.traceRec cls rt ctx src mark a0 a1) := by
  have h := traceWith_stirred (rec := eventRec 4) (eventRec_stirred 4) cls rt ctx src mark a0 a1 d
  exact ⟨h.still, fun h0 => by unfold traceRec; rw [traceWith_off _ _ _ _ _ _ _ _ _ h0], h.sent⟩

theorem eventRec_noted (n : Nat) (e : EvRec) (d : Dev) : Noted d (eventRec n e d) := by
  have h := eventRec_stirred n e d
  refine ⟨h.still, fun h0 => ?_, h.sent⟩
  cases n with
  | zero => rfl
  | succ n => unfold eventRec; rw [traceWith_off _ _ _ _ _ _ _ _ _ h0]

/-- An event raised moves counts, events and the trace alone. -/
theorem raise_noted (mbs : List Nat) (e : EvRec) (d : Dev) : Noted d (d.raise mbs e) :=
  (eventRec_noted 5 e d).trans (announce_noted ..)

end Dev
end Sys2Proof.Machine
end

