-- ==== Sys2Proof/Laws/State.lean ====
section
/-! SUPPORT. What each named update of the machine leaves as it was, field by field, and what it puts where it writes. -/

namespace Sys2Proof.Machine
namespace Dev

variable (d : Dev)

@[simp] theorem setCtx_part (i : Nat) (f : Ctx → Ctx) : (d.setCtx i f).part = d.part := by unfold setCtx; split <;> rfl
@[simp] theorem setCtx_now (i : Nat) (f : Ctx → Ctx) : (d.setCtx i f).now = d.now := by unfold setCtx; split <;> rfl
@[simp] theorem setCtx_fresh (i : Nat) (f : Ctx → Ctx) : (d.setCtx i f).fresh = d.fresh := by unfold setCtx; split <;> rfl
@[simp] theorem setCtx_st (i : Nat) (f : Ctx → Ctx) : (d.setCtx i f).st = d.st := by unfold setCtx; split <;> rfl
@[simp] theorem setCtx_fast (i : Nat) (f : Ctx → Ctx) : (d.setCtx i f).fast = d.fast := by unfold setCtx; split <;> rfl
@[simp] theorem setCtx_boot (i : Nat) (f : Ctx → Ctx) : (d.setCtx i f).boot = d.boot := by unfold setCtx; split <;> rfl
@[simp] theorem setCtx_tu (i : Nat) (f : Ctx → Ctx) : (d.setCtx i f).tu = d.tu := by unfold setCtx; split <;> rfl
@[simp] theorem setCtx_slots (i : Nat) (f : Ctx → Ctx) : (d.setCtx i f).slots = d.slots := by unfold setCtx; split <;> rfl
@[simp] theorem setCtx_mboxes (i : Nat) (f : Ctx → Ctx) : (d.setCtx i f).mboxes = d.mboxes := by unfold setCtx; split <;> rfl
@[simp] theorem setCtx_accepted (i : Nat) (f : Ctx → Ctx) : (d.setCtx i f).accepted = d.accepted := by unfold setCtx; split <;> rfl
@[simp] theorem setCtx_mem (i : Nat) (f : Ctx → Ctx) : (d.setCtx i f).mem = d.mem := by unfold setCtx; split <;> rfl
@[simp] theorem setCtx_mcfg (i : Nat) (f : Ctx → Ctx) : (d.setCtx i f).mcfg = d.mcfg := by unfold setCtx; split <;> rfl
@[simp] theorem setCtx_sq (i : Nat) (f : Ctx → Ctx) : (d.setCtx i f).sq = d.sq := by unfold setCtx; split <;> rfl
@[simp] theorem setCtx_stk (i : Nat) (f : Ctx → Ctx) : (d.setCtx i f).stk = d.stk := by unfold setCtx; split <;> rfl
@[simp] theorem setCtx_kerb (i : Nat) (f : Ctx → Ctx) : (d.setCtx i f).kerb = d.kerb := by unfold setCtx; split <;> rfl
@[simp] theorem setCtx_kcmds (i : Nat) (f : Ctx → Ctx) : (d.setCtx i f).kcmds = d.kcmds := by unfold setCtx; split <;> rfl
@[simp] theorem setCtx_clusters (i : Nat) (f : Ctx → Ctx) : (d.setCtx i f).clusters = d.clusters := by unfold setCtx; split <;> rfl
@[simp] theorem setCtx_mis (i : Nat) (f : Ctx → Ctx) : (d.setCtx i f).mis = d.mis := by unfold setCtx; split <;> rfl
@[simp] theorem setCtx_staged (i : Nat) (f : Ctx → Ctx) : (d.setCtx i f).staged = d.staged := by unfold setCtx; split <;> rfl
@[simp] theorem setCtx_upsets (i : Nat) (f : Ctx → Ctx) : (d.setCtx i f).upsets = d.upsets := by unfold setCtx; split <;> rfl
@[simp] theorem setCtx_net (i : Nat) (f : Ctx → Ctx) : (d.setCtx i f).net = d.net := by unfold setCtx; split <;> rfl
@[simp] theorem setCtx_codec (i : Nat) (f : Ctx → Ctx) : (d.setCtx i f).codec = d.codec := by unfold setCtx; split <;> rfl
@[simp] theorem setCtx_power (i : Nat) (f : Ctx → Ctx) : (d.setCtx i f).power = d.power := by unfold setCtx; split <;> rfl
@[simp] theorem setCtx_trace (i : Nat) (f : Ctx → Ctx) : (d.setCtx i f).trace = d.trace := by unfold setCtx; split <;> rfl
@[simp] theorem setCtx_ctr (i : Nat) (f : Ctx → Ctx) : (d.setCtx i f).ctr = d.ctr := by unfold setCtx; split <;> rfl
@[simp] theorem setCtx_i3c (i : Nat) (f : Ctx → Ctx) : (d.setCtx i f).i3c = d.i3c := by unfold setCtx; split <;> rfl
@[simp] theorem setCtx_scrub (i : Nat) (f : Ctx → Ctx) : (d.setCtx i f).scrub = d.scrub := by unfold setCtx; split <;> rfl
@[simp] theorem setCtx_burn (i : Nat) (f : Ctx → Ctx) : (d.setCtx i f).burn = d.burn := by unfold setCtx; split <;> rfl
@[simp] theorem setCtx_staging (i : Nat) (f : Ctx → Ctx) : (d.setCtx i f).staging = d.staging := by unfold setCtx; split <;> rfl
@[simp] theorem setCtx_placing (i : Nat) (f : Ctx → Ctx) : (d.setCtx i f).placing = d.placing := by unfold setCtx; split <;> rfl
@[simp] theorem setCtx_delivered (i : Nat) (f : Ctx → Ctx) : (d.setCtx i f).delivered = d.delivered := by unfold setCtx; split <;> rfl

@[simp] theorem setStack_part (i : Nat) (f : Stack → Stack) : (d.setStack i f).part = d.part := rfl
@[simp] theorem setStack_now (i : Nat) (f : Stack → Stack) : (d.setStack i f).now = d.now := rfl
@[simp] theorem setStack_fresh (i : Nat) (f : Stack → Stack) : (d.setStack i f).fresh = d.fresh := rfl
@[simp] theorem setStack_st (i : Nat) (f : Stack → Stack) : (d.setStack i f).st = d.st := rfl
@[simp] theorem setStack_fast (i : Nat) (f : Stack → Stack) : (d.setStack i f).fast = d.fast := rfl
@[simp] theorem setStack_boot (i : Nat) (f : Stack → Stack) : (d.setStack i f).boot = d.boot := rfl
@[simp] theorem setStack_tu (i : Nat) (f : Stack → Stack) : (d.setStack i f).tu = d.tu := rfl
@[simp] theorem setStack_slots (i : Nat) (f : Stack → Stack) : (d.setStack i f).slots = d.slots := rfl
@[simp] theorem setStack_ctxs (i : Nat) (f : Stack → Stack) : (d.setStack i f).ctxs = d.ctxs := rfl
@[simp] theorem setStack_mboxes (i : Nat) (f : Stack → Stack) : (d.setStack i f).mboxes = d.mboxes := rfl
@[simp] theorem setStack_accepted (i : Nat) (f : Stack → Stack) : (d.setStack i f).accepted = d.accepted := rfl
@[simp] theorem setStack_mem (i : Nat) (f : Stack → Stack) : (d.setStack i f).mem = d.mem := rfl
@[simp] theorem setStack_mcfg (i : Nat) (f : Stack → Stack) : (d.setStack i f).mcfg = d.mcfg := rfl
@[simp] theorem setStack_sq (i : Nat) (f : Stack → Stack) : (d.setStack i f).sq = d.sq := rfl
@[simp] theorem setStack_kerb (i : Nat) (f : Stack → Stack) : (d.setStack i f).kerb = d.kerb := rfl
@[simp] theorem setStack_kcmds (i : Nat) (f : Stack → Stack) : (d.setStack i f).kcmds = d.kcmds := rfl
@[simp] theorem setStack_clusters (i : Nat) (f : Stack → Stack) : (d.setStack i f).clusters = d.clusters := rfl
@[simp] theorem setStack_mis (i : Nat) (f : Stack → Stack) : (d.setStack i f).mis = d.mis := rfl
@[simp] theorem setStack_staged (i : Nat) (f : Stack → Stack) : (d.setStack i f).staged = d.staged := rfl
@[simp] theorem setStack_upsets (i : Nat) (f : Stack → Stack) : (d.setStack i f).upsets = d.upsets := rfl
@[simp] theorem setStack_net (i : Nat) (f : Stack → Stack) : (d.setStack i f).net = d.net := rfl
@[simp] theorem setStack_codec (i : Nat) (f : Stack → Stack) : (d.setStack i f).codec = d.codec := rfl
@[simp] theorem setStack_power (i : Nat) (f : Stack → Stack) : (d.setStack i f).power = d.power := rfl
@[simp] theorem setStack_trace (i : Nat) (f : Stack → Stack) : (d.setStack i f).trace = d.trace := rfl
@[simp] theorem setStack_ctr (i : Nat) (f : Stack → Stack) : (d.setStack i f).ctr = d.ctr := rfl
@[simp] theorem setStack_i3c (i : Nat) (f : Stack → Stack) : (d.setStack i f).i3c = d.i3c := rfl
@[simp] theorem setStack_scrub (i : Nat) (f : Stack → Stack) : (d.setStack i f).scrub = d.scrub := rfl
@[simp] theorem setStack_burn (i : Nat) (f : Stack → Stack) : (d.setStack i f).burn = d.burn := rfl
@[simp] theorem setStack_staging (i : Nat) (f : Stack → Stack) : (d.setStack i f).staging = d.staging := rfl
@[simp] theorem setStack_placing (i : Nat) (f : Stack → Stack) : (d.setStack i f).placing = d.placing := rfl
@[simp] theorem setStack_delivered (i : Nat) (f : Stack → Stack) : (d.setStack i f).delivered = d.delivered := rfl

@[simp] theorem setSq_part (i : Nat) (f : Square → Square) : (d.setSq i f).part = d.part := rfl
@[simp] theorem setSq_now (i : Nat) (f : Square → Square) : (d.setSq i f).now = d.now := rfl
@[simp] theorem setSq_fresh (i : Nat) (f : Square → Square) : (d.setSq i f).fresh = d.fresh := rfl
@[simp] theorem setSq_st (i : Nat) (f : Square → Square) : (d.setSq i f).st = d.st := rfl
@[simp] theorem setSq_fast (i : Nat) (f : Square → Square) : (d.setSq i f).fast = d.fast := rfl
@[simp] theorem setSq_boot (i : Nat) (f : Square → Square) : (d.setSq i f).boot = d.boot := rfl
@[simp] theorem setSq_tu (i : Nat) (f : Square → Square) : (d.setSq i f).tu = d.tu := rfl
@[simp] theorem setSq_slots (i : Nat) (f : Square → Square) : (d.setSq i f).slots = d.slots := rfl
@[simp] theorem setSq_ctxs (i : Nat) (f : Square → Square) : (d.setSq i f).ctxs = d.ctxs := rfl
@[simp] theorem setSq_mboxes (i : Nat) (f : Square → Square) : (d.setSq i f).mboxes = d.mboxes := rfl
@[simp] theorem setSq_accepted (i : Nat) (f : Square → Square) : (d.setSq i f).accepted = d.accepted := rfl
@[simp] theorem setSq_mem (i : Nat) (f : Square → Square) : (d.setSq i f).mem = d.mem := rfl
@[simp] theorem setSq_mcfg (i : Nat) (f : Square → Square) : (d.setSq i f).mcfg = d.mcfg := rfl
@[simp] theorem setSq_stk (i : Nat) (f : Square → Square) : (d.setSq i f).stk = d.stk := rfl
@[simp] theorem setSq_kerb (i : Nat) (f : Square → Square) : (d.setSq i f).kerb = d.kerb := rfl
@[simp] theorem setSq_kcmds (i : Nat) (f : Square → Square) : (d.setSq i f).kcmds = d.kcmds := rfl
@[simp] theorem setSq_clusters (i : Nat) (f : Square → Square) : (d.setSq i f).clusters = d.clusters := rfl
@[simp] theorem setSq_mis (i : Nat) (f : Square → Square) : (d.setSq i f).mis = d.mis := rfl
@[simp] theorem setSq_staged (i : Nat) (f : Square → Square) : (d.setSq i f).staged = d.staged := rfl
@[simp] theorem setSq_upsets (i : Nat) (f : Square → Square) : (d.setSq i f).upsets = d.upsets := rfl
@[simp] theorem setSq_net (i : Nat) (f : Square → Square) : (d.setSq i f).net = d.net := rfl
@[simp] theorem setSq_codec (i : Nat) (f : Square → Square) : (d.setSq i f).codec = d.codec := rfl
@[simp] theorem setSq_power (i : Nat) (f : Square → Square) : (d.setSq i f).power = d.power := rfl
@[simp] theorem setSq_trace (i : Nat) (f : Square → Square) : (d.setSq i f).trace = d.trace := rfl
@[simp] theorem setSq_ctr (i : Nat) (f : Square → Square) : (d.setSq i f).ctr = d.ctr := rfl
@[simp] theorem setSq_i3c (i : Nat) (f : Square → Square) : (d.setSq i f).i3c = d.i3c := rfl
@[simp] theorem setSq_scrub (i : Nat) (f : Square → Square) : (d.setSq i f).scrub = d.scrub := rfl
@[simp] theorem setSq_burn (i : Nat) (f : Square → Square) : (d.setSq i f).burn = d.burn := rfl
@[simp] theorem setSq_staging (i : Nat) (f : Square → Square) : (d.setSq i f).staging = d.staging := rfl
@[simp] theorem setSq_placing (i : Nat) (f : Square → Square) : (d.setSq i f).placing = d.placing := rfl
@[simp] theorem setSq_delivered (i : Nat) (f : Square → Square) : (d.setSq i f).delivered = d.delivered := rfl

@[simp] theorem setEng_part (i : Nat) (f : KEngine → KEngine) : (d.setEng i f).part = d.part := rfl
@[simp] theorem setEng_now (i : Nat) (f : KEngine → KEngine) : (d.setEng i f).now = d.now := rfl
@[simp] theorem setEng_fresh (i : Nat) (f : KEngine → KEngine) : (d.setEng i f).fresh = d.fresh := rfl
@[simp] theorem setEng_st (i : Nat) (f : KEngine → KEngine) : (d.setEng i f).st = d.st := rfl
@[simp] theorem setEng_fast (i : Nat) (f : KEngine → KEngine) : (d.setEng i f).fast = d.fast := rfl
@[simp] theorem setEng_boot (i : Nat) (f : KEngine → KEngine) : (d.setEng i f).boot = d.boot := rfl
@[simp] theorem setEng_tu (i : Nat) (f : KEngine → KEngine) : (d.setEng i f).tu = d.tu := rfl
@[simp] theorem setEng_slots (i : Nat) (f : KEngine → KEngine) : (d.setEng i f).slots = d.slots := rfl
@[simp] theorem setEng_ctxs (i : Nat) (f : KEngine → KEngine) : (d.setEng i f).ctxs = d.ctxs := rfl
@[simp] theorem setEng_mboxes (i : Nat) (f : KEngine → KEngine) : (d.setEng i f).mboxes = d.mboxes := rfl
@[simp] theorem setEng_accepted (i : Nat) (f : KEngine → KEngine) : (d.setEng i f).accepted = d.accepted := rfl
@[simp] theorem setEng_mem (i : Nat) (f : KEngine → KEngine) : (d.setEng i f).mem = d.mem := rfl
@[simp] theorem setEng_mcfg (i : Nat) (f : KEngine → KEngine) : (d.setEng i f).mcfg = d.mcfg := rfl
@[simp] theorem setEng_sq (i : Nat) (f : KEngine → KEngine) : (d.setEng i f).sq = d.sq := rfl
@[simp] theorem setEng_stk (i : Nat) (f : KEngine → KEngine) : (d.setEng i f).stk = d.stk := rfl
@[simp] theorem setEng_kcmds (i : Nat) (f : KEngine → KEngine) : (d.setEng i f).kcmds = d.kcmds := rfl
@[simp] theorem setEng_clusters (i : Nat) (f : KEngine → KEngine) : (d.setEng i f).clusters = d.clusters := rfl
@[simp] theorem setEng_mis (i : Nat) (f : KEngine → KEngine) : (d.setEng i f).mis = d.mis := rfl
@[simp] theorem setEng_staged (i : Nat) (f : KEngine → KEngine) : (d.setEng i f).staged = d.staged := rfl
@[simp] theorem setEng_upsets (i : Nat) (f : KEngine → KEngine) : (d.setEng i f).upsets = d.upsets := rfl
@[simp] theorem setEng_net (i : Nat) (f : KEngine → KEngine) : (d.setEng i f).net = d.net := rfl
@[simp] theorem setEng_codec (i : Nat) (f : KEngine → KEngine) : (d.setEng i f).codec = d.codec := rfl
@[simp] theorem setEng_power (i : Nat) (f : KEngine → KEngine) : (d.setEng i f).power = d.power := rfl
@[simp] theorem setEng_trace (i : Nat) (f : KEngine → KEngine) : (d.setEng i f).trace = d.trace := rfl
@[simp] theorem setEng_ctr (i : Nat) (f : KEngine → KEngine) : (d.setEng i f).ctr = d.ctr := rfl
@[simp] theorem setEng_i3c (i : Nat) (f : KEngine → KEngine) : (d.setEng i f).i3c = d.i3c := rfl
@[simp] theorem setEng_scrub (i : Nat) (f : KEngine → KEngine) : (d.setEng i f).scrub = d.scrub := rfl
@[simp] theorem setEng_burn (i : Nat) (f : KEngine → KEngine) : (d.setEng i f).burn = d.burn := rfl
@[simp] theorem setEng_staging (i : Nat) (f : KEngine → KEngine) : (d.setEng i f).staging = d.staging := rfl
@[simp] theorem setEng_placing (i : Nat) (f : KEngine → KEngine) : (d.setEng i f).placing = d.placing := rfl
@[simp] theorem setEng_delivered (i : Nat) (f : KEngine → KEngine) : (d.setEng i f).delivered = d.delivered := rfl

@[simp] theorem setMbox_part (i : Nat) (f : Mbox → Mbox) : (d.setMbox i f).part = d.part := rfl
@[simp] theorem setMbox_now (i : Nat) (f : Mbox → Mbox) : (d.setMbox i f).now = d.now := rfl
@[simp] theorem setMbox_fresh (i : Nat) (f : Mbox → Mbox) : (d.setMbox i f).fresh = d.fresh := rfl
@[simp] theorem setMbox_st (i : Nat) (f : Mbox → Mbox) : (d.setMbox i f).st = d.st := rfl
@[simp] theorem setMbox_fast (i : Nat) (f : Mbox → Mbox) : (d.setMbox i f).fast = d.fast := rfl
@[simp] theorem setMbox_boot (i : Nat) (f : Mbox → Mbox) : (d.setMbox i f).boot = d.boot := rfl
@[simp] theorem setMbox_tu (i : Nat) (f : Mbox → Mbox) : (d.setMbox i f).tu = d.tu := rfl
@[simp] theorem setMbox_slots (i : Nat) (f : Mbox → Mbox) : (d.setMbox i f).slots = d.slots := rfl
@[simp] theorem setMbox_ctxs (i : Nat) (f : Mbox → Mbox) : (d.setMbox i f).ctxs = d.ctxs := rfl
@[simp] theorem setMbox_accepted (i : Nat) (f : Mbox → Mbox) : (d.setMbox i f).accepted = d.accepted := rfl
@[simp] theorem setMbox_mem (i : Nat) (f : Mbox → Mbox) : (d.setMbox i f).mem = d.mem := rfl
@[simp] theorem setMbox_mcfg (i : Nat) (f : Mbox → Mbox) : (d.setMbox i f).mcfg = d.mcfg := rfl
@[simp] theorem setMbox_sq (i : Nat) (f : Mbox → Mbox) : (d.setMbox i f).sq = d.sq := rfl
@[simp] theorem setMbox_stk (i : Nat) (f : Mbox → Mbox) : (d.setMbox i f).stk = d.stk := rfl
@[simp] theorem setMbox_kerb (i : Nat) (f : Mbox → Mbox) : (d.setMbox i f).kerb = d.kerb := rfl
@[simp] theorem setMbox_kcmds (i : Nat) (f : Mbox → Mbox) : (d.setMbox i f).kcmds = d.kcmds := rfl
@[simp] theorem setMbox_clusters (i : Nat) (f : Mbox → Mbox) : (d.setMbox i f).clusters = d.clusters := rfl
@[simp] theorem setMbox_mis (i : Nat) (f : Mbox → Mbox) : (d.setMbox i f).mis = d.mis := rfl
@[simp] theorem setMbox_staged (i : Nat) (f : Mbox → Mbox) : (d.setMbox i f).staged = d.staged := rfl
@[simp] theorem setMbox_upsets (i : Nat) (f : Mbox → Mbox) : (d.setMbox i f).upsets = d.upsets := rfl
@[simp] theorem setMbox_net (i : Nat) (f : Mbox → Mbox) : (d.setMbox i f).net = d.net := rfl
@[simp] theorem setMbox_codec (i : Nat) (f : Mbox → Mbox) : (d.setMbox i f).codec = d.codec := rfl
@[simp] theorem setMbox_power (i : Nat) (f : Mbox → Mbox) : (d.setMbox i f).power = d.power := rfl
@[simp] theorem setMbox_trace (i : Nat) (f : Mbox → Mbox) : (d.setMbox i f).trace = d.trace := rfl
@[simp] theorem setMbox_ctr (i : Nat) (f : Mbox → Mbox) : (d.setMbox i f).ctr = d.ctr := rfl
@[simp] theorem setMbox_i3c (i : Nat) (f : Mbox → Mbox) : (d.setMbox i f).i3c = d.i3c := rfl
@[simp] theorem setMbox_scrub (i : Nat) (f : Mbox → Mbox) : (d.setMbox i f).scrub = d.scrub := rfl
@[simp] theorem setMbox_burn (i : Nat) (f : Mbox → Mbox) : (d.setMbox i f).burn = d.burn := rfl
@[simp] theorem setMbox_staging (i : Nat) (f : Mbox → Mbox) : (d.setMbox i f).staging = d.staging := rfl
@[simp] theorem setMbox_placing (i : Nat) (f : Mbox → Mbox) : (d.setMbox i f).placing = d.placing := rfl
@[simp] theorem setMbox_delivered (i : Nat) (f : Mbox → Mbox) : (d.setMbox i f).delivered = d.delivered := rfl

@[simp] theorem setCluster_part (i : Nat) (f : Cluster → Cluster) : (d.setCluster i f).part = d.part := rfl
@[simp] theorem setCluster_now (i : Nat) (f : Cluster → Cluster) : (d.setCluster i f).now = d.now := rfl
@[simp] theorem setCluster_fresh (i : Nat) (f : Cluster → Cluster) : (d.setCluster i f).fresh = d.fresh := rfl
@[simp] theorem setCluster_st (i : Nat) (f : Cluster → Cluster) : (d.setCluster i f).st = d.st := rfl
@[simp] theorem setCluster_fast (i : Nat) (f : Cluster → Cluster) : (d.setCluster i f).fast = d.fast := rfl
@[simp] theorem setCluster_boot (i : Nat) (f : Cluster → Cluster) : (d.setCluster i f).boot = d.boot := rfl
@[simp] theorem setCluster_tu (i : Nat) (f : Cluster → Cluster) : (d.setCluster i f).tu = d.tu := rfl
@[simp] theorem setCluster_slots (i : Nat) (f : Cluster → Cluster) : (d.setCluster i f).slots = d.slots := rfl
@[simp] theorem setCluster_ctxs (i : Nat) (f : Cluster → Cluster) : (d.setCluster i f).ctxs = d.ctxs := rfl
@[simp] theorem setCluster_mboxes (i : Nat) (f : Cluster → Cluster) : (d.setCluster i f).mboxes = d.mboxes := rfl
@[simp] theorem setCluster_accepted (i : Nat) (f : Cluster → Cluster) : (d.setCluster i f).accepted = d.accepted := rfl
@[simp] theorem setCluster_mem (i : Nat) (f : Cluster → Cluster) : (d.setCluster i f).mem = d.mem := rfl
@[simp] theorem setCluster_mcfg (i : Nat) (f : Cluster → Cluster) : (d.setCluster i f).mcfg = d.mcfg := rfl
@[simp] theorem setCluster_sq (i : Nat) (f : Cluster → Cluster) : (d.setCluster i f).sq = d.sq := rfl
@[simp] theorem setCluster_stk (i : Nat) (f : Cluster → Cluster) : (d.setCluster i f).stk = d.stk := rfl
@[simp] theorem setCluster_kerb (i : Nat) (f : Cluster → Cluster) : (d.setCluster i f).kerb = d.kerb := rfl
@[simp] theorem setCluster_kcmds (i : Nat) (f : Cluster → Cluster) : (d.setCluster i f).kcmds = d.kcmds := rfl
@[simp] theorem setCluster_mis (i : Nat) (f : Cluster → Cluster) : (d.setCluster i f).mis = d.mis := rfl
@[simp] theorem setCluster_staged (i : Nat) (f : Cluster → Cluster) : (d.setCluster i f).staged = d.staged := rfl
@[simp] theorem setCluster_upsets (i : Nat) (f : Cluster → Cluster) : (d.setCluster i f).upsets = d.upsets := rfl
@[simp] theorem setCluster_net (i : Nat) (f : Cluster → Cluster) : (d.setCluster i f).net = d.net := rfl
@[simp] theorem setCluster_codec (i : Nat) (f : Cluster → Cluster) : (d.setCluster i f).codec = d.codec := rfl
@[simp] theorem setCluster_power (i : Nat) (f : Cluster → Cluster) : (d.setCluster i f).power = d.power := rfl
@[simp] theorem setCluster_trace (i : Nat) (f : Cluster → Cluster) : (d.setCluster i f).trace = d.trace := rfl
@[simp] theorem setCluster_ctr (i : Nat) (f : Cluster → Cluster) : (d.setCluster i f).ctr = d.ctr := rfl
@[simp] theorem setCluster_i3c (i : Nat) (f : Cluster → Cluster) : (d.setCluster i f).i3c = d.i3c := rfl
@[simp] theorem setCluster_scrub (i : Nat) (f : Cluster → Cluster) : (d.setCluster i f).scrub = d.scrub := rfl
@[simp] theorem setCluster_burn (i : Nat) (f : Cluster → Cluster) : (d.setCluster i f).burn = d.burn := rfl
@[simp] theorem setCluster_staging (i : Nat) (f : Cluster → Cluster) : (d.setCluster i f).staging = d.staging := rfl
@[simp] theorem setCluster_placing (i : Nat) (f : Cluster → Cluster) : (d.setCluster i f).placing = d.placing := rfl
@[simp] theorem setCluster_delivered (i : Nat) (f : Cluster → Cluster) : (d.setCluster i f).delivered = d.delivered := rfl

@[simp] theorem setCodec_part (i : Nat) (f : Codec → Codec) : (d.setCodec i f).part = d.part := rfl
@[simp] theorem setCodec_now (i : Nat) (f : Codec → Codec) : (d.setCodec i f).now = d.now := rfl
@[simp] theorem setCodec_fresh (i : Nat) (f : Codec → Codec) : (d.setCodec i f).fresh = d.fresh := rfl
@[simp] theorem setCodec_st (i : Nat) (f : Codec → Codec) : (d.setCodec i f).st = d.st := rfl
@[simp] theorem setCodec_fast (i : Nat) (f : Codec → Codec) : (d.setCodec i f).fast = d.fast := rfl
@[simp] theorem setCodec_boot (i : Nat) (f : Codec → Codec) : (d.setCodec i f).boot = d.boot := rfl
@[simp] theorem setCodec_tu (i : Nat) (f : Codec → Codec) : (d.setCodec i f).tu = d.tu := rfl
@[simp] theorem setCodec_slots (i : Nat) (f : Codec → Codec) : (d.setCodec i f).slots = d.slots := rfl
@[simp] theorem setCodec_ctxs (i : Nat) (f : Codec → Codec) : (d.setCodec i f).ctxs = d.ctxs := rfl
@[simp] theorem setCodec_mboxes (i : Nat) (f : Codec → Codec) : (d.setCodec i f).mboxes = d.mboxes := rfl
@[simp] theorem setCodec_accepted (i : Nat) (f : Codec → Codec) : (d.setCodec i f).accepted = d.accepted := rfl
@[simp] theorem setCodec_mem (i : Nat) (f : Codec → Codec) : (d.setCodec i f).mem = d.mem := rfl
@[simp] theorem setCodec_mcfg (i : Nat) (f : Codec → Codec) : (d.setCodec i f).mcfg = d.mcfg := rfl
@[simp] theorem setCodec_sq (i : Nat) (f : Codec → Codec) : (d.setCodec i f).sq = d.sq := rfl
@[simp] theorem setCodec_stk (i : Nat) (f : Codec → Codec) : (d.setCodec i f).stk = d.stk := rfl
@[simp] theorem setCodec_kerb (i : Nat) (f : Codec → Codec) : (d.setCodec i f).kerb = d.kerb := rfl
@[simp] theorem setCodec_kcmds (i : Nat) (f : Codec → Codec) : (d.setCodec i f).kcmds = d.kcmds := rfl
@[simp] theorem setCodec_clusters (i : Nat) (f : Codec → Codec) : (d.setCodec i f).clusters = d.clusters := rfl
@[simp] theorem setCodec_mis (i : Nat) (f : Codec → Codec) : (d.setCodec i f).mis = d.mis := rfl
@[simp] theorem setCodec_staged (i : Nat) (f : Codec → Codec) : (d.setCodec i f).staged = d.staged := rfl
@[simp] theorem setCodec_upsets (i : Nat) (f : Codec → Codec) : (d.setCodec i f).upsets = d.upsets := rfl
@[simp] theorem setCodec_net (i : Nat) (f : Codec → Codec) : (d.setCodec i f).net = d.net := rfl
@[simp] theorem setCodec_power (i : Nat) (f : Codec → Codec) : (d.setCodec i f).power = d.power := rfl
@[simp] theorem setCodec_trace (i : Nat) (f : Codec → Codec) : (d.setCodec i f).trace = d.trace := rfl
@[simp] theorem setCodec_ctr (i : Nat) (f : Codec → Codec) : (d.setCodec i f).ctr = d.ctr := rfl
@[simp] theorem setCodec_i3c (i : Nat) (f : Codec → Codec) : (d.setCodec i f).i3c = d.i3c := rfl
@[simp] theorem setCodec_scrub (i : Nat) (f : Codec → Codec) : (d.setCodec i f).scrub = d.scrub := rfl
@[simp] theorem setCodec_burn (i : Nat) (f : Codec → Codec) : (d.setCodec i f).burn = d.burn := rfl
@[simp] theorem setCodec_staging (i : Nat) (f : Codec → Codec) : (d.setCodec i f).staging = d.staging := rfl
@[simp] theorem setCodec_placing (i : Nat) (f : Codec → Codec) : (d.setCodec i f).placing = d.placing := rfl
@[simp] theorem setCodec_delivered (i : Nat) (f : Codec → Codec) : (d.setCodec i f).delivered = d.delivered := rfl

@[simp] theorem setPort_part (i : Nat) (f : Port → Port) : (d.setPort i f).part = d.part := rfl
@[simp] theorem setPort_now (i : Nat) (f : Port → Port) : (d.setPort i f).now = d.now := rfl
@[simp] theorem setPort_fresh (i : Nat) (f : Port → Port) : (d.setPort i f).fresh = d.fresh := rfl
@[simp] theorem setPort_st (i : Nat) (f : Port → Port) : (d.setPort i f).st = d.st := rfl
@[simp] theorem setPort_fast (i : Nat) (f : Port → Port) : (d.setPort i f).fast = d.fast := rfl
@[simp] theorem setPort_boot (i : Nat) (f : Port → Port) : (d.setPort i f).boot = d.boot := rfl
@[simp] theorem setPort_tu (i : Nat) (f : Port → Port) : (d.setPort i f).tu = d.tu := rfl
@[simp] theorem setPort_slots (i : Nat) (f : Port → Port) : (d.setPort i f).slots = d.slots := rfl
@[simp] theorem setPort_ctxs (i : Nat) (f : Port → Port) : (d.setPort i f).ctxs = d.ctxs := rfl
@[simp] theorem setPort_mboxes (i : Nat) (f : Port → Port) : (d.setPort i f).mboxes = d.mboxes := rfl
@[simp] theorem setPort_accepted (i : Nat) (f : Port → Port) : (d.setPort i f).accepted = d.accepted := rfl
@[simp] theorem setPort_mem (i : Nat) (f : Port → Port) : (d.setPort i f).mem = d.mem := rfl
@[simp] theorem setPort_mcfg (i : Nat) (f : Port → Port) : (d.setPort i f).mcfg = d.mcfg := rfl
@[simp] theorem setPort_sq (i : Nat) (f : Port → Port) : (d.setPort i f).sq = d.sq := rfl
@[simp] theorem setPort_stk (i : Nat) (f : Port → Port) : (d.setPort i f).stk = d.stk := rfl
@[simp] theorem setPort_kerb (i : Nat) (f : Port → Port) : (d.setPort i f).kerb = d.kerb := rfl
@[simp] theorem setPort_kcmds (i : Nat) (f : Port → Port) : (d.setPort i f).kcmds = d.kcmds := rfl
@[simp] theorem setPort_clusters (i : Nat) (f : Port → Port) : (d.setPort i f).clusters = d.clusters := rfl
@[simp] theorem setPort_mis (i : Nat) (f : Port → Port) : (d.setPort i f).mis = d.mis := rfl
@[simp] theorem setPort_staged (i : Nat) (f : Port → Port) : (d.setPort i f).staged = d.staged := rfl
@[simp] theorem setPort_upsets (i : Nat) (f : Port → Port) : (d.setPort i f).upsets = d.upsets := rfl
@[simp] theorem setPort_codec (i : Nat) (f : Port → Port) : (d.setPort i f).codec = d.codec := rfl
@[simp] theorem setPort_power (i : Nat) (f : Port → Port) : (d.setPort i f).power = d.power := rfl
@[simp] theorem setPort_trace (i : Nat) (f : Port → Port) : (d.setPort i f).trace = d.trace := rfl
@[simp] theorem setPort_ctr (i : Nat) (f : Port → Port) : (d.setPort i f).ctr = d.ctr := rfl
@[simp] theorem setPort_i3c (i : Nat) (f : Port → Port) : (d.setPort i f).i3c = d.i3c := rfl
@[simp] theorem setPort_scrub (i : Nat) (f : Port → Port) : (d.setPort i f).scrub = d.scrub := rfl
@[simp] theorem setPort_burn (i : Nat) (f : Port → Port) : (d.setPort i f).burn = d.burn := rfl
@[simp] theorem setPort_staging (i : Nat) (f : Port → Port) : (d.setPort i f).staging = d.staging := rfl
@[simp] theorem setPort_placing (i : Nat) (f : Port → Port) : (d.setPort i f).placing = d.placing := rfl
@[simp] theorem setPort_delivered (i : Nat) (f : Port → Port) : (d.setPort i f).delivered = d.delivered := rfl

@[simp] theorem setSpace_part (s : Space) : (d.setSpace s).part = d.part := rfl
@[simp] theorem setSpace_now (s : Space) : (d.setSpace s).now = d.now := rfl
@[simp] theorem setSpace_fresh (s : Space) : (d.setSpace s).fresh = d.fresh := rfl
@[simp] theorem setSpace_st (s : Space) : (d.setSpace s).st = d.st := rfl
@[simp] theorem setSpace_fast (s : Space) : (d.setSpace s).fast = d.fast := rfl
@[simp] theorem setSpace_boot (s : Space) : (d.setSpace s).boot = d.boot := rfl
@[simp] theorem setSpace_tu (s : Space) : (d.setSpace s).tu = d.tu := rfl
@[simp] theorem setSpace_slots (s : Space) : (d.setSpace s).slots = d.slots := rfl
@[simp] theorem setSpace_ctxs (s : Space) : (d.setSpace s).ctxs = d.ctxs := rfl
@[simp] theorem setSpace_mboxes (s : Space) : (d.setSpace s).mboxes = d.mboxes := rfl
@[simp] theorem setSpace_accepted (s : Space) : (d.setSpace s).accepted = d.accepted := rfl
@[simp] theorem setSpace_mem (s : Space) : (d.setSpace s).mem = d.mem := rfl
@[simp] theorem setSpace_mcfg (s : Space) : (d.setSpace s).mcfg = d.mcfg := rfl
@[simp] theorem setSpace_sq (s : Space) : (d.setSpace s).sq = d.sq := rfl
@[simp] theorem setSpace_stk (s : Space) : (d.setSpace s).stk = d.stk := rfl
@[simp] theorem setSpace_kerb (s : Space) : (d.setSpace s).kerb = d.kerb := rfl
@[simp] theorem setSpace_kcmds (s : Space) : (d.setSpace s).kcmds = d.kcmds := rfl
@[simp] theorem setSpace_clusters (s : Space) : (d.setSpace s).clusters = d.clusters := rfl
@[simp] theorem setSpace_mis (s : Space) : (d.setSpace s).mis = d.mis := rfl
@[simp] theorem setSpace_staged (s : Space) : (d.setSpace s).staged = d.staged := rfl
@[simp] theorem setSpace_upsets (s : Space) : (d.setSpace s).upsets = d.upsets := rfl
@[simp] theorem setSpace_codec (s : Space) : (d.setSpace s).codec = d.codec := rfl
@[simp] theorem setSpace_power (s : Space) : (d.setSpace s).power = d.power := rfl
@[simp] theorem setSpace_trace (s : Space) : (d.setSpace s).trace = d.trace := rfl
@[simp] theorem setSpace_ctr (s : Space) : (d.setSpace s).ctr = d.ctr := rfl
@[simp] theorem setSpace_i3c (s : Space) : (d.setSpace s).i3c = d.i3c := rfl
@[simp] theorem setSpace_scrub (s : Space) : (d.setSpace s).scrub = d.scrub := rfl
@[simp] theorem setSpace_burn (s : Space) : (d.setSpace s).burn = d.burn := rfl
@[simp] theorem setSpace_staging (s : Space) : (d.setSpace s).staging = d.staging := rfl
@[simp] theorem setSpace_placing (s : Space) : (d.setSpace s).placing = d.placing := rfl
@[simp] theorem setSpace_delivered (s : Space) : (d.setSpace s).delivered = d.delivered := rfl

@[simp] theorem setMi_part (i : Nat) (f : InFlight → InFlight) : (d.setMi i f).part = d.part := rfl
@[simp] theorem setMi_now (i : Nat) (f : InFlight → InFlight) : (d.setMi i f).now = d.now := rfl
@[simp] theorem setMi_fresh (i : Nat) (f : InFlight → InFlight) : (d.setMi i f).fresh = d.fresh := rfl
@[simp] theorem setMi_st (i : Nat) (f : InFlight → InFlight) : (d.setMi i f).st = d.st := rfl
@[simp] theorem setMi_fast (i : Nat) (f : InFlight → InFlight) : (d.setMi i f).fast = d.fast := rfl
@[simp] theorem setMi_boot (i : Nat) (f : InFlight → InFlight) : (d.setMi i f).boot = d.boot := rfl
@[simp] theorem setMi_tu (i : Nat) (f : InFlight → InFlight) : (d.setMi i f).tu = d.tu := rfl
@[simp] theorem setMi_slots (i : Nat) (f : InFlight → InFlight) : (d.setMi i f).slots = d.slots := rfl
@[simp] theorem setMi_ctxs (i : Nat) (f : InFlight → InFlight) : (d.setMi i f).ctxs = d.ctxs := rfl
@[simp] theorem setMi_mboxes (i : Nat) (f : InFlight → InFlight) : (d.setMi i f).mboxes = d.mboxes := rfl
@[simp] theorem setMi_accepted (i : Nat) (f : InFlight → InFlight) : (d.setMi i f).accepted = d.accepted := rfl
@[simp] theorem setMi_mem (i : Nat) (f : InFlight → InFlight) : (d.setMi i f).mem = d.mem := rfl
@[simp] theorem setMi_mcfg (i : Nat) (f : InFlight → InFlight) : (d.setMi i f).mcfg = d.mcfg := rfl
@[simp] theorem setMi_sq (i : Nat) (f : InFlight → InFlight) : (d.setMi i f).sq = d.sq := rfl
@[simp] theorem setMi_stk (i : Nat) (f : InFlight → InFlight) : (d.setMi i f).stk = d.stk := rfl
@[simp] theorem setMi_kerb (i : Nat) (f : InFlight → InFlight) : (d.setMi i f).kerb = d.kerb := rfl
@[simp] theorem setMi_kcmds (i : Nat) (f : InFlight → InFlight) : (d.setMi i f).kcmds = d.kcmds := rfl
@[simp] theorem setMi_clusters (i : Nat) (f : InFlight → InFlight) : (d.setMi i f).clusters = d.clusters := rfl
@[simp] theorem setMi_staged (i : Nat) (f : InFlight → InFlight) : (d.setMi i f).staged = d.staged := rfl
@[simp] theorem setMi_upsets (i : Nat) (f : InFlight → InFlight) : (d.setMi i f).upsets = d.upsets := rfl
@[simp] theorem setMi_net (i : Nat) (f : InFlight → InFlight) : (d.setMi i f).net = d.net := rfl
@[simp] theorem setMi_codec (i : Nat) (f : InFlight → InFlight) : (d.setMi i f).codec = d.codec := rfl
@[simp] theorem setMi_power (i : Nat) (f : InFlight → InFlight) : (d.setMi i f).power = d.power := rfl
@[simp] theorem setMi_trace (i : Nat) (f : InFlight → InFlight) : (d.setMi i f).trace = d.trace := rfl
@[simp] theorem setMi_ctr (i : Nat) (f : InFlight → InFlight) : (d.setMi i f).ctr = d.ctr := rfl
@[simp] theorem setMi_i3c (i : Nat) (f : InFlight → InFlight) : (d.setMi i f).i3c = d.i3c := rfl
@[simp] theorem setMi_scrub (i : Nat) (f : InFlight → InFlight) : (d.setMi i f).scrub = d.scrub := rfl
@[simp] theorem setMi_burn (i : Nat) (f : InFlight → InFlight) : (d.setMi i f).burn = d.burn := rfl
@[simp] theorem setMi_staging (i : Nat) (f : InFlight → InFlight) : (d.setMi i f).staging = d.staging := rfl
@[simp] theorem setMi_placing (i : Nat) (f : InFlight → InFlight) : (d.setMi i f).placing = d.placing := rfl
@[simp] theorem setMi_delivered (i : Nat) (f : InFlight → InFlight) : (d.setMi i f).delivered = d.delivered := rfl

@[simp] theorem setKcmd_part (i : Nat) (f : KCmd → KCmd) : (d.setKcmd i f).part = d.part := rfl
@[simp] theorem setKcmd_now (i : Nat) (f : KCmd → KCmd) : (d.setKcmd i f).now = d.now := rfl
@[simp] theorem setKcmd_fresh (i : Nat) (f : KCmd → KCmd) : (d.setKcmd i f).fresh = d.fresh := rfl
@[simp] theorem setKcmd_st (i : Nat) (f : KCmd → KCmd) : (d.setKcmd i f).st = d.st := rfl
@[simp] theorem setKcmd_fast (i : Nat) (f : KCmd → KCmd) : (d.setKcmd i f).fast = d.fast := rfl
@[simp] theorem setKcmd_boot (i : Nat) (f : KCmd → KCmd) : (d.setKcmd i f).boot = d.boot := rfl
@[simp] theorem setKcmd_tu (i : Nat) (f : KCmd → KCmd) : (d.setKcmd i f).tu = d.tu := rfl
@[simp] theorem setKcmd_slots (i : Nat) (f : KCmd → KCmd) : (d.setKcmd i f).slots = d.slots := rfl
@[simp] theorem setKcmd_ctxs (i : Nat) (f : KCmd → KCmd) : (d.setKcmd i f).ctxs = d.ctxs := rfl
@[simp] theorem setKcmd_mboxes (i : Nat) (f : KCmd → KCmd) : (d.setKcmd i f).mboxes = d.mboxes := rfl
@[simp] theorem setKcmd_accepted (i : Nat) (f : KCmd → KCmd) : (d.setKcmd i f).accepted = d.accepted := rfl
@[simp] theorem setKcmd_mem (i : Nat) (f : KCmd → KCmd) : (d.setKcmd i f).mem = d.mem := rfl
@[simp] theorem setKcmd_mcfg (i : Nat) (f : KCmd → KCmd) : (d.setKcmd i f).mcfg = d.mcfg := rfl
@[simp] theorem setKcmd_sq (i : Nat) (f : KCmd → KCmd) : (d.setKcmd i f).sq = d.sq := rfl
@[simp] theorem setKcmd_stk (i : Nat) (f : KCmd → KCmd) : (d.setKcmd i f).stk = d.stk := rfl
@[simp] theorem setKcmd_kerb (i : Nat) (f : KCmd → KCmd) : (d.setKcmd i f).kerb = d.kerb := rfl
@[simp] theorem setKcmd_clusters (i : Nat) (f : KCmd → KCmd) : (d.setKcmd i f).clusters = d.clusters := rfl
@[simp] theorem setKcmd_mis (i : Nat) (f : KCmd → KCmd) : (d.setKcmd i f).mis = d.mis := rfl
@[simp] theorem setKcmd_staged (i : Nat) (f : KCmd → KCmd) : (d.setKcmd i f).staged = d.staged := rfl
@[simp] theorem setKcmd_upsets (i : Nat) (f : KCmd → KCmd) : (d.setKcmd i f).upsets = d.upsets := rfl
@[simp] theorem setKcmd_net (i : Nat) (f : KCmd → KCmd) : (d.setKcmd i f).net = d.net := rfl
@[simp] theorem setKcmd_codec (i : Nat) (f : KCmd → KCmd) : (d.setKcmd i f).codec = d.codec := rfl
@[simp] theorem setKcmd_power (i : Nat) (f : KCmd → KCmd) : (d.setKcmd i f).power = d.power := rfl
@[simp] theorem setKcmd_trace (i : Nat) (f : KCmd → KCmd) : (d.setKcmd i f).trace = d.trace := rfl
@[simp] theorem setKcmd_ctr (i : Nat) (f : KCmd → KCmd) : (d.setKcmd i f).ctr = d.ctr := rfl
@[simp] theorem setKcmd_i3c (i : Nat) (f : KCmd → KCmd) : (d.setKcmd i f).i3c = d.i3c := rfl
@[simp] theorem setKcmd_scrub (i : Nat) (f : KCmd → KCmd) : (d.setKcmd i f).scrub = d.scrub := rfl
@[simp] theorem setKcmd_burn (i : Nat) (f : KCmd → KCmd) : (d.setKcmd i f).burn = d.burn := rfl
@[simp] theorem setKcmd_staging (i : Nat) (f : KCmd → KCmd) : (d.setKcmd i f).staging = d.staging := rfl
@[simp] theorem setKcmd_placing (i : Nat) (f : KCmd → KCmd) : (d.setKcmd i f).placing = d.placing := rfl
@[simp] theorem setKcmd_delivered (i : Nat) (f : KCmd → KCmd) : (d.setKcmd i f).delivered = d.delivered := rfl

@[simp] theorem setGroup_part (i : Nat) (f : Group → Group) : (d.setGroup i f).part = d.part := rfl
@[simp] theorem setGroup_now (i : Nat) (f : Group → Group) : (d.setGroup i f).now = d.now := rfl
@[simp] theorem setGroup_fresh (i : Nat) (f : Group → Group) : (d.setGroup i f).fresh = d.fresh := rfl
@[simp] theorem setGroup_st (i : Nat) (f : Group → Group) : (d.setGroup i f).st = d.st := rfl
@[simp] theorem setGroup_fast (i : Nat) (f : Group → Group) : (d.setGroup i f).fast = d.fast := rfl
@[simp] theorem setGroup_boot (i : Nat) (f : Group → Group) : (d.setGroup i f).boot = d.boot := rfl
@[simp] theorem setGroup_tu (i : Nat) (f : Group → Group) : (d.setGroup i f).tu = d.tu := rfl
@[simp] theorem setGroup_slots (i : Nat) (f : Group → Group) : (d.setGroup i f).slots = d.slots := rfl
@[simp] theorem setGroup_ctxs (i : Nat) (f : Group → Group) : (d.setGroup i f).ctxs = d.ctxs := rfl
@[simp] theorem setGroup_mboxes (i : Nat) (f : Group → Group) : (d.setGroup i f).mboxes = d.mboxes := rfl
@[simp] theorem setGroup_accepted (i : Nat) (f : Group → Group) : (d.setGroup i f).accepted = d.accepted := rfl
@[simp] theorem setGroup_mem (i : Nat) (f : Group → Group) : (d.setGroup i f).mem = d.mem := rfl
@[simp] theorem setGroup_mcfg (i : Nat) (f : Group → Group) : (d.setGroup i f).mcfg = d.mcfg := rfl
@[simp] theorem setGroup_sq (i : Nat) (f : Group → Group) : (d.setGroup i f).sq = d.sq := rfl
@[simp] theorem setGroup_stk (i : Nat) (f : Group → Group) : (d.setGroup i f).stk = d.stk := rfl
@[simp] theorem setGroup_kerb (i : Nat) (f : Group → Group) : (d.setGroup i f).kerb = d.kerb := rfl
@[simp] theorem setGroup_kcmds (i : Nat) (f : Group → Group) : (d.setGroup i f).kcmds = d.kcmds := rfl
@[simp] theorem setGroup_clusters (i : Nat) (f : Group → Group) : (d.setGroup i f).clusters = d.clusters := rfl
@[simp] theorem setGroup_mis (i : Nat) (f : Group → Group) : (d.setGroup i f).mis = d.mis := rfl
@[simp] theorem setGroup_staged (i : Nat) (f : Group → Group) : (d.setGroup i f).staged = d.staged := rfl
@[simp] theorem setGroup_upsets (i : Nat) (f : Group → Group) : (d.setGroup i f).upsets = d.upsets := rfl
@[simp] theorem setGroup_codec (i : Nat) (f : Group → Group) : (d.setGroup i f).codec = d.codec := rfl
@[simp] theorem setGroup_power (i : Nat) (f : Group → Group) : (d.setGroup i f).power = d.power := rfl
@[simp] theorem setGroup_trace (i : Nat) (f : Group → Group) : (d.setGroup i f).trace = d.trace := rfl
@[simp] theorem setGroup_ctr (i : Nat) (f : Group → Group) : (d.setGroup i f).ctr = d.ctr := rfl
@[simp] theorem setGroup_i3c (i : Nat) (f : Group → Group) : (d.setGroup i f).i3c = d.i3c := rfl
@[simp] theorem setGroup_scrub (i : Nat) (f : Group → Group) : (d.setGroup i f).scrub = d.scrub := rfl
@[simp] theorem setGroup_burn (i : Nat) (f : Group → Group) : (d.setGroup i f).burn = d.burn := rfl
@[simp] theorem setGroup_staging (i : Nat) (f : Group → Group) : (d.setGroup i f).staging = d.staging := rfl
@[simp] theorem setGroup_placing (i : Nat) (f : Group → Group) : (d.setGroup i f).placing = d.placing := rfl
@[simp] theorem setGroup_delivered (i : Nat) (f : Group → Group) : (d.setGroup i f).delivered = d.delivered := rfl

@[simp] theorem setDom_part (i : Nat) (b : Bool) : (d.setDom i b).part = d.part := rfl
@[simp] theorem setDom_now (i : Nat) (b : Bool) : (d.setDom i b).now = d.now := rfl
@[simp] theorem setDom_fresh (i : Nat) (b : Bool) : (d.setDom i b).fresh = d.fresh := rfl
@[simp] theorem setDom_st (i : Nat) (b : Bool) : (d.setDom i b).st = d.st := rfl
@[simp] theorem setDom_fast (i : Nat) (b : Bool) : (d.setDom i b).fast = d.fast := rfl
@[simp] theorem setDom_boot (i : Nat) (b : Bool) : (d.setDom i b).boot = d.boot := rfl
@[simp] theorem setDom_tu (i : Nat) (b : Bool) : (d.setDom i b).tu = d.tu := rfl
@[simp] theorem setDom_slots (i : Nat) (b : Bool) : (d.setDom i b).slots = d.slots := rfl
@[simp] theorem setDom_ctxs (i : Nat) (b : Bool) : (d.setDom i b).ctxs = d.ctxs := rfl
@[simp] theorem setDom_mboxes (i : Nat) (b : Bool) : (d.setDom i b).mboxes = d.mboxes := rfl
@[simp] theorem setDom_accepted (i : Nat) (b : Bool) : (d.setDom i b).accepted = d.accepted := rfl
@[simp] theorem setDom_mem (i : Nat) (b : Bool) : (d.setDom i b).mem = d.mem := rfl
@[simp] theorem setDom_mcfg (i : Nat) (b : Bool) : (d.setDom i b).mcfg = d.mcfg := rfl
@[simp] theorem setDom_sq (i : Nat) (b : Bool) : (d.setDom i b).sq = d.sq := rfl
@[simp] theorem setDom_stk (i : Nat) (b : Bool) : (d.setDom i b).stk = d.stk := rfl
@[simp] theorem setDom_kerb (i : Nat) (b : Bool) : (d.setDom i b).kerb = d.kerb := rfl
@[simp] theorem setDom_kcmds (i : Nat) (b : Bool) : (d.setDom i b).kcmds = d.kcmds := rfl
@[simp] theorem setDom_clusters (i : Nat) (b : Bool) : (d.setDom i b).clusters = d.clusters := rfl
@[simp] theorem setDom_mis (i : Nat) (b : Bool) : (d.setDom i b).mis = d.mis := rfl
@[simp] theorem setDom_staged (i : Nat) (b : Bool) : (d.setDom i b).staged = d.staged := rfl
@[simp] theorem setDom_upsets (i : Nat) (b : Bool) : (d.setDom i b).upsets = d.upsets := rfl
@[simp] theorem setDom_net (i : Nat) (b : Bool) : (d.setDom i b).net = d.net := rfl
@[simp] theorem setDom_codec (i : Nat) (b : Bool) : (d.setDom i b).codec = d.codec := rfl
@[simp] theorem setDom_trace (i : Nat) (b : Bool) : (d.setDom i b).trace = d.trace := rfl
@[simp] theorem setDom_ctr (i : Nat) (b : Bool) : (d.setDom i b).ctr = d.ctr := rfl
@[simp] theorem setDom_i3c (i : Nat) (b : Bool) : (d.setDom i b).i3c = d.i3c := rfl
@[simp] theorem setDom_scrub (i : Nat) (b : Bool) : (d.setDom i b).scrub = d.scrub := rfl
@[simp] theorem setDom_burn (i : Nat) (b : Bool) : (d.setDom i b).burn = d.burn := rfl
@[simp] theorem setDom_staging (i : Nat) (b : Bool) : (d.setDom i b).staging = d.staging := rfl
@[simp] theorem setDom_placing (i : Nat) (b : Bool) : (d.setDom i b).placing = d.placing := rfl
@[simp] theorem setDom_delivered (i : Nat) (b : Bool) : (d.setDom i b).delivered = d.delivered := rfl

@[simp] theorem cnt_part (g i n : Nat) : (d.cnt g i n).part = d.part := rfl
@[simp] theorem cnt_now (g i n : Nat) : (d.cnt g i n).now = d.now := rfl
@[simp] theorem cnt_fresh (g i n : Nat) : (d.cnt g i n).fresh = d.fresh := rfl
@[simp] theorem cnt_st (g i n : Nat) : (d.cnt g i n).st = d.st := rfl
@[simp] theorem cnt_fast (g i n : Nat) : (d.cnt g i n).fast = d.fast := rfl
@[simp] theorem cnt_boot (g i n : Nat) : (d.cnt g i n).boot = d.boot := rfl
@[simp] theorem cnt_tu (g i n : Nat) : (d.cnt g i n).tu = d.tu := rfl
@[simp] theorem cnt_slots (g i n : Nat) : (d.cnt g i n).slots = d.slots := rfl
@[simp] theorem cnt_ctxs (g i n : Nat) : (d.cnt g i n).ctxs = d.ctxs := rfl
@[simp] theorem cnt_mboxes (g i n : Nat) : (d.cnt g i n).mboxes = d.mboxes := rfl
@[simp] theorem cnt_accepted (g i n : Nat) : (d.cnt g i n).accepted = d.accepted := rfl
@[simp] theorem cnt_mem (g i n : Nat) : (d.cnt g i n).mem = d.mem := rfl
@[simp] theorem cnt_mcfg (g i n : Nat) : (d.cnt g i n).mcfg = d.mcfg := rfl
@[simp] theorem cnt_sq (g i n : Nat) : (d.cnt g i n).sq = d.sq := rfl
@[simp] theorem cnt_stk (g i n : Nat) : (d.cnt g i n).stk = d.stk := rfl
@[simp] theorem cnt_kerb (g i n : Nat) : (d.cnt g i n).kerb = d.kerb := rfl
@[simp] theorem cnt_kcmds (g i n : Nat) : (d.cnt g i n).kcmds = d.kcmds := rfl
@[simp] theorem cnt_clusters (g i n : Nat) : (d.cnt g i n).clusters = d.clusters := rfl
@[simp] theorem cnt_mis (g i n : Nat) : (d.cnt g i n).mis = d.mis := rfl
@[simp] theorem cnt_staged (g i n : Nat) : (d.cnt g i n).staged = d.staged := rfl
@[simp] theorem cnt_upsets (g i n : Nat) : (d.cnt g i n).upsets = d.upsets := rfl
@[simp] theorem cnt_net (g i n : Nat) : (d.cnt g i n).net = d.net := rfl
@[simp] theorem cnt_codec (g i n : Nat) : (d.cnt g i n).codec = d.codec := rfl
@[simp] theorem cnt_power (g i n : Nat) : (d.cnt g i n).power = d.power := rfl
@[simp] theorem cnt_trace (g i n : Nat) : (d.cnt g i n).trace = d.trace := rfl
@[simp] theorem cnt_i3c (g i n : Nat) : (d.cnt g i n).i3c = d.i3c := rfl
@[simp] theorem cnt_scrub (g i n : Nat) : (d.cnt g i n).scrub = d.scrub := rfl
@[simp] theorem cnt_burn (g i n : Nat) : (d.cnt g i n).burn = d.burn := rfl
@[simp] theorem cnt_staging (g i n : Nat) : (d.cnt g i n).staging = d.staging := rfl
@[simp] theorem cnt_placing (g i n : Nat) : (d.cnt g i n).placing = d.placing := rfl
@[simp] theorem cnt_delivered (g i n : Nat) : (d.cnt g i n).delivered = d.delivered := rfl

@[simp] theorem upTo_part (n : Nat) : (d.upTo n).part = d.part := rfl
@[simp] theorem upTo_fresh (n : Nat) : (d.upTo n).fresh = d.fresh := rfl
@[simp] theorem upTo_st (n : Nat) : (d.upTo n).st = d.st := rfl
@[simp] theorem upTo_fast (n : Nat) : (d.upTo n).fast = d.fast := rfl
@[simp] theorem upTo_boot (n : Nat) : (d.upTo n).boot = d.boot := rfl
@[simp] theorem upTo_tu (n : Nat) : (d.upTo n).tu = d.tu := rfl
@[simp] theorem upTo_slots (n : Nat) : (d.upTo n).slots = d.slots := rfl
@[simp] theorem upTo_ctxs (n : Nat) : (d.upTo n).ctxs = d.ctxs := rfl
@[simp] theorem upTo_mboxes (n : Nat) : (d.upTo n).mboxes = d.mboxes := rfl
@[simp] theorem upTo_accepted (n : Nat) : (d.upTo n).accepted = d.accepted := rfl
@[simp] theorem upTo_mem (n : Nat) : (d.upTo n).mem = d.mem := rfl
@[simp] theorem upTo_mcfg (n : Nat) : (d.upTo n).mcfg = d.mcfg := rfl
@[simp] theorem upTo_sq (n : Nat) : (d.upTo n).sq = d.sq := rfl
@[simp] theorem upTo_stk (n : Nat) : (d.upTo n).stk = d.stk := rfl
@[simp] theorem upTo_kerb (n : Nat) : (d.upTo n).kerb = d.kerb := rfl
@[simp] theorem upTo_kcmds (n : Nat) : (d.upTo n).kcmds = d.kcmds := rfl
@[simp] theorem upTo_clusters (n : Nat) : (d.upTo n).clusters = d.clusters := rfl
@[simp] theorem upTo_mis (n : Nat) : (d.upTo n).mis = d.mis := rfl
@[simp] theorem upTo_staged (n : Nat) : (d.upTo n).staged = d.staged := rfl
@[simp] theorem upTo_upsets (n : Nat) : (d.upTo n).upsets = d.upsets := rfl
@[simp] theorem upTo_net (n : Nat) : (d.upTo n).net = d.net := rfl
@[simp] theorem upTo_codec (n : Nat) : (d.upTo n).codec = d.codec := rfl
@[simp] theorem upTo_power (n : Nat) : (d.upTo n).power = d.power := rfl
@[simp] theorem upTo_trace (n : Nat) : (d.upTo n).trace = d.trace := rfl
@[simp] theorem upTo_ctr (n : Nat) : (d.upTo n).ctr = d.ctr := rfl
@[simp] theorem upTo_i3c (n : Nat) : (d.upTo n).i3c = d.i3c := rfl
@[simp] theorem upTo_scrub (n : Nat) : (d.upTo n).scrub = d.scrub := rfl
@[simp] theorem upTo_burn (n : Nat) : (d.upTo n).burn = d.burn := rfl
@[simp] theorem upTo_staging (n : Nat) : (d.upTo n).staging = d.staging := rfl
@[simp] theorem upTo_placing (n : Nat) : (d.upTo n).placing = d.placing := rfl
@[simp] theorem upTo_delivered (n : Nat) : (d.upTo n).delivered = d.delivered := rfl

@[simp] theorem bump_part : (d.bump).part = d.part := rfl
@[simp] theorem bump_now : (d.bump).now = d.now := rfl
@[simp] theorem bump_st : (d.bump).st = d.st := rfl
@[simp] theorem bump_fast : (d.bump).fast = d.fast := rfl
@[simp] theorem bump_boot : (d.bump).boot = d.boot := rfl
@[simp] theorem bump_tu : (d.bump).tu = d.tu := rfl
@[simp] theorem bump_slots : (d.bump).slots = d.slots := rfl
@[simp] theorem bump_ctxs : (d.bump).ctxs = d.ctxs := rfl
@[simp] theorem bump_mboxes : (d.bump).mboxes = d.mboxes := rfl
@[simp] theorem bump_accepted : (d.bump).accepted = d.accepted := rfl
@[simp] theorem bump_mem : (d.bump).mem = d.mem := rfl
@[simp] theorem bump_mcfg : (d.bump).mcfg = d.mcfg := rfl
@[simp] theorem bump_sq : (d.bump).sq = d.sq := rfl
@[simp] theorem bump_stk : (d.bump).stk = d.stk := rfl
@[simp] theorem bump_kerb : (d.bump).kerb = d.kerb := rfl
@[simp] theorem bump_kcmds : (d.bump).kcmds = d.kcmds := rfl
@[simp] theorem bump_clusters : (d.bump).clusters = d.clusters := rfl
@[simp] theorem bump_mis : (d.bump).mis = d.mis := rfl
@[simp] theorem bump_staged : (d.bump).staged = d.staged := rfl
@[simp] theorem bump_upsets : (d.bump).upsets = d.upsets := rfl
@[simp] theorem bump_net : (d.bump).net = d.net := rfl
@[simp] theorem bump_codec : (d.bump).codec = d.codec := rfl
@[simp] theorem bump_power : (d.bump).power = d.power := rfl
@[simp] theorem bump_trace : (d.bump).trace = d.trace := rfl
@[simp] theorem bump_ctr : (d.bump).ctr = d.ctr := rfl
@[simp] theorem bump_i3c : (d.bump).i3c = d.i3c := rfl
@[simp] theorem bump_scrub : (d.bump).scrub = d.scrub := rfl
@[simp] theorem bump_burn : (d.bump).burn = d.burn := rfl
@[simp] theorem bump_staging : (d.bump).staging = d.staging := rfl
@[simp] theorem bump_placing : (d.bump).placing = d.placing := rfl
@[simp] theorem bump_delivered : (d.bump).delivered = d.delivered := rfl


theorem getD_modify {α : Type} (l : List α) (i k : Nat) (f : α → α) (x : α) :
    (l.modify i f).getD k x = if i = k ∧ i < l.length then f (l.getD k x) else l.getD k x := by
  rw [List.getD_eq_getElem?_getD, List.getD_eq_getElem?_getD, List.getElem?_modify]
  by_cases h : i = k
  · subst h
    by_cases hl : i < l.length
    · simp [hl]
    · simp [hl]
  · simp [h]

theorem ctx_setCtx (i k : Nat) (f : Ctx → Ctx) :
    (d.setCtx i f).ctx k = if i = k ∧ i ≠ 0 ∧ i ≤ d.ctxs.length then f (d.ctx k) else d.ctx k := by
  unfold setCtx ctx
  by_cases hi : i = 0
  · simp [hi]
  · by_cases hk : k = 0
    · simp [hk, hi]
    · simp only [hi, hk, beq_iff_eq, if_false, getD_modify]
      by_cases e : i = k
      · subst e
        by_cases hl : i ≤ d.ctxs.length
        · have : i - 1 < d.ctxs.length := by omega
          simp [this, hl, hi]
        · have : ¬ i - 1 < d.ctxs.length := by omega
          simp [hl, this]
      · have : i - 1 ≠ k - 1 := by omega
        simp [e, this]

theorem stack_setStack (i k : Nat) (f : Stack → Stack) :
    (d.setStack i f).stack k = if i = k ∧ i < d.stk.length then f (d.stack k) else d.stack k := getD_modify ..
theorem square_setSq (i k : Nat) (f : Square → Square) :
    (d.setSq i f).square k = if i = k ∧ i < d.sq.length then f (d.square k) else d.square k := getD_modify ..
theorem eng_setEng (i k : Nat) (f : KEngine → KEngine) :
    (d.setEng i f).eng k = if i = k ∧ i < d.kerb.length then f (d.eng k) else d.eng k := getD_modify ..
theorem cluster_setCluster (i k : Nat) (f : Cluster → Cluster) :
    (d.setCluster i f).cluster k = if i = k ∧ i < d.clusters.length then f (d.cluster k) else d.cluster k := getD_modify ..

@[simp] theorem stack_setCtx (i : Nat) (f : Ctx → Ctx) (k : Nat) : (d.setCtx i f).stack k = d.stack k := by unfold stack; simp
@[simp] theorem square_setCtx (i : Nat) (f : Ctx → Ctx) (k : Nat) : (d.setCtx i f).square k = d.square k := by unfold square; simp
@[simp] theorem eng_setCtx (i : Nat) (f : Ctx → Ctx) (k : Nat) : (d.setCtx i f).eng k = d.eng k := by unfold eng; simp
@[simp] theorem mbox_setCtx (i : Nat) (f : Ctx → Ctx) (k : Nat) : (d.setCtx i f).mbox k = d.mbox k := by unfold mbox; simp
@[simp] theorem cluster_setCtx (i : Nat) (f : Ctx → Ctx) (k : Nat) : (d.setCtx i f).cluster k = d.cluster k := by unfold cluster; simp
@[simp] theorem ctx_setStack (i : Nat) (f : Stack → Stack) (k : Nat) : (d.setStack i f).ctx k = d.ctx k := rfl
@[simp] theorem square_setStack (i : Nat) (f : Stack → Stack) (k : Nat) : (d.setStack i f).square k = d.square k := rfl
@[simp] theorem eng_setStack (i : Nat) (f : Stack → Stack) (k : Nat) : (d.setStack i f).eng k = d.eng k := rfl
@[simp] theorem mbox_setStack (i : Nat) (f : Stack → Stack) (k : Nat) : (d.setStack i f).mbox k = d.mbox k := rfl
@[simp] theorem cluster_setStack (i : Nat) (f : Stack → Stack) (k : Nat) : (d.setStack i f).cluster k = d.cluster k := rfl
@[simp] theorem ctx_setSq (i : Nat) (f : Square → Square) (k : Nat) : (d.setSq i f).ctx k = d.ctx k := rfl
@[simp] theorem stack_setSq (i : Nat) (f : Square → Square) (k : Nat) : (d.setSq i f).stack k = d.stack k := rfl
@[simp] theorem eng_setSq (i : Nat) (f : Square → Square) (k : Nat) : (d.setSq i f).eng k = d.eng k := rfl
@[simp] theorem mbox_setSq (i : Nat) (f : Square → Square) (k : Nat) : (d.setSq i f).mbox k = d.mbox k := rfl
@[simp] theorem cluster_setSq (i : Nat) (f : Square → Square) (k : Nat) : (d.setSq i f).cluster k = d.cluster k := rfl
@[simp] theorem ctx_setEng (i : Nat) (f : KEngine → KEngine) (k : Nat) : (d.setEng i f).ctx k = d.ctx k := rfl
@[simp] theorem stack_setEng (i : Nat) (f : KEngine → KEngine) (k : Nat) : (d.setEng i f).stack k = d.stack k := rfl
@[simp] theorem square_setEng (i : Nat) (f : KEngine → KEngine) (k : Nat) : (d.setEng i f).square k = d.square k := rfl
@[simp] theorem mbox_setEng (i : Nat) (f : KEngine → KEngine) (k : Nat) : (d.setEng i f).mbox k = d.mbox k := rfl
@[simp] theorem cluster_setEng (i : Nat) (f : KEngine → KEngine) (k : Nat) : (d.setEng i f).cluster k = d.cluster k := rfl
@[simp] theorem ctx_setMbox (i : Nat) (f : Mbox → Mbox) (k : Nat) : (d.setMbox i f).ctx k = d.ctx k := rfl
@[simp] theorem stack_setMbox (i : Nat) (f : Mbox → Mbox) (k : Nat) : (d.setMbox i f).stack k = d.stack k := rfl
@[simp] theorem square_setMbox (i : Nat) (f : Mbox → Mbox) (k : Nat) : (d.setMbox i f).square k = d.square k := rfl
@[simp] theorem eng_setMbox (i : Nat) (f : Mbox → Mbox) (k : Nat) : (d.setMbox i f).eng k = d.eng k := rfl
@[simp] theorem cluster_setMbox (i : Nat) (f : Mbox → Mbox) (k : Nat) : (d.setMbox i f).cluster k = d.cluster k := rfl
@[simp] theorem ctx_setCluster (i : Nat) (f : Cluster → Cluster) (k : Nat) : (d.setCluster i f).ctx k = d.ctx k := rfl
@[simp] theorem stack_setCluster (i : Nat) (f : Cluster → Cluster) (k : Nat) : (d.setCluster i f).stack k = d.stack k := rfl
@[simp] theorem square_setCluster (i : Nat) (f : Cluster → Cluster) (k : Nat) : (d.setCluster i f).square k = d.square k := rfl
@[simp] theorem eng_setCluster (i : Nat) (f : Cluster → Cluster) (k : Nat) : (d.setCluster i f).eng k = d.eng k := rfl
@[simp] theorem mbox_setCluster (i : Nat) (f : Cluster → Cluster) (k : Nat) : (d.setCluster i f).mbox k = d.mbox k := rfl
@[simp] theorem ctx_setCodec (i : Nat) (f : Codec → Codec) (k : Nat) : (d.setCodec i f).ctx k = d.ctx k := rfl
@[simp] theorem stack_setCodec (i : Nat) (f : Codec → Codec) (k : Nat) : (d.setCodec i f).stack k = d.stack k := rfl
@[simp] theorem square_setCodec (i : Nat) (f : Codec → Codec) (k : Nat) : (d.setCodec i f).square k = d.square k := rfl
@[simp] theorem eng_setCodec (i : Nat) (f : Codec → Codec) (k : Nat) : (d.setCodec i f).eng k = d.eng k := rfl
@[simp] theorem mbox_setCodec (i : Nat) (f : Codec → Codec) (k : Nat) : (d.setCodec i f).mbox k = d.mbox k := rfl
@[simp] theorem cluster_setCodec (i : Nat) (f : Codec → Codec) (k : Nat) : (d.setCodec i f).cluster k = d.cluster k := rfl
@[simp] theorem ctx_setPort (i : Nat) (f : Port → Port) (k : Nat) : (d.setPort i f).ctx k = d.ctx k := rfl
@[simp] theorem stack_setPort (i : Nat) (f : Port → Port) (k : Nat) : (d.setPort i f).stack k = d.stack k := rfl
@[simp] theorem square_setPort (i : Nat) (f : Port → Port) (k : Nat) : (d.setPort i f).square k = d.square k := rfl
@[simp] theorem eng_setPort (i : Nat) (f : Port → Port) (k : Nat) : (d.setPort i f).eng k = d.eng k := rfl
@[simp] theorem mbox_setPort (i : Nat) (f : Port → Port) (k : Nat) : (d.setPort i f).mbox k = d.mbox k := rfl
@[simp] theorem cluster_setPort (i : Nat) (f : Port → Port) (k : Nat) : (d.setPort i f).cluster k = d.cluster k := rfl
@[simp] theorem ctx_setSpace (s : Space) (k : Nat) : (d.setSpace s).ctx k = d.ctx k := rfl
@[simp] theorem stack_setSpace (s : Space) (k : Nat) : (d.setSpace s).stack k = d.stack k := rfl
@[simp] theorem square_setSpace (s : Space) (k : Nat) : (d.setSpace s).square k = d.square k := rfl
@[simp] theorem eng_setSpace (s : Space) (k : Nat) : (d.setSpace s).eng k = d.eng k := rfl
@[simp] theorem mbox_setSpace (s : Space) (k : Nat) : (d.setSpace s).mbox k = d.mbox k := rfl
@[simp] theorem cluster_setSpace (s : Space) (k : Nat) : (d.setSpace s).cluster k = d.cluster k := rfl
@[simp] theorem ctx_setMi (i : Nat) (f : InFlight → InFlight) (k : Nat) : (d.setMi i f).ctx k = d.ctx k := rfl
@[simp] theorem stack_setMi (i : Nat) (f : InFlight → InFlight) (k : Nat) : (d.setMi i f).stack k = d.stack k := rfl
@[simp] theorem square_setMi (i : Nat) (f : InFlight → InFlight) (k : Nat) : (d.setMi i f).square k = d.square k := rfl
@[simp] theorem eng_setMi (i : Nat) (f : InFlight → InFlight) (k : Nat) : (d.setMi i f).eng k = d.eng k := rfl
@[simp] theorem mbox_setMi (i : Nat) (f : InFlight → InFlight) (k : Nat) : (d.setMi i f).mbox k = d.mbox k := rfl
@[simp] theorem cluster_setMi (i : Nat) (f : InFlight → InFlight) (k : Nat) : (d.setMi i f).cluster k = d.cluster k := rfl
@[simp] theorem ctx_setKcmd (i : Nat) (f : KCmd → KCmd) (k : Nat) : (d.setKcmd i f).ctx k = d.ctx k := rfl
@[simp] theorem stack_setKcmd (i : Nat) (f : KCmd → KCmd) (k : Nat) : (d.setKcmd i f).stack k = d.stack k := rfl
@[simp] theorem square_setKcmd (i : Nat) (f : KCmd → KCmd) (k : Nat) : (d.setKcmd i f).square k = d.square k := rfl
@[simp] theorem eng_setKcmd (i : Nat) (f : KCmd → KCmd) (k : Nat) : (d.setKcmd i f).eng k = d.eng k := rfl
@[simp] theorem mbox_setKcmd (i : Nat) (f : KCmd → KCmd) (k : Nat) : (d.setKcmd i f).mbox k = d.mbox k := rfl
@[simp] theorem cluster_setKcmd (i : Nat) (f : KCmd → KCmd) (k : Nat) : (d.setKcmd i f).cluster k = d.cluster k := rfl
@[simp] theorem ctx_setGroup (i : Nat) (f : Group → Group) (k : Nat) : (d.setGroup i f).ctx k = d.ctx k := rfl
@[simp] theorem stack_setGroup (i : Nat) (f : Group → Group) (k : Nat) : (d.setGroup i f).stack k = d.stack k := rfl
@[simp] theorem square_setGroup (i : Nat) (f : Group → Group) (k : Nat) : (d.setGroup i f).square k = d.square k := rfl
@[simp] theorem eng_setGroup (i : Nat) (f : Group → Group) (k : Nat) : (d.setGroup i f).eng k = d.eng k := rfl
@[simp] theorem mbox_setGroup (i : Nat) (f : Group → Group) (k : Nat) : (d.setGroup i f).mbox k = d.mbox k := rfl
@[simp] theorem cluster_setGroup (i : Nat) (f : Group → Group) (k : Nat) : (d.setGroup i f).cluster k = d.cluster k := rfl
@[simp] theorem ctx_setDom (i : Nat) (b : Bool) (k : Nat) : (d.setDom i b).ctx k = d.ctx k := rfl
@[simp] theorem stack_setDom (i : Nat) (b : Bool) (k : Nat) : (d.setDom i b).stack k = d.stack k := rfl
@[simp] theorem square_setDom (i : Nat) (b : Bool) (k : Nat) : (d.setDom i b).square k = d.square k := rfl
@[simp] theorem eng_setDom (i : Nat) (b : Bool) (k : Nat) : (d.setDom i b).eng k = d.eng k := rfl
@[simp] theorem mbox_setDom (i : Nat) (b : Bool) (k : Nat) : (d.setDom i b).mbox k = d.mbox k := rfl
@[simp] theorem cluster_setDom (i : Nat) (b : Bool) (k : Nat) : (d.setDom i b).cluster k = d.cluster k := rfl
@[simp] theorem ctx_cnt (g i n : Nat) (k : Nat) : (d.cnt g i n).ctx k = d.ctx k := rfl
@[simp] theorem stack_cnt (g i n : Nat) (k : Nat) : (d.cnt g i n).stack k = d.stack k := rfl
@[simp] theorem square_cnt (g i n : Nat) (k : Nat) : (d.cnt g i n).square k = d.square k := rfl
@[simp] theorem eng_cnt (g i n : Nat) (k : Nat) : (d.cnt g i n).eng k = d.eng k := rfl
@[simp] theorem mbox_cnt (g i n : Nat) (k : Nat) : (d.cnt g i n).mbox k = d.mbox k := rfl
@[simp] theorem cluster_cnt (g i n : Nat) (k : Nat) : (d.cnt g i n).cluster k = d.cluster k := rfl
@[simp] theorem ctx_upTo (n : Nat) (k : Nat) : (d.upTo n).ctx k = d.ctx k := rfl
@[simp] theorem stack_upTo (n : Nat) (k : Nat) : (d.upTo n).stack k = d.stack k := rfl
@[simp] theorem square_upTo (n : Nat) (k : Nat) : (d.upTo n).square k = d.square k := rfl
@[simp] theorem eng_upTo (n : Nat) (k : Nat) : (d.upTo n).eng k = d.eng k := rfl
@[simp] theorem mbox_upTo (n : Nat) (k : Nat) : (d.upTo n).mbox k = d.mbox k := rfl
@[simp] theorem cluster_upTo (n : Nat) (k : Nat) : (d.upTo n).cluster k = d.cluster k := rfl
@[simp] theorem ctx_bump (k : Nat) : (d.bump).ctx k = d.ctx k := rfl
@[simp] theorem stack_bump (k : Nat) : (d.bump).stack k = d.stack k := rfl
@[simp] theorem square_bump (k : Nat) : (d.bump).square k = d.square k := rfl
@[simp] theorem eng_bump (k : Nat) : (d.bump).eng k = d.eng k := rfl
@[simp] theorem mbox_bump (k : Nat) : (d.bump).mbox k = d.mbox k := rfl
@[simp] theorem cluster_bump (k : Nat) : (d.bump).cluster k = d.cluster k := rfl

end Dev

theorem aget_aset {α : Type} (m : AMap α) (k j : Nat) (v : α) : aget (aset m k v) j = if k = j then some v else aget m j := by
  unfold aget
  induction m with
  | nil => by_cases h : k = j <;> simp [aset, h]
  | cons p m ih =>
    unfold aset
    by_cases h1 : k < p.1
    · by_cases h : k = j
      · subst h; simp [h1]
      · simp [h1, h]
    · by_cases h2 : k = p.1
      · subst h2
        by_cases h : p.1 = j <;> simp [h]
      · simp only [h1, beq_iff_eq, h2, if_false, List.find?_cons]
        by_cases hp : p.1 = j
        · have : k ≠ j := fun e => h2 (e.trans hp.symm)
          simp [hp, this]
        · simp only [beq_eq_false_iff_ne.mpr hp]
          exact ih

theorem aget_adel {α : Type} (m : AMap α) (k j : Nat) : aget (adel m k) j = if k = j then none else aget m j := by
  unfold aget adel
  induction m with
  | nil => simp
  | cons p m ih =>
    by_cases h : p.1 = k
    · have hf : (p.1 != k) = false := by simp [h]
      rw [List.filter_cons, hf]
      simp only [Bool.false_eq_true, if_false]
      rw [ih, List.find?_cons]
      by_cases hj : k = j
      · simp [hj]
      · have : (p.1 == j) = false := by simp [h, hj]
        rw [this]
    · have hf : (p.1 != k) = true := by simp [h]
      rw [List.filter_cons, hf]
      simp only [if_true, List.find?_cons]
      by_cases hj : p.1 = j
      · have : k ≠ j := fun e => h (hj.trans e.symm)
        simp [hj, this]
      · have : (p.1 == j) = false := by simp [hj]
        simp only [this]
        exact ih

end Sys2Proof.Machine
end

