-- ==== Sys2Proof/Tests/Slice0.lean ====
section
/-! SUPPORT. Own tests: ill-formed terms that each check of WellFormed refuses, values worked out from the spec by hand,
and, for every statement with hypotheses, states and operands that meet them (`wit_<statement>`). -/

namespace Sys2Proof.Tests

/-! One theorem at a time: many at once would each hold a thread. -/
set_option Elab.async false
open Sys2Proof.Machine Sys2Proof.Machine.Dev

/-! States and messages that the tests share. -/

/-- A whole machine at work: everything powered, trained and in service, every link up. -/
def dev : Dev :=
  { st := .full, fast := true, boot := { started := true, running := true }, power := { on := 0xFFFFFFFFFFFFFF }
    mcfg := { spans := true }, clusters := List.replicate 32 { svc := .inService, tested := true, passed := true }
    kerb := List.replicate 8 { svc := .inService }, stk := List.replicate 8 { st := 0 }, codec := List.replicate 2 { svc := .inService }
    net := { ports := List.replicate 2 { svc := .inService, ptp := 1 }, links := List.replicate 4 { up := true }, xce := .inService } }
def at' (d : Dev) : State := { State.reset with dev := d }
def bytes (l : List Nat) : List Byte := l.map (BitVec.ofNat 8)
/-- A message of peer 5. -/
def msg (m : Nat) (payload : List Nat) : MbCmd := { peer := 5, order := 1, msg := m, payload := bytes payload }
def zero (n : Nat) : List Nat := List.replicate n 0
/-- The machine with one message in a mailbox. -/
def put (mb : Nat) (c : MbCmd) (d : Dev) : State := at' (d.setMbox mb (fun x => { x with queue := [c] }))
def claimed (i : Nat) (st : CtxState) (d : Dev) : Dev := d.setCtx i (fun x => { x with st := st })

/-! WellFormed refuses a term for each of its checks. -/

theorem test_wf_mailbox : (Instr.mbDevQuery 65).wf = false ∧ (Instr.mbDevQuery 64).wf = true := by decide

/-! Witnesses. -/

theorem wit_FailedCheckAnswersAlone :
    let c := msg 0x10 []
    let s := put 0 c dev
    s.dev.Turn 0 0x10 c ∧ knownMsg 0x10 = true ∧ s.dev.refusal 0 c (createChks c) = some (8, 8) := by
  unfold Dev.Turn; decide +kernel

theorem wit_ChecksGoByStages :
    mboxOk 0x11 0 = false ∧ mboxOk 0x10 0 = true ∧
    (headerChks (msg 0x10 []) ++ createChks (msg 0x10 [])).find? (fun x => !x.1) = some (false, 8) ∧
    (∀ x ∈ headerChks (msg 0x02 []) ++ [lenIs (msg 0x02 []) 0], x.1 = true) ∧
    State.reset.dev.st = .cold ∧ (dev.ctx 1).st = .unclaimed ∧ ((claimed 1 .faulted dev).ctx 1).st = .faulted ∧
    exemptMsg 0x12 = false ∧ dev.st = .full ∧ needsCrossing (msg 0x02 []) = false ∧
    (let c := msg 0x91 ([0, 0x80] ++ zero 30)
     let out := { dev with part := .ovn9460, power := { dev.power with on := 0 } }
     firstOff ((mboxOk c.msg 0, 3) :: (headerChks c ++ scrubChks dev c)) = none ∧ needsCrossing c = true ∧
     out.absentUnit c = some (1, 7) ∧ out.power.on.getLsbD 53 = false ∧ dev.absentUnit c = none ∧
     (dev.setSvc 1 7 .draining).idleUnit c = some (1, 7)) := by decide +kernel

theorem wit_DeviceQueriesAnswer :
    State.Served (put 0 (msg 0x01 []) dev) 0 0x01 (msg 0x01 []) [lenIs (msg 0x01 []) 0] ∧
    State.Served (put 64 (msg 0x02 []) (claimed 64 .empty dev)) 64 0x02 (msg 0x02 []) [lenIs (msg 0x02 []) 0] := by
  unfold State.Served Dev.Turn; decide +kernel

theorem wit_ContextIsClaimed :
    let c := msg 0x10 (zero 16)
    let e := msg 0x10 (64 :: zero 15)
    let full := ctxIds.foldl (fun d i => claimed i .empty d) dev
    (put 0 c dev).Served 0 0x10 c (createChks c) ∧ ctxIds.find? (fun i => ((put 0 c dev).dev.ctx i).st == .unclaimed) = some 1 ∧
    (put 0 e dev).Served 0 0x10 e (createChks e) ∧ ((put 0 e dev).dev.ctx 64).st = .unclaimed ∧
    (put 0 e full).Served 0 0x10 e (createChks e) ∧ ((put 0 e full).dev.ctx 64).st ≠ .unclaimed ∧
    (put 0 c full).Served 0 0x10 c (createChks c) ∧ (∀ i ∈ ctxIds, ((put 0 c full).dev.ctx i).st ≠ .unclaimed) := by
  unfold State.Served Dev.Turn; decide +kernel

/-- A stop: at the boundary (0) or at the end of the program (1). -/
def stopMsg (mode : Nat) : MbCmd := msg 0x13 (mode :: zero 7)
/-- Context 1 in a state, its stream 0 not yet at `HALT`. -/
def one (st : CtxState) : Dev := dev.setCtx 1 (fun x => { x with st := st, streams := [{ halted := false }] })

theorem wit_ContextStartStopStatus :
    let c := msg 0x12 (zero 8)
    let q := msg 0x15 (zero 8)
    (put 1 c (one .loaded)).Served 1 0x12 c [lenIs c 8, (c.z 0 8, 64)] ∧ ((put 1 c (one .loaded)).dev.ctx 1).st = .loaded ∧
    (put 1 c (one .running)).Served 1 0x12 c [lenIs c 8, (c.z 0 8, 64)] ∧ ((put 1 c (one .running)).dev.ctx 1).st = .running ∧
    (put 1 (stopMsg 0) (one .running)).Served 1 0x13 (stopMsg 0) (stopChks (stopMsg 0)) ∧
    (put 1 (stopMsg 1) (one .running)).Served 1 0x13 (stopMsg 1) (stopChks (stopMsg 1)) ∧
    (((one .running).ctx 1).streams.getD 0 {}).halted = false ∧ (((one .running).ctx 1).streams.getD 0 {}).yielded = false ∧
    (put 1 (stopMsg 1) (one .ready)).Served 1 0x13 (stopMsg 1) (stopChks (stopMsg 1)) ∧ ((one .ready).ctx 1).yielded = false ∧
    (put 1 (stopMsg 0) (one .loaded)).Served 1 0x13 (stopMsg 0) (stopChks (stopMsg 0)) ∧
    (put 1 q (one .parked)).Served 1 0x15 q (stopChks q) := by
  unfold State.Served Dev.Turn; decide +kernel

/-! Images (R329, R330): a header of 64 bytes, a directory of four sections, one partition of 4,096 bytes, one certificate,
32 streams without a base, and one data record that puts an empty lookup directory after the one descriptor. -/

def le (n v : Nat) : List Nat := (List.range n).map (fun i => v / 256 ^ i % 256)
def none64 : Nat := 2 ^ 64 - 1
def sect (typ count off : Nat) : List Nat := le 2 typ ++ zero 2 ++ le 4 count ++ le 8 off
def imageHead : List Nat :=
  le 4 0x4E4C4154 ++ le 2 1 ++ le 2 4 ++ zero 16 ++ le 8 none64 ++ le 2 1 ++ [0, 0xFF] ++ zero 2 ++ [1, 0] ++ zero 24
def image : List Nat :=
  imageHead ++ sect 2 1 128 ++ sect 3 1 192 ++ sect 4 32 256 ++ sect 8 1 512
    ++ (le 4 4096 ++ zero 12) ++ zero 48 ++ (le 4 0xFFFFFFFF ++ zero 28) ++ zero 32
    ++ (List.replicate 32 (le 8 none64)).flatten
    ++ ([0, 0] ++ le 6 64 ++ le 8 64) ++ (List.replicate 8 (le 2 0x8000 ++ le 2 0x8000 ++ zero 4)).flatten
def withBytes (a : Nat) (l : List Nat) (d : Dev) : Dev := { d with mem := d.mem.write a (bytes l) }
def prog : Program := { certs := [{ wcetNs := 0xFFFFFFFF }], streams := List.replicate 32 none, objects := [0, 7] }
def loadMsg (a n : Nat) : MbCmd := msg 0x11 (le 8 a ++ le 8 n)
/-- Context 1 `EMPTY`, an image at the start of stack 0. -/
def toLoad (l : List Nat) : Dev := withBytes (svBase 0) l (claimed 1 .empty dev)

theorem wit_ContextLoadDestroy :
    let c := loadMsg (svBase 0) 592
    let x := loadMsg none64 64
    let bad := toLoad (0 :: image.drop 1)
    let good := toLoad image
    let hurt := { good with mem := { good.mem with poison := [(svBase 0 + 64) / 64] } }
    let m := Image.parse (bytes image)
    let r := (put 1 c good).dev.ioFetch (svBase 0) 592
    let k := msg 0x14 []
    image.length = 592 ∧
    (put 1 c (one .loaded)).Served 1 0x11 c [lenIs c 16] ∧ ((put 1 c (one .loaded)).dev.ctx 1).st ≠ .empty ∧
    (put 1 x good).Served 1 0x11 x [lenIs x 16] ∧ (put 1 x good).dev.inStacked (x.f 0 8) (x.f 8 8) = false ∧
    (put 1 c bad).Served 1 0x11 c [lenIs c 16] ∧ ((put 1 c bad).dev.ioFetch (svBase 0) 592).1.2 = [] ∧
      (Image.parse ((put 1 c bad).dev.ioFetch (svBase 0) 592).1.1).firstFault bad.scratchAt = some 0 ∧
    (put 1 c hurt).Served 1 0x11 c [lenIs c 16] ∧ ((put 1 c hurt).dev.ioFetch (svBase 0) 592).1.2 = [svBase 0 + 64] ∧
    (put 1 c good).Served 1 0x11 c [lenIs c 16] ∧ (put 1 c good).dev.inStacked (c.f 0 8) (c.f 8 8) = true ∧
      r.1 = (bytes image, []) ∧ m.firstFault r.2.scratchAt = none ∧ (r.2.placeProgram 1 m.program (absTables m)).toOption.isSome = true ∧
      ((r.2.placeProgram 1 m.program (absTables m)).toOption.bind (fun p => r.2.loadSlotFault 1 p)) = none ∧
    (put 1 k (claimed 1 .empty dev)).Served 1 0x14 k [lenIs k 0] ∧ (put 1 k (claimed 1 .empty dev)).dev.streamsOf 1 = [] ∧
    (put 1 k (one .tearingDown)).Served 1 0x14 k [lenIs k 0] ∧ (put 1 k (one .loaded)).Served 1 0x14 k [lenIs k 0] ∧ (put 1 k (one .running)).Served 1 0x14 k [lenIs k 0] := by
  unfold State.Served Dev.Turn; decide +kernel

theorem wit_TickAndSlotTableAreQueued :
    let c := msg 0x20 (le 4 20000 ++ zero 20)
    let r := msg 0x20 (le 4 2000000000 ++ zero 5 ++ [2] ++ zero 14)
    let t := msg 0x21 (zero 8)
    let b := msg 0x21 ([1] ++ zero 7 ++ le 4 1000 ++ [1, 1, 0, 1] ++ zero 8)
    let d := dev.setCtx 1 (fun x => { x with st := .loaded, prog := some prog })
    (put 0 c dev).Served 0 0x20 c (tickChks c) ∧ (dev.tu.reacq || bit (c.f 9 1) 1) = false ∧
    (put 0 r dev).Served 0 0x20 r (tickChks r) ∧ bit (r.f 9 1) 1 = true ∧ r.f 8 1 = 0 ∧
    (put 0 t dev).Served 0 0x21 t (slotChks dev.nextCfg t) ∧ firstBadSlot (dev.checkEnv 0 none) t.slots (fun _ => true) = none ∧
    (put 0 b d).Served 0 0x21 b (slotChks d.nextCfg b) ∧ firstBadSlot (d.checkEnv 0 none) b.slots (fun _ => true) = some 0 := by
  unfold State.Served Dev.Turn; decide +kernel

theorem wit_BoundsAndEventAcks :
    let w (next : Nat) := msg 0x30 ([1, next] ++ zero 6 ++ [63, 0, 0, 0] ++ le 4 7)
    let a (flags : Nat) := msg 0x72 (zero 4 ++ [flags] ++ zero 7)
    (put 1 (w 0) (one .loaded)).Served 1 0x30 (w 0) (boundChks (w 0)) ∧ (w 0).f 1 1 = 0 ∧
    (put 1 (w 1) (one .ready)).Served 1 0x30 (w 1) (boundChks (w 1)) ∧ (w 1).f 1 1 = 1 ∧
    (put 0 (a 0) dev).Served 0 0x72 (a 0) (ackChks 0 dev (a 0)) ∧ bit ((a 0).f 4 1) 0 = false ∧
    (put 1 (a 1) (one .ready)).Served 1 0x72 (a 1) (ackChks 1 (one .ready) (a 1)) ∧ bit ((a 1).f 4 1) 0 = true ∧
      ((one .ready).mbox 1).sub ≠ some 5 := by
  unfold State.Served Dev.Turn; decide +kernel

def small : Dev := { dev with part := .ovn9460 }

theorem wit_SquareCacheIsSized :
    let c := msg 0x40 ([10, 0] ++ zero 14)
    let e := msg 0x40 ([0, 10] ++ zero 14)
    (put 0 e small).Reaches 0 0x40 e (sqChks e) ∧ (put 0 e small).dev.nDies < 2 ∧ e.f 1 1 ≠ 0 ∧
    (put 0 c (one .loaded)).Served 0 0x40 c (sqChks c) ∧
      ctxIds.find? (fun i => ((put 0 c (one .loaded)).dev.ctx i).st != .unclaimed && ((put 0 c (one .loaded)).dev.ctx i).st != .empty) = some 1 ∧
    (put 0 c dev).Served 0 0x40 c (sqChks c) ∧
      (∀ i ∈ ctxIds, ((put 0 c dev).dev.ctx i).st = .unclaimed ∨ ((put 0 c dev).dev.ctx i).st = .empty) ∧
      (∀ i < (put 0 c dev).dev.nDies, (put 0 c dev).dev.cacheOff i (c.f i 1) = false) := by
  unfold State.Served State.Reaches Dev.Turn; decide +kernel

def window : Window := { write := true, read := true, peer := 0xFFFF, size := 4096 }
def mapped (d : Dev) : Dev := { d with net := { d.net with windows := [(0, window)] } }

theorem wit_MemoryIsConfigured :
    let c (fl : Nat) := msg 0x50 ([fl, 4, 50, 0] ++ le 2 16 ++ zero 10)
    (put 0 (c 0) dev).Served 0 0x50 (c 0) (memChks dev (c 0)) ∧
    (put 0 (c 15) dev).Served 0 0x50 (c 15) (memChks dev (c 15)) ∧ dev.busyCtx = none ∧ dev.net.windows = [] ∧
    (put 0 (c 2) (one .loaded)).Served 0 0x50 (c 2) (memChks (one .loaded) (c 2)) ∧ (one .loaded).busyCtx = some 1 ∧
    (put 0 (c 2) (mapped dev)).Served 0 0x50 (c 2) (memChks (mapped dev) (c 2)) ∧ (mapped dev).net.windows ≠ [] := by
  unfold State.Served Dev.Turn; decide +kernel

/-- Peer 5 has written into window 0, and its bytes are not yet visible. -/
def placingTo (d : Dev) : Dev :=
  { d with net := { d.net with spaces := [{ peer := 5, rxNext := 0, placing := [{ psn := 0, len := 8, win := some 0 }] }] } }

theorem wit_WindowsAreMapped :
    let c := msg 0x51 (le 2 255 ++ [0, 3] ++ le 2 0xFFFF ++ le 2 0x8000 ++ le 8 0 ++ le 8 4096 ++ zero 8)
    let u := msg 0x51 (le 2 0 ++ [1] ++ zero 29)
    let b := placingTo (mapped dev)
    (put 0 c dev).Served 0 0x51 c (mapChks dev c) ∧ c.f 2 1 = 0 ∧
    (put 0 u dev).Served 0 0x51 u (unmapChks u) ∧ u.f 2 1 = 1 ∧ aget dev.net.windows (u.f 0 2) = none ∧
    (put 0 u b).Served 0 0x51 u (unmapChks u) ∧ aget b.net.windows (u.f 0 2) = some window ∧ b.windowBusy 0 = true ∧
    (put 0 u (mapped dev)).Served 0 0x51 u (unmapChks u) ∧ (mapped dev).windowBusy 0 = false := by
  unfold State.Served Dev.Turn; decide +kernel

theorem wit_FabricSettingsTakeEffect :
    let c (id fl mtu : Nat) := msg 0x60 (le 2 id ++ zero 2 ++ [fl] ++ zero 9 ++ le 2 mtu ++ zero 96)
    let a := c 0xFFFE 0x5B 4352
    let k := { dev with net := { dev.net with fab := { dev.net.fab with id := 7 } } }
    let same := c 7 0x03 0
    (put 0 a (mapped dev)).Served 0 0x60 a (fabricChks a) ∧ (mapped dev).net.windows ≠ [] ∧
    (put 0 a dev).Served 0 0x60 a (fabricChks a) ∧ dev.net.windows = [] ∧ dev.net.groups = [] ∧
      bit (a.f 4 1) 3 = true ∧ bit (a.f 4 1) 4 = true ∧ bit (a.f 4 1) 6 = true ∧
    (put 0 same k).Served 0 0x60 same (fabricChks same) ∧ (same.fabric k.net.fab).id = k.net.fab.id := by
  unfold State.Served Dev.Turn; decide +kernel

def group1 : Group := { owner := 1, trig := 7, len := 1, members := [5, 0xFFFF] }
def running : CollRun := { k := 1 }
def grouped (r : Option CollRun) (d : Dev) : Dev :=
  { d with net := { d.net with groups := [(3, { group1 with run := r })], peers := [{ id := 5 }] } }

theorem wit_PeersAreAdmitted :
    let add := msg 0x61 ([0, 1] ++ zero 6 ++ le 2 5 ++ zero 46)
    let rem := msg 0x61 ([1, 1] ++ zero 6 ++ le 2 5 ++ zero 46)
    let all := msg 0x61 ([2, 0] ++ zero 6)
    let many := { dev with net := { dev.net with peers := (List.range' 100 4096).map (fun i => { id := i }) } }
    (put 0 add dev).Served 0 0x61 add (peerChks add) ∧
    (put 0 add many).Served 0 0x61 add (peerChks add) ∧ 4096 < (many.net.peers.filter (fun (x : Peer) => x.id != 5) ++ [({ id := 5 } : Peer)]).length ∧
    (put 0 rem (grouped none dev)).Served 0 0x61 rem (peerChks rem) ∧ (grouped none dev).inGroup 5 = true ∧
    (put 0 rem dev).Served 0 0x61 rem (peerChks rem) ∧ dev.inGroup 5 = false ∧
    (put 0 all (grouped none dev)).Served 0 0x61 all (peerChks all) ∧ (put 0 all dev).Served 0 0x61 all (peerChks all) := by
  unfold State.Served Dev.Turn; decide +kernel

/-- Context 1 holds a program, in a state. -/
def held (st : CtxState) (d : Dev) : Dev :=
  d.setCtx 1 (fun x => { x with st := st, prog := some prog, bounds := List.replicate 64 0
                                streams := { halted := false } :: List.replicate 31 {} })

theorem wit_GroupsAreSet :
    let c (op : Nat) := msg 0x62 ([3, op, 1, 0] ++ le 2 1 ++ le 2 7 ++ le 8 0 ++ le 2 1 ++ zero 14 ++ le 2 0xFFFF)
    let free := held .loaded dev
    let runs := grouped (some running) free
    (put 0 (c 0) dev).Served 0 0x62 (c 0) (groupChks dev (c 0)) ∧ holds (dev.ctx 1) = false ∧
    (put 0 (c 0) runs).Served 0 0x62 (c 0) (groupChks runs (c 0)) ∧ holds (runs.ctx 1) = true ∧ runs.groupRuns 3 = true ∧
    (put 0 (c 0) free).Served 0 0x62 (c 0) (groupChks free (c 0)) ∧ free.groupRuns 3 = false ∧
    (put 0 (c 1) runs).Served 0 0x62 (c 1) (groupChks runs (c 1)) ∧ (put 0 (c 1) free).Served 0 0x62 (c 1) (groupChks free (c 1)) := by
  unfold State.Served Dev.Turn; decide +kernel

theorem wit_ProfilingAndCounters :
    let t (op cores : Nat) := msg 0x70 ([op, 0, 0, cores] ++ zero 60)
    let dark := { dev with power := { dev.power with on := 0xBFFFFFFFFFFFFF } }
    let n (l : List Nat) := msg 0x71 l
    let a := n ([0, 0] ++ le 2 1 ++ zero 4 ++ le 2 0x1F01)
    let b := n (1 :: zero 7)
    let k := n ([2, 7] ++ le 2 255 ++ zero 4)
    let m := n ([3, 31] ++ zero 6)
    (put 0 (t 0 1) dark).Served 0 0x70 (t 0 1) (traceChks dark (t 0 1)) ∧ dark.obsOn = false ∧
    (put 0 (t 0 1) dev).Served 0 0x70 (t 0 1) (traceChks dev (t 0 1)) ∧ dev.obsOn = true ∧
    (put 0 (t 1 0) dev).Served 0 0x70 (t 1 0) (traceChks dev (t 1 0)) ∧
    (put 0 b dev).Served 0 0x71 b (counterChks b) ∧
    (put 0 k dev).Served 0 0x71 k (counterChks k) ∧ dev.fitted 5 7 = true ∧ (put 0 m dev).Served 0 0x71 m (counterChks m) ∧
    (let a := n ([0, 0] ++ le 2 2 ++ zero 4 ++ le 2 0x011F ++ le 2 0x6740); (put 0 a dev).Served 0 0x71 a (counterChks a)) ∧
    counterChks a ≠ [] := by
  unfold State.Served Dev.Turn; decide +kernel

theorem wit_ProfilingAndCounters_units :
    let k := msg 0x71 ([2, 7] ++ le 2 255 ++ zero 4)
    let m := msg 0x71 ([3, 31] ++ zero 6)
    let d := dev.setSvc 0 31 .draining
    (put 0 k small).Reaches 0 0x71 k (counterChks k) ∧ small.fitted 5 7 = false ∧
    (put 0 m small).Reaches 0 0x71 m (counterChks m) ∧ small.fitted 0 31 = false ∧
    (put 0 m d).Reaches 0 0x71 m (counterChks m) ∧ d.fitted 0 31 = true ∧ d.svcOf 0 31 = .draining := by
  unfold State.Reaches Dev.Turn; decide +kernel

def unit (kind i : Nat) (v : Svc) (d : Dev) : Dev := d.setSvc kind i v

theorem wit_UnitsLeaveAndReturn :
    let c (k i op : Nat) := msg 0x81 ([k, i, op] ++ zero 5)
    (put 0 (c 0 31 0) small).Reaches 0 0x81 (c 0 31 0) (unitChks (c 0 31 0)) ∧ small.fitted 0 31 = false ∧
    (put 0 (c 1 7 1) small).Reaches 0 0x81 (c 1 7 1) (unitChks (c 1 7 1)) ∧ small.fitted 1 7 = false ∧
    (let d := unit 2 1 .disabled dev
     (put 0 (c 2 1 0) d).Served 0 0x81 (c 2 1 0) (unitChks (c 2 1 0)) ∧ d.fitted 2 1 = true ∧ d.canDrain 2 1 = false ∧
     (put 0 (c 2 1 1) d).Served 0 0x81 (c 2 1 1) (unitChks (c 2 1 1)) ∧ d.svcOf 2 1 = .disabled) ∧
    (let d := { dev with net := { dev.net with links := [{}, {}, { up := true }, { up := true }] } }
     (put 0 (c 3 1 0) d).Served 0 0x81 (c 3 1 0) (unitChks (c 3 1 0)) ∧ d.canDrain 3 1 = true ∧ d.portUp (1 - 1) = false) ∧
    (put 0 (c 3 1 0) dev).Served 0 0x81 (c 3 1 0) (unitChks (c 3 1 0)) ∧ dev.canDrain 3 1 = true ∧ dev.portUp (1 - 1) = true ∧
    (put 0 (c 0 31 0) dev).Served 0 0x81 (c 0 31 0) (unitChks (c 0 31 0)) ∧ dev.fitted 0 31 = true ∧ dev.canDrain 0 31 = true ∧
    (put 0 (c 0 31 1) dev).Served 0 0x81 (c 0 31 1) (unitChks (c 0 31 1)) ∧ dev.svcOf 0 31 ≠ .disabled := by
  unfold State.Served State.Reaches Dev.Turn; decide +kernel

theorem wit_UnitsLeaveAndReturn_fence :
    let f (k i : Nat) := msg 0x82 ([k, i] ++ zero 6)
    (put 0 (f 1 7) small).Reaches 0 0x82 (f 1 7) (fenceChks (f 1 7)) ∧ small.fitted 1 7 = false ∧
    (put 0 (f 1 7) dev).Served 0 0x82 (f 1 7) (fenceChks (f 1 7)) ∧ dev.fitted 1 7 = true ∧ dev.svcOf 1 7 ≠ .draining ∧
    (put 0 (f 1 7) (unit 1 7 .draining dev)).Served 0 0x82 (f 1 7) (fenceChks (f 1 7)) ∧
      (unit 1 7 .draining dev).svcOf 1 7 = .draining := by
  unfold State.Served State.Reaches Dev.Turn; decide +kernel

def domMsg (mask on flags cap : Nat) : MbCmd := msg 0x80 (le 8 mask ++ le 8 on ++ [flags, 0] ++ le 2 cap ++ zero 4)
/-- Cluster 31 switched off. -/
def dark31 : Dev := (unit 0 31 .disabled dev).setDom 31 false

theorem wit_DomainsAreSet :
    let c := domMsg (2 ^ 31) 0 1 0
    let p := domMsg (2 ^ 50 + 2 ^ 51) 0 1 0
    let u := domMsg (2 ^ 31) (2 ^ 31) 1 0
    let w := domMsg 0 0 2 400
    (put 0 c small).Reaches 0 0x80 c (domainChks c) ∧ c.domains.find? (fun x => !small.domainFitted x) = some 31 ∧
    (put 0 p dev).Served 0 0x80 p (domainChks p) ∧ (∀ x ∈ p.domains, dev.domainFitted x = true) ∧ dev.domainRefusal p = some 0x100 ∧
    (put 0 u dark31).Served 0 0x80 u (domainChks u) ∧ dark31.domainRefusal u = none ∧ (dark31.domainJob u).ramp = [31] ∧
    (put 0 w dev).Served 0 0x80 w (domainChks w) ∧ bit (w.f 16 1) 1 = true ∧ dev.domainRefusal w = none ∧ (dev.domainJob w).ramp = [] := by
  unfold State.Served State.Reaches Dev.Turn; decide +kernel

def worn : Otp := { repairs := List.replicate 8 { stack := 7, pch := 63, column := true } }

theorem wit_RepairAndScrub :
    let r := msg 0x90 ([7, 63, 1, 63] ++ zero 4 ++ le 2 15 ++ zero 6)
    let s (op sel a n : Nat) := msg 0x91 ([op, sel, 0, 0] ++ zero 4 ++ le 8 a ++ le 4 n ++ zero 12)
    let t := msg 0x91 ([2, 0x80, 0, 0] ++ zero 12 ++ le 4 1 ++ le 4 1 ++ zero 4 ++ le 4 1)
    let slotted := { dev with slots := { dev.slots with table := [{ length := 1000 }] } }
    (put 0 r dev).Served 0 0x90 r (repairChks r) ∧ dev.fitted 5 7 = true ∧ sparesLeft worn 7 63 true = 0 ∧
      sparesLeft {} 7 63 true ≠ 0 ∧ dev.burn = none ∧
    (put 0 (s 0 0x80 0 0) dev).Served 0 0x91 (s 0 0x80 0 0) (scrubChks dev (s 0 0x80 0 0)) ∧
    (put 0 (s 1 1 (svBase 0) 1) dev).Served 0 0x91 (s 1 1 (svBase 0) 1) (scrubChks dev (s 1 1 (svBase 0) 1)) ∧
    (put 0 (s 1 2 (svBase 0) 1) dev).Served 0 0x91 (s 1 2 (svBase 0) 1) (scrubChks dev (s 1 2 (svBase 0) 1)) ∧
    (put 0 t dev).Served 0 0x91 t (scrubChks dev t) ∧ dev.busyCtx = none ∧ dev.slots.table = [] ∧
    (put 0 t (one .loaded)).Served 0 0x91 t (scrubChks (one .loaded) t) ∧ (one .loaded).busyCtx = some 1 ∧
    (put 0 t slotted).Served 0 0x91 t (scrubChks slotted t) ∧
    (put 0 (s 3 0xFF 0 0) dev).Served 0 0x91 (s 3 0xFF 0 0) (scrubChks dev (s 3 0xFF 0 0)) := by
  unfold State.Served Dev.Turn; decide +kernel

theorem wit_RepairAndScrub_units :
    let r := msg 0x90 ([7, 63, 1, 63] ++ zero 4 ++ le 2 15 ++ zero 6)
    let s := msg 0x91 ([0, 0x80] ++ zero 30)
    let named := (List.range 8).filter (bit (s.f 1 1))
    let slack := dev.setSvc 1 7 .disabled
    (put 0 r small).Reaches 0 0x90 r (repairChks r) ∧ small.fitted 5 7 = false ∧
    (put 0 s small).Reaches 0 0x91 s (scrubChks small s) ∧ named.find? (fun k => !small.fitted 1 k) = some 7 ∧
    (put 0 s slack).Reaches 0 0x91 s (scrubChks slack s) ∧ slack.power.on.getLsbD 53 = true ∧
      (∀ k ∈ named, slack.fitted 1 k = true) ∧ named.find? (fun k => slack.svcOf 1 k != .inService) = some 7 := by
  unfold State.Reaches Dev.Turn; decide +kernel

theorem wit_AttestationAnswers :
    let q := msg 0xA0 ([0, 64] ++ zero 62)
    let h := msg 0xA0 ([1, 0] ++ zero 62)
    let s := { put 0 h dev with otp := { chain := [0x30] } }
    (put 0 q dev).Served 0 0xA0 q (attestChks (put 0 q dev) q) ∧ q.f 0 1 = 0 ∧ s.Served 0 0xA0 h (attestChks s h) ∧ h.f 0 1 = 1 := by
  unfold State.Served Dev.Turn; decide +kernel

/-- An image of one 4,096-byte body under key 0 (R405), signed, and fuses that hold the digest of that key. -/
def fw : FwImage :=
  { header := bytes (le 4 0x58445644 ++ le 2 1 ++ zero 10 ++ le 4 4096 ++ zero 12)
      ++ beBytes 48 0x2ca8c560f92280756d4d4e5903043a370532b246669e6110b033f9ab150d51863208e24bd70ce3738d027638bbd54cd2
      ++ beBytes 48 0x1fc91a81a4cd7ea2ab6c205986767e830926c1bbf7eff71c25a2245d787dd8cc01731db7c2d9b1f4ab7ce1959c83624f
      ++ List.replicate 256 0
      ++ beBytes 48 0xfda859f82bfaaa0596e6bbe14024460e3c2e19c03abb26bd9a93a5a461ccd76b5f4f718b51658e3914225cd060531523
      ++ beBytes 48 0x56a6499291bd880fbc927b4befa544ffc58ef1964bf85161bef1a4934118d79d449d70637caf327cadcbabe6c1d1bd92
      ++ List.replicate 32 0
    body := List.replicate 4096 0 }
def fwOtp : Otp := { keyHash := [sha384 fw.pubkey, 0, 0, 0] }
/-- A selector copy that asks for a trial. -/
def trialCopy : List Byte := Selector.bytes { trial := 1 }
def staged : Dev := withBytes (svBase 0) (le 4 0x58445644 ++ le 2 1 ++ zero 10 ++ le 4 4096) dev
def stageMsg (n : Nat) : MbCmd := msg 0xB0 (le 8 (svBase 0) ++ le 4 n ++ zero 4)
def actMsg (act arg : Nat) : MbCmd := msg 0xB1 ([act, arg] ++ zero 6)
/-- The image in slot B, fit for a trial. -/
def ready (c : MbCmd) : State := { put 0 c dev with otp := fwOtp, flash := { imgB := some fw } }

set_option maxRecDepth 100000 in
/-- R405, R406: the image passes the whole check under its key, and not under another. -/
theorem wit_imageRefusal : headerCode fwOtp fw = 0 ∧ imageRefusal fwOtp fw = none ∧ imageRefusal { fwOtp with revoked := 1 } fw ≠ none := by
  decide +kernel

set_option maxRecDepth 100000 in
theorem wit_FirmwareIsUpdated :
    let c := stageMsg 64
    let e := stageMsg 4608
    let trial := { staged with boot := { staged.boot with trial := true, image := 1 } }
    let r := (put 0 e staged).dev.ioFetch (e.f 0 8) (e.f 8 4)
    let args (d : Dev) (c : MbCmd) : List Chk := [lenIs c 16, (d.inStacked (c.f 0 8) (c.f 8 4), 64), (c.z 12 4, 76)]
    (put 0 c trial).Served 0 0xB0 c (args trial c) ∧ onTrial { put 0 c trial with flash := { sel0 := trialCopy } } = true ∧
    (put 0 c staged).Served 0 0xB0 c (args staged c) ∧ onTrial (put 0 c staged) = false ∧
      ((put 0 c staged).dev.ioFetch (c.f 0 8) (c.f 8 4)).1.2 = [] ∧
      imageRefusal {} { header := ((put 0 c staged).dev.ioFetch (c.f 0 8) (c.f 8 4)).1.1.take 512, body := [] } = some (5, 16) ∧
    (put 0 e staged).Served 0 0xB0 e (args staged e) ∧ r.1.2 = [] ∧
    (put 0 (actMsg 0 0) dev).Served 0 0xB1 (actMsg 0 0) (activateChks (actMsg 0 0)) ∧ dev.busyCtx = none ∧
      imageRefusal {} ((put 0 (actMsg 0 0) dev).flash.image 1) = some (5, 0) ∧
    (ready (actMsg 0 0)).Served 0 0xB1 (actMsg 0 0) (activateChks (actMsg 0 0)) ∧ (ready (actMsg 0 0)).flash.image 1 = fw ∧
    (ready (actMsg 1 0)).Served 0 0xB1 (actMsg 1 0) (activateChks (actMsg 1 0)) ∧ (ready (actMsg 1 0)).dev.canAnswer 0 (actMsg 1 0) = true ∧
      { (ready (actMsg 1 0)).dev with net := {} }.canAnswer 0 (actMsg 1 0) = false ∧
    (put 0 (actMsg 2 1) dev).Served 0 0xB1 (actMsg 2 1) (activateChks (actMsg 2 1)) ∧ dev.boot.fwRollback ≤ ({} : Otp).rollback ∧
    (let d := { dev with boot := { dev.boot with fwRollback := 1 } }
     (put 0 (actMsg 2 1) d).Served 0 0xB1 (actMsg 2 1) (activateChks (actMsg 2 1)) ∧ ({} : Otp).rollback < d.boot.fwRollback ∧ d.burn = none) ∧
    (put 0 (actMsg 3 0) dev).Served 0 0xB1 (actMsg 3 0) (activateChks (actMsg 3 0)) := by
  unfold State.Served Dev.Turn; decide +kernel

/-- MB_CODEC_STREAM_OPEN of a 64 × 64 H.265 encode on engine `e` (R382). -/
def openMsg (e : Nat) : MbCmd :=
  msg 0xC0 ([e, 0, 0, 0, 30, 0, 8, 0] ++ le 2 64 ++ le 2 64 ++ [0, 0, 0, 1] ++ zero 12 ++ le 4 30 ++ le 4 1 ++ le 2 0x8000 ++ [0, 0]
    ++ le 8 0 ++ le 8 0x100000 ++ le 4 65536 ++ le 2 0x8000 ++ le 2 0 ++ le 8 0x200000 ++ le 2 16 ++ zero 6)
def stream : CStream := (openMsg 0).cstream 0
def coding (f : CStream → CStream) (d : Dev) : Dev := { d with codec := [{ svc := .inService, streams := [(0, f stream)] }, { svc := .inService }] }
def fullEngine : Dev := { dev with codec := [{ svc := .inService, streams := (List.range 32).map (fun n => (n, stream)) }, { svc := .inService }] }
def frameMsg : MbCmd := msg 0xC1 (le 2 0 ++ zero 6 ++ (zero 8 ++ le 8 0 ++ le 8 0x10000 ++ zero 8 ++ le 4 64 ++ zero 156))
def closeMsg (mode : Nat) : MbCmd := msg 0xC2 ([0, 0, mode] ++ zero 5)

theorem wit_CodecStreamCommands_open :
    let c := openMsg 0
    let o := { c with payload := c.payload.set 4 31 }
    (put 0 c dev).Served 0 0xC0 c (openChks c) ∧ (∀ k ∈ openOwn dev c, k.1 = true) ∧ c.f 38 1 = 0 ∧
      dev.cstream 31 = none ∧ (put 0 c fullEngine).Served 0 0xC0 c (openChks c) ∧ (∀ k ∈ openOwn fullEngine c, k.1 = true) ∧
      (∀ n < 32, (fullEngine.cstream n).isSome = true) ∧
      (put 0 o dev).Served 0 0xC0 o (openChks o) ∧ firstOff (openOwn dev o) = some 68 := by
  unfold State.Served Dev.Turn; decide +kernel

theorem wit_CodecStreamCommands :
    let f := frameMsg
    let x0 := coding id dev
    let x1 := coding (fun s => { s with closing := some 0 }) dev
    let x8 := coding (fun s => { s with queue := List.replicate 8 {} }) dev
    let x9 := coding (fun s => { s with trig := some 7 }) dev
    (put 0 f x0).Served 0 0xC1 f (frameChks x0 f) ∧ x0.cstream 0 = some stream ∧ stream.trig = none ∧
      (∀ k ∈ descChks x0 stream (f.payload.drop 8), k.1 = true) ∧ stream.queue.length + stream.held.length < 8 ∧
    (put 0 f x1).Served 0 0xC1 f (frameChks x1 f) ∧ (put 0 f x8).Served 0 0xC1 f (frameChks x8 f) ∧
    (put 0 f dev).Served 0 0xC1 f (frameChks dev f) ∧ dev.cstream 0 = none ∧ (put 0 f x9).Served 0 0xC1 f (frameChks x9 f) ∧
    (put 0 (closeMsg 0) x8).Served 0 0xC2 (closeMsg 0) (closeChks (closeMsg 0)) ∧
    (put 0 (closeMsg 1) x0).Served 0 0xC2 (closeMsg 1) (closeChks (closeMsg 1)) ∧ x0.inFrame 0 = false ∧ stream.mbox = 0 ∧
    (let b := x0.setCodec 0 (fun e => { e with cur := some { stream := 0 } })
     (put 0 (closeMsg 1) b).Served 0 0xC2 (closeMsg 1) (closeChks (closeMsg 1)) ∧ b.inFrame 0 = true) := by
  unfold State.Served Dev.Turn; decide +kernel

theorem wit_CodecStreamCommands_refused :
    let c := { openMsg 0 with payload := (((openMsg 0).payload.set 38 1).set 60 7).set 61 0 }
    let f := { frameMsg with payload := frameMsg.payload.set 23 0x7F }
    let x := coding id dev
    let y := coding (fun s => { s with mbox := 3 }) dev
    (put 0 c dev).Served 0 0xC0 c (openChks c) ∧ (∀ k ∈ openOwn dev c, k.1 = true) ∧ c.f 38 1 = 1 ∧ holds (dev.ctx 1) = false ∧
    (put 0 f x).Served 0 0xC1 f (frameChks x f) ∧ (firstOff (descChks x stream (f.payload.drop 8))).isSome = true ∧
    (put 0 (closeMsg 1) dev).Served 0 0xC2 (closeMsg 1) (closeChks (closeMsg 1)) ∧
    (put 0 (closeMsg 0) y).Served 0 0xC2 (closeMsg 0) (closeChks (closeMsg 0)) ∧ y.cstream 0 = some { stream with mbox := 3 } := by
  unfold State.Served Dev.Turn; decide +kernel

/-- The Tick Unit on a source, in a state. -/
def onSource (k : Nat) (f : TickUnit → TickUnit) : Dev := { dev with tu := f { dev.tu with cfg := { source := k } } }

theorem wit_BoundaryStartsATick :
    dev.ticking = true ∧ dev.boundaryDue = some 10000000 ∧
    (let d := onSource 2 (fun t => { t with reacq := true, startNs := 0 })
     let e := { d with now := 10000000 }
     e.ticking = true ∧ State.reset.tap.owns = false ∧ e.tu.gov.source = 2 ∧ e.tu.startNs + e.tu.gov.tMin ≤ e.now) ∧
    (let d := { onSource 2 id with now := 10001000 }
     d.tu.reacq = false ∧ d.tu.endNs ≤ d.now + d.tu.cfg.inWindow ∧ d.now ≤ d.tu.endNs + d.tu.cfg.inWindow ∧ d.tu.holdover = false) ∧
    (onSource 2 (fun t => { t with reacq := true })).tu.gov.source = 2 := by decide +kernel

theorem wit_TickLengthAndStatus :
    (∃ t, exec .tickBoundary (at' dev) = .next t) ∧ dev.tu.pend = none ∧ dev.tu.reacq = false ∧ dev.boundaryDue.isSome = true ∧
    dev.tu.cfg.source = 0 ∧
    (let d := onSource 1 (fun t => { t with slave := some 1, everSlave := true })
     (∃ t, exec .tickBoundary (at' d) = .next t) ∧ d.ticking = true ∧ d.tu.cfg.source = 1 ∧ d.tu.slave = some 1) ∧
    (onSource 1 id).tu.slave = none ∧ (onSource 2 id).tu.holdover = false := by
  refine ⟨⟨_, rfl⟩, ?_, ?_, ?_, ?_, ⟨⟨_, rfl⟩, ?_⟩, ?_⟩ <;> decide +kernel

theorem wit_OtherEdges :
    (let s := { at' dev with tap := { owns := true } }; s.tap.owns = true) ∧ dev.ticking = true ∧ dev.tu.reacq = false ∧
    dev.tu.cfg.source ≠ 2 ∧
    (let d := onSource 2 id
     d.tu.cfg.source = 2 ∧ ¬ d.tu.endNs ≤ d.now + d.tu.cfg.inWindow ∧ d.tu.holdover = false) ∧
    (let d := { onSource 2 (fun t => { t with holdover := true }) with now := 1000 }
     d.tu.holdover = true ∧ d.now ≤ d.tu.startNs + d.tu.cfg.inWindow ∧ ¬ d.tu.endNs ≤ d.now + d.tu.cfg.inWindow) := by decide +kernel

theorem wit_PtpFollowsItsPort :
    (∃ l ∈ dev.portLinks 1, (dev.net.links.getD l {}).up = true) ∧ dev.net.fab.macsecReq = false ∧ dev.tu.slave ≠ some 1 ∧
    (let d := onSource 1 (fun t => { t with slave := some 1, locked := true })
     d.tu.slave = some 1 ∧ d.tu.cfg.source = 1 ∧ d.ticking = true ∧ d.tu.locked = true) ∧
    ({ dev with net := { dev.net with fab := { dev.net.fab with macsecReq := true } } } : Dev).net.fab.macsecReq = true := by
  decide +kernel

/-- A slot table of one slot of context 1, past the window. -/
def slot1 (d : Dev) : Dev :=
  { d with slots := { d.slots with table := [{ length := 100000, owner := 1, rt := true, yield := true }], window := false } }
/-- That slot in progress, its own invocation running in context 1. -/
def slotRun : SlotRun := { i := 0, startNs := 150000, endNs := some 250000, idle := false, own := true }
def inSlot (f : SlotRun → SlotRun) (d : Dev) : Dev :=
  let d := slot1 d
  { d with now := 150000, slots := { d.slots with nxt := 1, resident := 1, cur := some (f slotRun) } }
def live : Dev := inSlot id (held .running dev)

theorem wit_WindowCloses : dev.ticking = true ∧ dev.slots.window = true ∧ dev.drainPacket = none := by decide +kernel

theorem wit_SlotBegins :
    let d := slot1 dev
    let e := slot1 (held .ready dev)
    let f := { e with slots := { e.slots with resident := 1 } }
    let g := f.setCtx 1 (fun x => { x with yielded := true })
    d.slots.window = false ∧ d.slots.nxt < d.slots.table.length ∧ d.slotFree = true ∧ d.runnable (d.entryAt 0) = false ∧
    e.slotFree = true ∧ e.runnable (e.entryAt 0) = true ∧ e.slots.resident ≠ (e.entryAt 0).owner ∧
    f.slotFree = true ∧ f.runnable (f.entryAt 0) = true ∧ f.slots.resident = (f.entryAt 0).owner ∧ (f.ctx 1).yielded = false ∧
    g.slotFree = true ∧ g.runnable (g.entryAt 0) = true ∧ (g.ctx 1).yielded = true := by decide +kernel

theorem wit_SlotProceeds :
    let a := { inSlot (fun r => { r with swapping := true, own := false }) (held .ready dev) with slots :=
      { (inSlot (fun r => { r with swapping := true, own := false }) (held .ready dev)).slots with swapTo := 1 } }
    let r := inSlot (fun r => { r with own := false }) (held .running dev)
    let h (d : Dev) := d.setCtx 1 (fun c => { c with streams := List.replicate 32 {} })
    let late := { h live with slots := { (h live).slots with late := 1 } }
    let p := (h live).setCtx 1 (fun c => { c with stopMode := some 1 })
    let y (d : Dev) := d.setCtx 1 (fun c => { c with stopMode := some 0 })
    let two := live.setCtx 1 (fun c => { c with stopMode := some 0, streams := [{ halted := false }, { halted := false }] })
    (a.slots.swapTo = 1 ∧ a.swapHeld = false ∧ (a.entryAt 0).owner = 1 ∧ a.runnable (a.entryAt 0) = true) ∧
    (live.slots.cur = some slotRun ∧ (live.ctx 1).streams.all (fun x => x.halted || x.yielded) = false) ∧
    ((h r).executing = 1 ∧ ((h r).ctx 1).st = .running ∧ ((h r).ctx 1).streams.all (fun x => x.halted) = true ∧ (h r).slots.late ≠ 1 ∧
      ((h r).ctx 1).prog.isSome = true) ∧
    ((h live).executing = 1 ∧ ((h live).ctx 1).stopMode = none) ∧ (late.executing = 1 ∧ late.slots.late = 1) ∧
    ((p.ctx 1).stopMode = some 1 ∧ p.executing = 1) ∧
    (two.executing = 1 ∧ two.mustYield 1 = true ∧ two.dealt 1 0 = false ∧ (two.ctx 1).streams[1]? = some { halted := false }) ∧
    ((y live).mustYield 1 = true ∧ ((y live).ctx 1).streams[0]? = some { halted := false } ∧
      (live.cluster 0).svc = .inService ∧ ((unit 0 0 .draining live).cluster 0).svc ≠ .inService ∧ live.mustYield 1 = false) := by
  decide +kernel

theorem wit_CalibrationAndStalls :
    let d := { dev with now := 1000000000000 }
    let e := d.setStack 7 (fun x => { x with cal := some (1, 5) })
    let f := (inSlot id (held .running dev)).setStack 7 (fun x => { x with defer := 16 })
    let g := { f with now := 1000000000000, slots := { f.slots with cur := some { slotRun with startNs := 1000000000000 } } }
    let i := { g with slots := { g.slots with cur := some { slotRun with startNs := 1000000000000, idle := true } } }
    let k := (held .ready dev).setCtx 1 (fun x => { x with stallTicks := 3, stallCount := 3 })
    (d.calIsDue 7 1 = true ∧ (d.stack 7).cal = none ∧ d.maintEnd = some 10000000) ∧ (e.stack 7).cal = some (1, 5) ∧
    ((let d := { dev with now := 5000000000, tu := { dev.tu with startNs := 5000000000, endNs := 5010000000 } }
      d.calIsDue 7 0 = true ∧ d.maintEnd = some 5010000000 ∧ d.now + calLength 0 ≤ 5010000000)) ∧
    (g.calIsDue 7 1 = true ∧ (g.stack 7).cal = none ∧ 16 ≤ (g.stack 7).defer ∧ g.intrusionAt 7 0 1 = some 0) ∧
    (i.calIsDue 7 1 = true ∧ i.intrusionAt 7 0 1 = some 0) ∧ ((g.setStack 7 (fun x => { x with carry := true })).stack 7).carry = true ∧
    ((k.ctx 1).st = .ready ∧ (k.ctx 1).stallTicks ≠ 0 ∧ (k.ctx 1).stallTicks ≤ (k.ctx 1).stallCount ∧ (k.ctx 1).stallRaised = false) := by
  decide +kernel

/-! A program at work: its code at the start of stack 0, its descriptor table at that of stack 1, with two rows of four FP32
elements in stack 2, one core of cluster 0 as core set 0, a claim of 64 entries in each Kerb queue. -/

def prog2 : Program :=
  { prog with nDesc := 2, parts := [{ size := 4096 }], rbase := List.replicate 64 (svBase 1), coresets := [(0, 0x1000001)]
              streams := some (svBase 0) :: List.replicate 31 none, kqEntries := List.replicate 8 64 }
def desc (base : Nat) : List Nat := le 6 (2 ^ 47 + base) ++ le 2 (1 + 64) ++ le 3 4 ++ zero 53
def tables : List Nat := desc (svBase 2) ++ desc (svBase 2 + 64) ++ (List.replicate 8 (le 4 0x80008000 ++ zero 4)).flatten
/-- A macro-instruction (R54): class, variant, wait and signal halves of the header, operands, `WAIT_N`, `SIG_N`. -/
def mi (opc var wait sig : Nat) (body : List Nat) (wn sn : Nat) : List Nat :=
  [opc, var] ++ le 2 wait ++ le 2 sig ++ [0, 0] ++ body ++ zero (52 - body.length) ++ le 2 wn ++ le 2 sn
/-- Object 7 in a wait or signal half, under a mode. -/
def o7 (mode : Nat) : Nat := 7 + mode * 2 ^ 14
/-- Stream 0 of context 1 runs, at the issue of one macro-instruction. -/
def atMi (raw : List Nat) : Dev :=
  withBytes (svBase 1) tables (withBytes (svBase 0) raw
    (live.setCtx 1 (fun c => { c with prog := some prog2, streams := { pc := svBase 0, halted := false } :: List.replicate 31 {} })))
def s0 : Stream := { pc := svBase 0, halted := false }
/-- The machine after the read of the macro-instruction. -/
def read (raw : List Nat) : Dev := ((fetchMi (svBase 0)).run.run (atMi raw)).2

/-- What a witness must show of a macro-instruction at issue, for a check by evaluation. -/
def issues (raw : List Nat) (key : Nat × Nat) : Bool :=
  (atMi raw).atIssue 0 .none == some (1, s0) && (match ((fetchMi (svBase 0)).run.run (atMi raw)).1 with
    | .ok b => b == bytes raw
    | .error _ => false) && miRow (bytes raw) == some key
    && miOk ((atMi raw).progOf 1) ((atMi raw).lutListed 1) (bytes raw) && nestOk s0 (bytes raw)
    && !(atMi raw).mis.any (fun m => m.ctx == 1 && m.st == 0)
theorem atMi_of {raw : List Nat} {key : Nat × Nat} (h : issues raw key = true) :
    (atMi raw).AtMi 0 1 s0 key (bytes raw) (read raw) := by
  simp only [issues, Bool.and_eq_true, beq_iff_eq, Bool.not_eq_true'] at h
  obtain ⟨⟨⟨⟨⟨h1, h2⟩, h3⟩, h4⟩, h5⟩, h6⟩ := h
  refine ⟨h1, ?_, h3, h4, h5, fun _ => h6⟩
  split at h2
  · rename_i b hb
    have hp : s0.pc = svBase 0 := rfl
    exact Prod.ext (by rw [hp, hb]; simpa using h2) rfl
  · cases h2

def copyMi (wait sig : Nat) : List Nat := mi 0x20 0 wait sig (le 2 0 ++ le 2 1 ++ le 2 0x8000 ++ le 2 0x8000) 0 1
def boundMi : List Nat := mi 0x30 3 0 0 (le 2 0x8000 ++ le 2 0x8000 ++ [0, 63] ++ zero 14 ++ le 4 9) 0 0
def loadBoundMi : List Nat := mi 0x30 2 0 0 (le 2 0x8000 ++ le 2 0x8000 ++ [0, 63] ++ zero 6 ++ le 8 (2 ^ 47 + svBase 1)) 0 0
def syncMi (var n : Nat) : List Nat := mi 0x50 var 0 0 ([1, 0, 0, 0] ++ le 2 7 ++ le 2 n) 0 0
def loopMi (count : Nat) : List Nat := mi 0x51 0 0 0 (le 2 1 ++ [0, 0] ++ le 4 count ++ le 4 2 ++ [64, 0]) 0 0
def markMi (var : Nat) : List Nat := mi 0x52 var 0 (o7 1) (le 4 5) 0 1
def haltMi : List Nat := mi 0x5F 0 0 0 [] 0 0
def krbMi (mask : Nat) : List Nat := mi 0x40 0 0 0 ([mask, 0] ++ le 2 1 ++ zero 4 ++ le 8 (2 ^ 47 + sqBase 0)) 0 0
/-- `KGATH` transform of one row onto the other (R154). -/
def kcmd : List Nat := [4, 2, 2, 0] ++ zero 4 ++ le 2 0x8000 ++ zero 2 ++ le 2 0 ++ le 2 1 ++ le 2 0x8000 ++ zero 46

/-- The machine after a command. -/
def nextOf (row : Instr) (d : Dev) : Dev := match exec row (at' d) with
  | .next t => t.dev
  | _ => d

/-- A part of a computation: its value, none where it faults. -/
def okOf {α : Type} (r : Except Err α × Dev) : Option α := match r.1 with
  | .ok a => some a
  | .error _ => none

theorem wit_TilesAreDealt :
    (.vopCopyConvert 0, (0x20, 0)) ∈ tileRows 0 ∧ (atMi (copyMi 0 (o7 1))).AtMi 0 1 s0 (0x20, 0) (bytes (copyMi 0 (o7 1))) (read (copyMi 0 (o7 1))) ∧
    s0.met = false ∧ (read (copyMi 0 (o7 1))).WaitMet 0 1 (bytes (copyMi 0 (o7 1))) (read (copyMi 0 (o7 1))) ∧
    (∃ m pl f, (prepare 1 0 (bytes (copyMi 0 (o7 1)))).run.run (read (copyMi 0 (o7 1))) = (.ok (m, pl, .none), f) ∧
      (f.ctx 1).streams[0]? = some s0 ∧ prodOf m.n ≠ 0) := by
  refine ⟨by decide, atMi_of (by decide +kernel), rfl, ⟨by decide +kernel, by rfl⟩, ?_⟩
  have h : (match okOf ((prepare 1 0 (bytes (copyMi 0 (o7 1)))).run.run (read (copyMi 0 (o7 1)))) with
      | some (m, _, h) => decide (h = .none) && prodOf m.n != 0
      | none => false) = true := by decide +kernel
  have h2 : (((prepare 1 0 (bytes (copyMi 0 (o7 1)))).run.run (read (copyMi 0 (o7 1)))).2.ctx 1).streams[0]? = some s0 := by decide +kernel
  generalize (prepare 1 0 (bytes (copyMi 0 (o7 1)))).run.run (read (copyMi 0 (o7 1))) = r at h h2
  obtain ⟨x, f⟩ := r
  cases x with
  | error e => simp [okOf] at h
  | ok v =>
    obtain ⟨m, pl, y⟩ := v
    simp only [okOf, Bool.and_eq_true, decide_eq_true_eq, bne_iff_ne, ne_eq] at h
    exact ⟨m, pl, f, by rw [h.1], h2, h.2⟩

/-- A met wait with nothing held earlier, for a check by evaluation. -/
def waitsFor (raw : List Nat) : Bool :=
  !(read raw).earlierWait 1 0 (read raw).fresh (waitObjs false (bytes raw)) && headerWait 1 (bytes raw) (read raw) == some (read raw)
theorem waitMet_of {raw : List Nat} (h : waitsFor raw = true) : (read raw).WaitMet 0 1 (bytes raw) (read raw) := by
  simp only [waitsFor, Bool.and_eq_true, beq_iff_eq, Bool.not_eq_true'] at h
  exact ⟨h.1, h.2⟩

def heldMi : List Nat := mi 0x52 0 (o7 1) 0 (le 4 5) 1 0
def badMi : List Nat := mi 0x52 0 0 0 (le 4 5 ++ [1]) 0 0
def shapeMi : List Nat := mi 0x20 0 0 0 (le 2 0 ++ le 2 1 ++ le 2 1 ++ le 2 0x8000 ++ [1]) 0 0

theorem wit_IssueHoldsAndFaults :
    (.markBegin 0, (0x52, 0)) ∈ tileRows 0 ++ controlRows 0 ∧
    ((atMi heldMi).AtMi 0 1 s0 (0x52, 0) (bytes heldMi) (read heldMi) ∧ headerWait 1 (bytes heldMi) (read heldMi) = none) ∧
    ((atMi badMi).atIssue 0 .none = some (1, s0) ∧ okOf ((fetchMi s0.pc).run.run (atMi badMi)) = some (bytes badMi) ∧
      holds ((read badMi).ctx 1) = true ∧ miRow (bytes badMi) = some (0x52, 0) ∧
      miOk ((atMi badMi).progOf 1) ((atMi badMi).lutListed 1) (bytes badMi) = false) ∧
    (let d := (atMi badMi).setCtx 1 (fun c => { c with streams := [{ s0 with pc := 0x7F0000000000 }] })
     d.atIssue 0 .none = some (1, { s0 with pc := 0x7F0000000000 }) ∧ okOf ((fetchMi 0x7F0000000000).run.run d) = none) ∧
    ((atMi (copyMi 0 0)).AtMi 0 1 s0 (0x20, 0) (bytes (copyMi 0 0)) (read (copyMi 0 0)) ∧
      (read (copyMi 0 0)).WaitMet 0 1 (bytes (copyMi 0 0)) (read (copyMi 0 0)) ∧
      okOf ((prepare 1 0 (bytes (copyMi 0 0))).run.run
        ((read (copyMi 0 0)).setCtx 1 (fun c => { c with prog := c.prog.map (fun p => { p with coresets := [] }) }))) = none) := by
  refine ⟨by decide, ⟨atMi_of (by decide +kernel), by decide +kernel⟩, by decide +kernel, by decide +kernel,
    atMi_of (by decide +kernel), waitMet_of (by decide +kernel), by decide +kernel⟩

theorem wit_SyncAndBoundMoves :
    (atMi boundMi).AtMi 0 1 s0 (0x30, 3) (bytes boundMi) (read boundMi) ∧ (read boundMi).WaitMet 0 1 (bytes boundMi) (read boundMi) ∧
    csOk (coreset ((read boundMi).progOf 1) 0 (bytes boundMi)) = true ∧ (read boundMi).SignalFits 1 (bytes boundMi) ∧
    (atMi loadBoundMi).AtMi 0 1 s0 (0x30, 2) (bytes loadBoundMi) (read loadBoundMi) ∧
      csOk (coreset ((read loadBoundMi).progOf 1) 0 (bytes loadBoundMi)) = true ∧
      (let d := nextOf (.moveBoundLoad 0) (atMi loadBoundMi)
       d.mis.length = 1 ∧ holds (d.ctx 1) = true ∧ 63 < (d.ctx 1).bounds.length ∧
       d.mis.all (fun m => m.st == 0 && miRow m.raw == some (0x30, 2) && !m.fenced && m.todo == [] && m.ctx == 1 && m.f 13 1 == 63
         && sigMode m.raw == 0 && okOf ((readCtl ((d.progOf 1).addr (m.f 20 6)) 4).run.run d) == some (bytes (tables.take 4))) = true) ∧
    (atMi (syncMi 0 0)).AtMi 0 1 s0 (0x50, 0) (bytes (syncMi 0 0)) (read (syncMi 0 0)) ∧
      (read (syncMi 0 0)).earlierWait 1 0 (read (syncMi 0 0)).fresh ((syncNeed (bytes (syncMi 0 0))).map Prod.fst) = false ∧
      (∀ n ∈ syncNeed (bytes (syncMi 0 0)), n.2 ≤ (read (syncMi 0 0)).objVal 1 n.1) ∧
    (atMi (syncMi 0 1)).AtMi 0 1 s0 (0x50, 0) (bytes (syncMi 0 1)) (read (syncMi 0 1)) ∧
      (∃ n ∈ syncNeed (bytes (syncMi 0 1)), (read (syncMi 0 1)).objVal 1 n.1 < n.2) ∧
    (atMi (syncMi 1 65535)).AtMi 0 1 s0 (0x50, 1) (bytes (syncMi 1 65535)) (read (syncMi 1 65535)) ∧
      (read (syncMi 1 65535)).SumsFit 1 (syncEntries (bytes (syncMi 1 65535))) ∧
    (atMi (syncMi 2 9)).AtMi 0 1 s0 (0x50, 2) (bytes (syncMi 2 9)) (read (syncMi 2 9)) := by
  refine ⟨atMi_of (by decide +kernel), waitMet_of (by decide +kernel), by decide +kernel, .inl (by decide +kernel),
    atMi_of (by decide +kernel), by decide +kernel, by decide +kernel, atMi_of (by decide +kernel), by decide +kernel, by decide +kernel,
    atMi_of (by decide +kernel), by decide +kernel, atMi_of (by decide +kernel), ?_, atMi_of (by decide +kernel)⟩
  unfold Dev.SumsFit; decide +kernel

theorem wit_LoopMarkHalt :
    (atMi (loopMi 3)).AtMi 0 1 s0 (0x51, 0) (bytes (loopMi 3)) (read (loopMi 3)) ∧
    (read (loopMi 3)).WaitMet 0 1 (bytes (loopMi 3)) (read (loopMi 3)) ∧ (read (loopMi 3)).SignalFits 1 (bytes (loopMi 3)) ∧
    fld (bytes (loopMi 3)) 16 4 < fld (bytes (loopMi 3)) 12 4 ∧ holds ((read (loopMi 3)).ctx 1) = true ∧
    (atMi (loopMi 0)).AtMi 0 1 s0 (0x51, 0) (bytes (loopMi 0)) (read (loopMi 0)) ∧ fld (bytes (loopMi 0)) 12 4 = 0 ∧
    (atMi (loopMi 2)).AtMi 0 1 s0 (0x51, 0) (bytes (loopMi 2)) (read (loopMi 2)) ∧ fld (bytes (loopMi 2)) 12 4 = 2 ∧
    (atMi (markMi 2)).AtMi 0 1 s0 (0x52, 2) (bytes (markMi 2)) (read (markMi 2)) ∧ (read (markMi 2)).SignalFits 1 (bytes (markMi 2)) ∧
    (atMi haltMi).AtMi 0 1 s0 (0x5F, 0) (bytes haltMi) (read haltMi) ∧
    (let l : LoopLevel := { off := svBase 0, body := 1, count := 2, idx := some 0 }
     let at2 (k : Nat) := live.setCtx 1 (fun c => { c with streams := [{ s0 with pc := svBase 0 + 128, loops := [{ l with iter := k }] }] })
     ((at2 0).ctx 1).streams[0]? = some { s0 with pc := svBase 0 + 128, loops := [l] } ∧ svBase 0 + 128 = l.off + 64 * (l.body + 1) ∧
     l.iter + 1 < l.count ∧ 0 < ((at2 0).ctx 1).bounds.length ∧
     ((at2 1).ctx 1).streams[0]? = some { s0 with pc := svBase 0 + 128, loops := [{ l with iter := 1 }] }) := by
  refine ⟨atMi_of (by decide +kernel), waitMet_of (by decide +kernel), .inl (by decide +kernel), by decide +kernel, by decide +kernel,
    atMi_of (by decide +kernel), by decide +kernel, atMi_of (by decide +kernel), by decide +kernel, atMi_of (by decide +kernel),
    .inr ⟨by decide +kernel, by decide +kernel⟩, atMi_of (by decide +kernel), by decide +kernel⟩

/-- `HALT` behind a macro-instruction in flight. -/
def busyHalt : Dev := { atMi haltMi with mis := [{ ctx := 1, st := 0 }] }
theorem wit_LoopMarkHalt_order :
    busyHalt.atIssue 0 .none = some (1, s0) ∧ okOf ((fetchMi s0.pc).run.run busyHalt) = some (bytes haltMi) ∧
    miRow (bytes haltMi) = some (0x5F, 0) ∧
    miOk (busyHalt.progOf 1) (busyHalt.lutListed 1) (bytes haltMi) = true ∧
    nestOk s0 (bytes haltMi) = true ∧ busyHalt.mis.any (fun m => m.ctx == 1 && m.st == 0) = true := by
  repeat' apply And.intro
  all_goals decide +kernel

/-- Stream 0 held, with the macro-instruction it took. -/
def heldAt (h : Hold) (met : Bool) (raw : List Nat) : Dev :=
  (atMi raw).setCtx 1 (fun c => { c with streams := c.streams.set 0 { s0 with hold := h, met := met, raw := bytes raw } })
def xHeld (h : Hold) (met : Bool) (raw : List Nat) : Stream := { s0 with hold := h, met := met, raw := bytes raw }
/-- A survey command of slot 0 in engine 0, held at its table write (R274). -/
def surv : KCmd := { id := 9, ctx := 1, raw := bytes ([5, 0] ++ zero 62), engs := [0], left := [0] }
def surveying : Dev :=
  { heldAt .wait false haltMi with kcmds := [(9, surv)], kerb := { svc := .inService, queue := [{ cmd := 9, lane := 1, running := true, held := 1 }] } :: List.replicate 7 { svc := .inService } }

theorem wit_HoldsAreReleased :
    (let raw := markMi 0
     let d := heldAt .wait false raw
     let x := xHeld .wait false raw
     d.atIssue 0 .wait = some (1, x) ∧ d.earlierWait 1 0 x.since (waitObjs false x.raw) = false ∧ headerWait 1 x.raw d = some d ∧
     (d.anyBody 1 0 x.raw).streamOf 1 0 ≠ { x with since := ((d.anyBody 1 0 x.raw).streamOf 1 0).since }) ∧
    (let raw := syncMi 0 0
     let d := heldAt .wait true raw
     let x := xHeld .wait true raw
     d.atIssue 0 .wait = some (1, x) ∧ x.met = true ∧ d.earlierWait 1 0 x.since (waitObjs true x.raw) = false ∧
     (d.anyBody 1 0 x.raw).streamOf 1 0 ≠ { x with since := ((d.anyBody 1 0 x.raw).streamOf 1 0).since }) ∧
    (∀ h ∈ [Hold.lut, Hold.ctab], let raw := copyMi 0 0
     let d := heldAt h true raw
     let x := xHeld h true raw
     d.atIssue 0 h = some (1, x) ∧
     (d.anyBody 1 0 x.raw).streamOf 1 0 ≠ { x with since := ((d.anyBody 1 0 x.raw).streamOf 1 0).since }) ∧
    ((surveying.running 0 1).map (fun q => (q.1.held, q.1.stopped, (surveying.survWrite 0 q.2).isSome)) = some (1, false, true)) ∧
    (let m : InFlight := { id := 4, ctx := 1, kleft := [9], kcmds := [9] }
     let d := { heldAt .krb true haltMi with mis := [m] }
     d.executing = 1 ∧ (d.ctx 1).st = .running ∧ (d.streamOf 1 0).hold = .krb ∧
     d.mis.find? (fun m => m.ctx == 1 && m.st == 0 && !m.kleft.isEmpty) = some m) := by decide +kernel

/-- The same with the command of its list in Square scratch. -/
def krbAt (mask : Nat) (cmd : List Nat) : Dev := withBytes (sqBase 0) cmd (read (krbMi mask))

theorem wit_KrbDelivers :
    (atMi (krbMi 0x81)).AtMi 0 1 s0 (0x40, 0) (bytes (krbMi 0x81)) (read (krbMi 0x81)) ∧
    (read (krbMi 0x81)).WaitMet 0 1 (bytes (krbMi 0x81)) (read (krbMi 0x81)) ∧
    (unit 1 7 .draining (read (krbMi 0x81))).engineReady 7 = false ∧
    (∀ k ∈ [0, 7], (read (krbMi 0x81)).engineReady k = true ∧ 1 ≤ nth ((read (krbMi 0x81)).progOf 1).kqEntries k) ∧
    ((read (krbMi 0x81)).readKrb 1 0 (bytes (krbMi 0x81))).1.toOption.isNone = true ∧
    ((krbAt 0x81 kcmd).readKrb 1 0 (bytes (krbMi 0x81))).1.toOption.map List.length = some 1 ∧
    (let d := { krbAt 0x81 kcmd with mis := [{ id := 4, ctx := 1, kleft := [9], kcmds := [9] }], kcmds := [(9, { ctx := 1, raw := bytes kcmd, engs := [0, 7] })] }
     d.mis.find? (fun m => m.id == 4) = some { id := 4, ctx := 1, kleft := [9], kcmds := [9] } ∧ (aget d.kcmds 9).isSome = true ∧
     (∀ s ∈ [0, 7], d.entriesOf 1 s < nth (d.progOf 1).kqEntries s)) ∧
    nth (live.progOf 1).kqEntries 0 ≤ live.entriesOf 1 0 := by
  refine ⟨atMi_of (by decide +kernel), waitMet_of (by decide +kernel), ?_⟩
  decide +kernel

/-- The machine in which a copy of one tile has been dealt to core 0. -/
def dealtDev : Dev := nextOf (.vopCopyConvert 0) (atMi (copyMi 0 (o7 1)))
def copyIn : InFlight := dealtDev.mis.headD {}
/-- The same with a change to the macro-instruction in flight. -/
def tampered (f : InFlight → InFlight) : Dev := { dealtDev with mis := dealtDev.mis.map f }
def farM (m : InFlight) : InFlight := { m with tens := m.tens.map (fun t => { t with base := 0x7F0000000000 }) }
def longM (m : InFlight) : InFlight := { m with tens := m.tens.map (fun t => { t with ext := 5 :: t.ext.drop 1 }) }
/-- Mode 2 in place of 1: the signal comes with the core's last item. -/
def mode2 (m : InFlight) : InFlight := { m with raw := m.raw.set 5 (BitVec.ofNat 8 0x80) }
def itemOf (m : InFlight) (d : Dev) : Bool := match ((ExceptT.run (T.item m 0 0)).run { d := d, core := 1 }).1 with
  | .ok _ => true
  | .error _ => false

theorem wit_CoresWorkTheirItems :
    dealtDev.nextItem 0 = some (copyIn, 0) ∧ copyIn.s = 1 ∧ dealtDev.executing = copyIn.ctx ∧ (dealtDev.ctx copyIn.ctx).st = .running ∧
    0 ∉ copyIn.halo ∧ miOpc copyIn.raw ∉ [0x10, 0x11, 0x12] ∧ tileOver dealtDev copyIn 0 = false ∧ itemOf copyIn dealtDev = true ∧
    ((tampered farM).nextItem 0 = some (farM copyIn, 0) ∧ tileOver (tampered farM) (farM copyIn) 0 = false ∧ itemOf (farM copyIn) (tampered farM) = false) ∧
    ((tampered longM).nextItem 0 = some (longM copyIn, 0) ∧ tileOver (tampered longM) (longM copyIn) 0 = true) ∧
    ((tampered mode2).nextItem 0 = some (mode2 copyIn, 0) ∧ sigMode (mode2 copyIn).raw = 2 ∧ itemOf (mode2 copyIn) (tampered mode2) = true ∧
      ((copyIn.todo.find? (fun p => p.1 == 0)).map (fun p => p.2.drop 1)) = some [] ∧ holds ((tampered mode2).ctx 1) = true) ∧
    (let k (m : InFlight) : InFlight := { m with halo := [0] }
     (tampered k).nextItem 0 = some (k copyIn, 0) ∧ ((tampered k).ctx 1).st ≠ .tearingDown ∧ 0 ∈ (k copyIn).halo) ∧
    dealtDev.nextItem 383 = none := by decide +kernel

/-- A sigmoid of the same row, and the copy dealt to two cores. -/
def sfnM (m : InFlight) : InFlight := { m with raw := bytes (mi 0x21 0 0 0 (le 2 0 ++ le 2 1 ++ [7, 0, 0, 0] ++ le 4 0x3F800000) 0 1) }
def sharedM (m : InFlight) : InFlight := { mode2 m with todo := [(0, [0]), (1, [1])] }
/-- A bank of lengths: one bit for a zero byte, nine for any other. -/
def skewed : List Byte := bytes ([3, 1] ++ zero 62 ++ 0x91 :: List.replicate 127 0x99)

theorem wit_CoresWorkTheirItems_stores :
    ((tampered sharedM).nextItem 0 = some (sharedM copyIn, 0) ∧ itemOf (sharedM copyIn) (tampered sharedM) = true ∧
      (tampered sharedM).mustYield 1 = false ∧ (sharedM copyIn).todo.all (fun p => p.1 == 0 || p.2.isEmpty) = false ∧
      (tampered sharedM).objVal 1 (sigSo (sharedM copyIn).raw) + sigN (sharedM copyIn).raw ≤ 0xFFFFFFFF) ∧
    copyIn.Whole 0 ∧ (miOpc copyIn.raw = 0x20 ∧ copyIn.f 16 1 < 0x10 ∧ vopSrcs copyIn ≠ [] ∧ ∀ x ∈ vopSrcs copyIn, x.dtype ≠ .ov4o) ∧
    (miOpc (sfnM copyIn).raw = 0x21 ∧ (sfnM copyIn).f 12 1 < 11 ∧ itemOf (sfnM copyIn) dealtDev = true) ∧
    (Fmt.fp32.decode 0x7F7FFFFF).isNan = false ∧
    2 * (((roundGrid .ne 1 (0 - 1) 0 * 2 ^ 1 : Nat) : Int) - 1).natAbs = 2 ^ 1 ∧
    (bankKind skewed = 3 ∧ bankOk skewed = true ∧ fld skewed 1 1 = 1 ∧ lzpEncode skewed 1 (List.replicate 16 0) = ([0, 0], false)) := by
  unfold InFlight.Whole; decide +kernel

theorem wit_CoresWorkTheirItems_local : dev.Local (sqBase 1) 64 := by
  refine ⟨by decide, by decide +kernel, by decide +kernel, ?_⟩
  intro l h1 h2
  have h : l = sqBase 1 / 64 := by unfold Dev.sqBase at *; omega
  subst h; decide +kernel

/-- A halo tile of a convolution whose wait is met. -/
def haloM : InFlight := { id := 3, ctx := 1, raw := bytes (mi 0x12 0 0 0 (zero 26 ++ le 2 7 ++ le 2 0) 0 0), n := [1], t := [1], todo := [(0, [0])], halo := [0] }
def doneM (m : InFlight) : InFlight := { m with todo := m.todo.map (fun p => (p.1, [])) }

theorem wit_HaloAndCompletion :
    (let d := { live with mis := [haloM] }; d.nextItem 0 = some (haloM, 0) ∧ 0 ∈ haloM.halo ∧ d.haloMet haloM 0 = true) ∧
    (let d := tampered doneM
     let e := ((d.drainUser copyIn.id).flushDrop copyIn.drop).reloadLut (doneM copyIn)
     (d.mis.filter (fun m => m.st == 0)).drop 0 = [doneM copyIn] ∧ miOpc copyIn.raw ≠ 0x40 ∧ copyIn.fenced = false ∧
     (∀ p ∈ (doneM copyIn).todo, p.2 = []) ∧ holds (d.ctx copyIn.ctx) = true ∧ sigMode copyIn.raw = 1 ∧
     (let r := (reloadMove (doneM copyIn)).run.run e
      (okOf r).isSome = true ∧ holds (r.2.ctx 1) = true ∧ r.2.objVal 1 (sigSo copyIn.raw) + sigN copyIn.raw ≤ 0xFFFFFFFF)) := by
  decide +kernel

theorem wit_WaitModes :
    ((.markBegin 0, (0x52, 0)) ∈ tileRows 0 ++ controlRows 0 ∧ (atMi heldMi).AtMi 0 1 s0 (0x52, 0) (bytes heldMi) (read heldMi) ∧
      s0.met = false ∧ headerWait 1 (bytes heldMi) (read heldMi) = none) ∧
    let r (mode n : Nat) : List Byte := bytes (mi 0x52 0 (o7 mode) 0 [] n 0)
    let d := live.setCtx 1 (fun c => { c with objs := [(7, 65535)] })
    (waitMode (r 1 65535) = 1 ∧ waitN (r 1 65535) ≤ d.objVal 1 (waitSo (r 1 65535)) ∧ 1 ≤ d.ctxs.length) ∧
    (waitMode (r 2 65535) = 2 ∧ waitN (r 2 65535) ≤ d.objVal 1 (waitSo (r 2 65535))) ∧
    (waitMode (r 3 0) = 3 ∧ live.objVal 1 (waitSo (r 3 0)) = 0) ∧ (waitMode (r 1 1) = 1 ∧ live.objVal 1 (waitSo (r 1 1)) < waitN (r 1 1)) ∧
    d.objVal 1 (waitSo (r 3 0)) ≠ 0 := by
  refine ⟨⟨by decide, atMi_of (by decide +kernel), rfl, by decide +kernel⟩, ?_⟩
  decide +kernel

/-- The command of `kcmd`, resolved, in the queue of engine 0, with a change. -/
def kc : KCmd := ((((krbAt 0x81 kcmd).readKrb 1 0 (bytes (krbMi 0x81))).1.toOption.getD []).headD {})
def queued (e : KEntry) (f : KCmd → KCmd) (d : Dev) : Dev :=
  { d with kcmds := [(9, { f kc with id := 9, mi := 77 })], kerb := { svc := .inService, queue := [{ e with cmd := 9, lane := 2 }] } :: List.replicate 7 { svc := .inService } }
/-- The same over two rows, in one engine. -/
def twoRows (c : KCmd) : KCmd := { c with engs := [0], tens := c.tens.map (fun t => t.map (fun t => { t with ext := t.ext.set 1 2, alloc := t.alloc.set 1 2 })) }
def farK (c : KCmd) : KCmd := { c with tens := c.tens.map (fun t => t.map (fun t => { t with base := 0x1FFFFFFFF000 })) }
def startOf (k : Nat) (d : Dev) : Bool := match d.startable k with
  | some (q, c) => q.cmd == 9 && c.kop == 4 && c.kvar == 2
  | none => false
/-- What an engine loads for the command it may start, and how the work of its first items ends: results, a fault. -/
def worksIn (k : Nat) (d : Dev) : Option (Option (Nat × Nat)) := (d.startable k).bind (fun (q, c) =>
  let r := (kLoad c k).run.run (((d.setEntry k q.cmd (fun x => { x with running := true })).kerbRec 0x20 k c).cleanFor c)
  (okOf r).map (fun ld =>
    let q' := q.started c k ld false 0
    okOf ((kBody c k q' (q'.next c k (stepItems c q'))).run.run (r.2.bump.setEntry k q.cmd (fun _ => q')))))
def at7 (d : Dev) : Dev := { d with kerb := (d.kerb.map (fun (e : KEngine) => { e with queue := [] })).set 7 { svc := .inService, queue := [{ cmd := 9, lane := 2 }] } }

theorem wit_KerbCommandsStart :
    let row := (kerbRows 0 false).map (fun r => r.1)
    let d := queued {} id live
    .kgathTransform 0 false ∈ row ∧ .kscan 0 false ∈ row ∧ startOf 0 d = true ∧ kc.share 0 ≠ [] ∧ worksIn 0 d = some (some (1, 0)) ∧
    startOf 7 (at7 d) = true ∧ kc.share 7 = [] ∧ kc.owned = false ∧
    worksIn 0 (queued {} farK live) = some none ∧ worksIn 0 (queued {} (fun c => { farK c with raw := c.raw.set 0 1 }) live) = none ∧ kc.ctx ≠ 0 ∧ holds (live.ctx kc.ctx) = true := by decide +kernel

/-- `KGATH` gather of all rows, without an index (R154). -/
def gatherK (c : KCmd) : KCmd := { c with raw := bytes ([4, 0, 2, 0] ++ kcmd.drop 4 |>.set 18 1) }
theorem wit_KerbCommandsStart_stores :
    kshapeOk kc = true ∧ (∀ t ∈ kc.tens.filterMap id, t.e 0 ≤ t.a 0) ∧
    (let c := gatherK kc
     c.kvar = 0 ∧ c.kop = 4 ∧ c.f 18 1 = 1 ∧ kshapeOk c = true ∧ (okOf ((kBody c 0 {} [0]).run.run live)).isSome = true) := by decide +kernel

theorem wit_KerbEnginesFinish :
    let run : KEntry := { running := true }
    let d := queued { run with items := 1 } id live
    let p := queued { run with items := 1 } (fun c => { c with raw := bytes (kcmd.take 8 ++ le 2 7 ++ le 2 1 ++ kcmd.drop 12) }) live
    let l := queued run (fun c => { c with left := [0] }) live
    (queued { run with stopped := true } id live).running 0 2 = some ({ run with stopped := true, cmd := 9, lane := 2 }, { kc with id := 9, mi := 77 }) ∧
    ((p.running 0 2).map (fun x => decide (x.1.sent < progressDue 0 x.2 x.1 ∧ p.objVal 1 (x.2.f 8 2 % 2 ^ 14) + 1 ≤ 0xFFFFFFFF)) = some true) ∧
    ((d.running 0 2).map (fun x => decide (x.2.kop ∉ [6, 7] ∧ x.1.sent = progressDue 0 x.2 x.1 ∧ x.2.left.erase 0 ≠ [])) = some true) ∧
    ((l.running 0 2).map (fun x => decide (x.1.sent = progressDue 0 x.2 x.1 ∧ x.2.left.erase 0 = [])) = some true) ∧
    (d.running 0 2).map (fun x => (d.survReady 0 x.1 x.2).2) = some true ∧
    (let z := queued run id live
     (z.running 0 2).map (fun x => !shareDone 0 x.1 x.2 && x.2.chunk == 0
      && (okOf ((kBody x.2 0 x.1 (x.1.next x.2 0 (x.2.share 0).length)).run.run z)).isSome) = some true) ∧
    (let z := queued { run with items := 1 } (fun c => { twoRows c with raw := bytes (kcmd.take 8 ++ le 2 7 ++ le 2 1 ++ kcmd.drop 12) }) live
     (z.running 0 2).map (fun x => !shareDone 0 x.1 x.2 && decide (x.1.sent < progressDue 0 x.2 x.1)
      && (okOf ((kBody x.2 0 x.1 (x.1.next x.2 0 (stepItems x.2 x.1))).run.run z)).isSome) = some true) := by decide +kernel

/-- Firmware's command in engine 7. -/
def scrubbing (c : KCmd) (d : Dev) : Dev := d.startBackground 7 c 3
def job : ScrubJob := { order := 1, addr := svBase 7, count := 3, left := [7] }

theorem wit_KerbBackground :
    let f := { dev with scrub := [job] }
    let t := { dev with scrub := [{ job with test := true }] }
    let p := dev.setEng 7 (fun e => { e with patrol := 5 })
    let c : KCmd := { raw := scrubRaw false (svBase 7) 3, samples := 2 }
    live.maintTime = false ∧
    (f.backgroundFree 7 = true ∧ f.scrub.find? (fun j => !j.test && j.left.contains 7) = some job) ∧
    (p.backgroundFree 7 = true ∧ p.scrub.find? (fun j => !j.test && j.left.contains 7) = none ∧
      Nat.min (Nat.min ((p.eng 7).patrol - (p.eng 7).patrolDone) (2 ^ 24)) (p.perStack / 1024 - (p.eng 7).patrolPos) = 5) ∧
    (t.backgroundFree 7 = true ∧ t.scrub.find? (fun j => j.test && j.left.contains 7) = some { job with test := true }) ∧
    (let d := scrubbing { c with samples := 0 } (slot1 dev)
     (d.background 7).isSome = true ∧ d.maintTime = false ∧ d.scrub.find? (fun j => j.order + 1 == 0) = none) ∧
    (let d := scrubbing c { (slot1 dev) with scrub := [job] }
     (d.background 7).isSome = true ∧ d.maintTime = false ∧ d.scrub.find? (fun j => j.order + 1 == 2) = some job) ∧
    (let d := scrubbing c dev
     (d.running 7 2).map (fun x => x.2.kop) = some 6 ∧ d.maintTime = true ∧
     ({ d with scrub := [{ job with stop := [7] }] } : Dev).scrub.any (fun j => j.order + 1 == c.samples && j.stop.contains 7) = true) := by
  decide +kernel

theorem wit_KerbBackground_page :
    let pg := svBase 0 / 1024
    let d := dev.ioStore (svBase 0) [7] (fun _ => false)
    clearAt (d.stack (stackOfPage pg)) pg = true ∧ d.Healthy pg (List.range 16) := by unfold Dev.Healthy; decide +kernel

theorem wit_LoadsAndTeardownsEnd :
    let c := { loadMsg (svBase 0) 592 with busy := true }
    let d := (put 1 c { (held .empty dev) with placing := [(1, [])] }).dev
    let k := { msg 0x14 [] with busy := true }
    let t := (put 1 k (held .tearingDown dev)).dev
    let f := t.setCtx 1 (fun x => { x with fault := { cls := some .illegal } })
    let w := t.setCtx 1 (fun x => { x with destroyWait := true })
    (d.placing.find? (fun x => x.1 == 1) = some (1, []) ∧ (d.ctx 1).prog = some prog ∧ (d.mbox 1).queue.head? = some c ∧ c.msg = 0x11 ∧
      c.done = none) ∧
    ((f.ctx 1).st = .tearingDown ∧ f.quiet 1 = true ∧ (f.ctx 1).fault.cls ≠ none ∧ (f.ctx 1).destroyWait = false) ∧
    ((w.ctx 1).st = .tearingDown ∧ w.quiet 1 = true ∧ (w.ctx 1).fault.cls = none ∧ (w.ctx 1).destroyWait = true ∧ w.streamsOf 1 = [] ∧
      (w.mbox 1).queue.head? = some k) := by decide +kernel

theorem wit_StacksRefreshAndReport :
    let d := dev.setStack 7 (fun x => { x with tempSeen := true, tempValid := true, refresh := 3, corrTick := 4 })
    let e := { d with mcfg := { d.mcfg with corrWarn := 4 } }
    (d.st ≠ .cold ∧ 7 < d.nStacks ∧ (dev.stack 7).tempSeen = false ∧ (d.stack 7).tempSeen = true ∧ tempCode 50 < (d.stack 7).refresh ∧
      (d.stack 7).low85 < 7 ∧ (d.stack 7).low95 < 7 ∧ (d.stack 7).overLimit = false ∧ (d.stack 7).tempValid = true) ∧
    (e.mcfg.corrWarn ≠ 0 ∧ e.mcfg.corrWarn ≤ (e.stack 7).corrTick ∧ (e.stack 7).corrRaised = false ∧ (e.stack 7).st = 0) := by decide +kernel

def rq (io kerb : Bool) : MemReq := { addr := svBase 0, lines := 1, cls := b2n (!io), io := io, kerb := kerb, core := false, chint := 0, mask := 0, poison := false, damage := [] }

theorem wit_RequestsAndPageLocks :
    let x : Req := (rq false true, [], false)
    let l : PageLock := { page := svBase 0 / 1024, rq := rq false true }
    let lock (l : PageLock) := dev.setStack 0 (fun x => { x with locks := [l] })
    let on (f : Stack → Stack) := dev.setStack 0 f
    let full := on (fun x => { x with ioUsed := 100000 })
    let hit := (dev.fetch { alloc := true, chint := 0, cls := 1 } (svBase 0) 64).2
    let w : WcbEntry := { line := svBase 0 / 64 }
    (isStk (svBase 0) = true ∧ dev.canon (svBase 0) = some (svBase 0) ∧ stkOf (svBase 0) < dev.stk.length ∧
      hit.missLines (rq false false) = [] ∧ dev.missLines (rq false false) ≠ [] ∧ (rq false false).mask ≠ fullMask ∧
      full.ioCap < (full.stack 0).ioUsed + (rq true false).lines ∧
      (on (fun y => { y with ioWait := [x] })).stack 0 = { dev.stack 0 with ioWait := [x] } ∧ sameLine x x = true ∧
      (dev.stack 0).ioUsed + 1 ≤ dev.ioCap ∧ (dev.stack 0).ioWait = [] ∧ (dev.stack 0).ready = [] ∧ (dev.stack 0).cal = none ∧
      ((on (fun y => { y with cal := some (0, 0) })).stack 0).cal.isSome = true ∧ dev.maintTime = true ∧ live.maintTime = false ∧
      (live.stack 0).ready = [] ∧ (dev.stack 0).locks = [] ∧ dev.needsDecode (rq false true) false = false) ∧
    (((lock l).stack 0).locks.any (fun l => l.page == svBase 0 / 1024) = true) ∧
    ((dev.hurt (svBase 0 / 1024) [(0, 5)]).needsDecode (rq false true) false = true) ∧
    (stackOfPage (svBase 0 / 1024) = 0 ∧ ((lock l).stack 0).locks.find? (fun x => x.page == svBase 0 / 1024 && x.phase == 1) = some l ∧
      l.waiting = []) ∧
    (let x := { l with phase := 2, waiting := [(rq false true, [], false)] }
     ((lock x).stack 0).locks.find? (fun x => x.page == svBase 0 / 1024 && x.phase == 2) = some x) ∧
    (∀ k < dev.nStacks, (dev.stack k).ioWait = [] ∧ (dev.stack k).ready = []) ∧
    ((dev.setSq 1 (fun q => { q with wcb := [w] })).square 1).wcb.find? (fun e => e.line == svBase 0 / 64) = some w := by decide +kernel

theorem wit_RequestsAndPageLocks_pages :
    let pg := svBase 0 / 1024
    let e (f : WcbEntry → WcbEntry) : WcbEntry := f { line := svBase 0 / 64 }
    let l : PageLock := { page := pg, rq := rq false true, phase := 1 }
    let c (l : PageLock) := dev.setStack 0 (fun x => { x with locks := [l], cal := some (0, 0) })
    rsDecode 1 20 (syndromes 2 20 [(3, 5)]) = some [(3, 5)] ∧ (syndromes 2 20 [(3, 5)]).length = 2 * 1 ∧
    dev.Healthy pg (reqLines (rq false true)) ∧ clearAt (dev.stack (stackOfPage pg)) pg = true ∧
    dev.Healthy pg (([(0, List.replicate 64 1, true), (15, List.replicate 64 2, false)] : List (Nat × List Byte × Bool)).map Prod.fst) ∧
    (((c l).stack 0).cal.isSome = true ∧ ((c l).stack 0).locks.find? (fun x => x.page == pg && x.phase == 1) = some l) ∧
    (((c { l with phase := 2 }).stack 0).locks.find? (fun x => x.page == pg && x.phase == 2) = some { l with phase := 2 }) ∧
    dev.trace.owed = false ∧ ((e (fun x => { x with mask := fullMask })).mask = fullMask) ∧
    ((e id).mask ≠ fullMask ∧ (e id).rest = none ∧ dev.canon ((e id).line * 64) = some (svBase 0)) ∧
    (e (fun x => { x with rest := some ([], false) })).rest.isSome = true := by unfold Dev.Healthy; decide +kernel

/-! Packets from peer 5, sealed, and a machine that admits it. -/
def pkt (ty : Nat) (payload : List Nat) (f : Packet → Packet) : Packet :=
  (f { Packet.mk0 ty (bytes payload) with srcId := 5, dstId := 0xFFFF }).seal
def arr (p : Packet) : Arrival :=
  { link := 0, v6 := true, addr := 0, mac := 0, dst := 0, port := dev.net.fab.port, ce := false, macsec := none, fecCorr := 0, fecUncorr := 0
    badFcs := false, pkt := p }
/-- The same packet through `taken`, on a part without fuses burned. -/
def took (d : Dev) (a : Arrival) : Bool × Dev := d.taken {} a
def open5 (d : Dev) : Dev := { d with net := { d.net with closed := true, peers := [{ id := 5, v6 := true }] } }
def secured (d : Dev) : Dev := { d with net := { d.net with fab := { d.net.fab with macsecReq := true } } }
def newE (d : Dev) (a : Arrival) : Dev := (took d a).2.synced a.pkt
def isNew (d : Dev) (a : Arrival) : Bool :=
  (took d a).1 && !hadPsn a.pkt ((newE d a).space a.pkt.srcId.toNat)
    && decide (missingBelow a.pkt ((newE d a).space a.pkt.srcId.toNat) < 256)
theorem new_of {d : Dev} {a : Arrival} (h : isNew d a = true) : d.NewPacket {} a (newE d a) := by
  simp only [isNew, Bool.and_eq_true, Bool.not_eq_true', decide_eq_true_eq] at h
  exact ⟨(took d a).2, Prod.ext h.1.1 rfl, rfl, h.1.2, h.2⟩
/-- A mailbox message of sound form (R315), to mailbox 64. -/
def sound : Packet := pkt 1 ([1, 0, 0, 64] ++ le 2 2 ++ zero 58) id

set_option maxRecDepth 100000 in
theorem wit_PacketsAreDropped :
    let a := arr sound
    let down := { dev with net := { dev.net with links := List.replicate 4 {} } }
    let known := { dev with net := { dev.net with spaces := [{ peer := 5, rxNext := 1 }] } }
    let far := arr (pkt 1 [] (fun p => { p with psn := 256 }))
    (.oftMbox a, 1, true) ∈ packetRows a ∧ a.pkt.otype.toNat = 1 ∧ (down.net.links.getD a.link {}).up = false ∧
    (dev.net.links.getD a.link {}).up = true ∧ damaged { a with badFcs := true } = true ∧ damaged { a with fecUncorr := 1 } = true ∧
    ((secured dev).net.fab.macsecReq = true ∧ a.macsec = none) ∧ (ownMac {} { a with dst := 2 }.dst = false) ∧
    { a with port := 0 }.port ≠ dev.net.fab.port ∧
    (let b := { sound with crc := sound.crc + 1 }; dev.Framed {} (arr b) ∧ b.crc ≠ crc32c (b.header ++ b.payload)) ∧
    (let b := (pkt 1 [] (fun p => { p with ver := 2 })); dev.Framed {} (arr b) ∧ b.crc = crc32c (b.header ++ b.payload) ∧ b.ver ≠ 1) ∧
    dev.Sound {} a ∧ a.pkt.dstId = 0xFFFF ∧ dev.admitted a = true ∧
    (let b := arr (pkt 1 [] (fun p => { p with dstId := 7 })); dev.Sound {} b ∧ b.pkt.dstId ≠ dev.net.fab.id) ∧
    (let b := arr (pkt 2 [] id); dev.Sound {} b ∧ dev.admitted b = false) ∧
    ((took known a).1 = true ∧ hadPsn a.pkt ((newE known a).space 5) = true) ∧
    ((took dev far).1 = true ∧ hadPsn far.pkt ((newE dev far).space 5) = false ∧ 256 ≤ missingBelow far.pkt ((newE dev far).space 5)) := by
  unfold Dev.Sound Dev.Framed
  dsimp only
  repeat' apply And.intro
  all_goals decide +kernel

set_option maxRecDepth 100000 in
theorem wit_PacketsDeliver :
    let m := open5 (mapped dev)
    let full := dev.setMbox 64 (fun x => { x with queue := List.replicate 16 {} })
    let w := arr (pkt 2 [1] (fun p => { p with ooff := 4095 }))
    let r := arr (pkt 3 [] (fun p => { p with ooff := 0, ocnt := 4096 }))
    let other := { m with net := { m.net with windows := [(0, { window with peer := 6 })] } }
    (dev.NewPacket {} (arr sound) (newE dev (arr sound)) ∧ dev.fwUp = true ∧ ((newE dev (arr sound)).mbox 64).queue.length < 16) ∧
    (full.NewPacket {} (arr sound) (newE full (arr sound)) ∧ 16 ≤ ((newE full (arr sound)).mbox 64).queue.length) ∧
    (dev.NewPacket {} (arr (pkt 1 [1] id)) (newE dev (arr (pkt 1 [1] id)))) ∧
    (m.NewPacket {} w (newE m w) ∧ (newE m w).window 0 = some window ∧ (newE m w).power.on.getLsbD 52 = true ∧
      w.pkt.ooff.toNat + w.pkt.payload.length = window.size) ∧
    (m.NewPacket {} r (newE m r) ∧ r.pkt.ooff.toNat + r.pkt.ocnt.toNat = window.size) ∧
    (other.NewPacket {} w (newE other w) ∧ (newE other w).window 0 = some { window with peer := 6 }) ∧
    (let d := { m with net := { m.net with windows := [(0, { window with write := false, read := false })] } }
     d.NewPacket {} w (newE d w) ∧ (newE d w).window 0 = some { window with write := false, read := false }) ∧
    (let b := arr (pkt 2 [1, 1] (fun p => { p with ooff := 4095 }))
     m.NewPacket {} b (newE m b) ∧ window.size < b.pkt.ooff.toNat + b.pkt.payload.length) ∧
    ((open5 dev).NewPacket {} w (newE (open5 dev) w) ∧ (newE (open5 dev) w).window 0 = none) ∧
    (let a := arr (pkt 4 [] id); m.NewPacket {} a (newE m a) ∧ (newE m a).net.reads = []) ∧
    (let a := arr (pkt 7 [] id); m.NewPacket {} a (newE m a) ∧ (newE m a).collFrom a = none) ∧
    (let a := arr (pkt 8 [] (fun p => { p with oflags := 0x20 })); m.NewPacket {} a (newE m a) ∧ a.pkt.oflags.getLsbD 5 = true) := by
  refine ⟨⟨new_of (by decide +kernel), by decide +kernel⟩, ⟨new_of (by decide +kernel), by decide +kernel⟩, new_of (by decide +kernel),
    ?_, ?_, ?_, ?_, ?_, ?_, ?_, ?_, ?_⟩
  all_goals exact ⟨new_of (by decide +kernel), by decide +kernel⟩

/-- Peer 5 with every path dead. -/
def cut (d : Dev) : Dev := { open5 d with net := { (open5 d).net with spaces := [{ peer := 5, dead := List.range 8 }] } }
theorem wit_PacketsDeliver_cut :
    let r := arr (pkt 3 [] (fun p => { p with ocnt := 5000 }))
    let e := newE (cut dev) r
    (cut dev).NewPacket {} r e ∧ e.livePaths 5 = [] ∧ (e.space 5).sigs = [] ∧ (e.space 5).rxGot.length < 2 ^ 30 := by
  exact ⟨new_of (by decide +kernel), by decide +kernel⟩

theorem wit_PacketsDeliver_local :
    let w := arr (pkt 2 [1, 2] id)
    (newE (open5 dev) w).Local (sqBase 0) w.pkt.payload.length ∧ w.pkt.poison = 0 := by
  dsimp only
  refine ⟨⟨by decide, by decide +kernel, by decide +kernel, ?_⟩, by decide +kernel⟩
  intro l h1 h2
  have hw : (arr (pkt 2 [1, 2] id)).pkt.payload.length = 2 := by decide +kernel
  rw [hw] at h2
  have h : l = sqBase 0 / 64 := by unfold Dev.sqBase at *; omega
  subst h; decide +kernel

/-- Peer 5 with one packet on the wire, over path 0. -/
def tx (tries : Nat) : TxPkt := { pkt := (Packet.mk0 1 []).seal, tries := tries }
def sending (f : Space → Space) (d : Dev) : Dev :=
  let e := open5 d
  { e with net := { e.net with spaces := [f { peer := 5, sync := false, txPsn := 1, unacked := [tx 1] }] } }

theorem wit_TransportKeepsOrder :
    let d := sending id dev
    let ack (fl : BitVec 8) := arr (pkt 5 [] (fun p => { p with apsn := 1, oflags := fl }))
    let pl := sending (fun x => { x with placing := [{ psn := 3, len := 8 }] }) dev
    (took d (ack 0)).1 = true ∧ (took d (ack 0)).2.trace.dstate ≠ 0 ∧ ((ack 0).pkt.oflags.getLsbD 1 = false ∧
      (ack 2).pkt.oflags.getLsbD 1 = true ∧ (took d (ack 2)).1 = true ∧ ((took d (ack 2)).2.space 5).cutNs = none) ∧
    (took d (arr (pkt 6 [] id))).1 = true ∧ (took d (arr (pkt 9 [] id))).1 = true ∧
    (took d (arr (pkt 9 [] (fun p => { p with ocnt := 1 })))).1 = true ∧
    ((pl.space 5).placing.find? (fun v => v.psn == BitVec.ofNat 32 3) = some { psn := 3, len := 8 }) ∧
    (tx 1).owner ≠ 0x1000 ∧ d.pausedOn 0 (tx 1).pkt = false ∧ (took d (arr (pkt 9 [] id))).2.pausedOn 0 { Packet.mk0 9 [] with ocnt := 1 } = false ∧
    ((sending (fun x => { x with toAck := 1 }) dev).space 5).toAck ≠ 0 ∧
    ((d.space 5).unacked.find? (fun t => t.pkt.psn == BitVec.ofNat 32 0) = some (tx 1) ∧ (tx 1).tries < 16 ∧ d.livePaths 5 ≠ []) ∧
    (((sending (fun x => { x with unacked := [tx 16] }) dev).space 5).unacked.find? (fun t => t.pkt.psn == BitVec.ofNat 32 0) = some (tx 16)) ∧
    ((d.space 5).unacked.filter (fun t => t.path == 0) = [tx 1] ∧ 0 ∉ (d.space 5).dead) ∧
    ((sending (fun x => { x with rate := some 8000 }) dev).space 5).rate = some 8000 ∧
    (let e := sending (fun x => { x with dead := [0] }) dev
     (∃ x, e.net.spaces = [x] ∧ x.dead = [0]) ∧ (e.net.links.getD 0 {}).up = true ∧ e.portOpen 0 = true ∧ e.pausedOn 0 (Packet.mk0 9 []) = false) := by
  dsimp only
  repeat' apply And.intro
  all_goals first
    | decide +kernel
    | exact ⟨_, rfl, rfl⟩

theorem wit_TransportKeepsOrder_lost :
    (cut dev).livePaths 5 = [] ∧ dev.mayDrain { tx 1 with owner := 0x1000 } = true ∧ (sending id dev).livePaths 5 ≠ [] := by decide +kernel

theorem wit_LinksAndNeighbours :
    let tr := { dev with net := { dev.net with links := [{ up := true }, {}, { training := true }, {}], ports := [{ svc := .inService }, {}] } }
    ((dev.net.links.getD 3 {}).up = true ∧ 3 / 2 < dev.net.ports.length) ∧
    (tr.fwUp = true ∧ 2 ∈ tr.portLinks 1 ∧ (tr.net.links.getD 2 {}).training = true ∧ (tr.net.links.getD 2 {}).up = false ∧
      (tr.net.ports.getD 1 {}).svc = .off ∧ tr.domOn 51 = true) ∧
    (dev.portUp 1 = true ∧ dev.net.fab.pfcMask.getLsbD 3 = true ∧ dev.net.fab.pfcMask.getLsbD 7 = false ∧ dev.net.fab.macsecReq = false ∧
      (secured dev).net.fab.macsecReq = true ∧ (secured dev).portUp 1 = true ∧
      ownMac {} 2 = false ∧ (2 : BitVec 48).getLsbD 0 = false ∧ (3 : BitVec 48).getLsbD 0 = true) ∧
    (v6Addr [0xFE, 0x80, 0, 0, 0, 0, 0, 0] 0 ∈ dev.ownAddrs {} 1 true ∧ (1 : BitVec 128) ∉ dev.ownAddrs {} 1 true) ∧
    (dev.net.fab.slaac = true ∧ v6Addr (leBytes 8 1) 0 ∉ (dev.net.ports.getD 1 {}).slaac ∧
      (let d := { dev with net := { dev.net with fab := { dev.net.fab with slaac := false } } }; d.net.fab.slaac = false)) := by
  decide +kernel

/-- A record of an all-gather (R367) of 64-byte chunks. -/
def collRec1 : List Nat := [3, 0, 0, 0, 0, 0] ++ le 2 7 ++ le 8 0 ++ le 8 4096 ++ le 8 0 ++ le 8 64 ++ le 4 1 ++ zero 20
def gathering (r : Option CollRun) : Dev :=
  let d := withBytes (svBase 0) collRec1 (open5 (held .running dev))
  { d with net := { d.net with groups := [(3, { group1 with list := svBase 0, run := r })] } }
def trig (d : Dev) : Dev := d.setCtx 1 (fun c => { c with objs := [(7, 1)] })
def gRun : CollRun := { k := 1, cr := collRec (bytes collRec1) (svBase 0), sent := [0], vis := 64 }

theorem wit_CollectivesRun :
    let d := trig (gathering none)
    let g : Group := { group1 with list := svBase 0 }
    let r := ((d.setCtx 1 (fun c => { c with objs := amod c.objs 7 0 (fun v => v - 1) })).ioFetch (svBase 0) 64)
    let run := gathering (some gRun)
    let rdy (k : Nat) := arr (pkt 8 [] (fun p => { p with obj := 3, ocnt := BitVec.ofNat 32 k }))
    let data := arr (pkt 7 [1] (fun p => { p with obj := 3, ocnt := 1 }))
    let abort := arr (pkt 8 [] (fun p => { p with obj := 3, ocnt := 1, oflags := 0x20 }))
    (aget d.net.groups 3 = some g ∧ d.power.on.getLsbD 52 = true ∧ d.triggered (3, g) = true ∧
      (d.net.groups.filter (fun x => x.2.run.isSome)).length + (d.net.groups.filter (fun x => x.1 < 3 && d.triggered x)).length < 32) ∧
    (holds (d.ctx 1) = true ∧ r.1.2 = [] ∧ r.2.collOk r.1.1 (collRec r.1.1 (svBase 0)) 2 1 1 = true) ∧
    (let b := withBytes (svBase 0) [9] d
     let q := (b.setCtx 1 (fun c => { c with objs := amod c.objs 7 0 (fun v => v - 1) })).ioFetch (svBase 0) 64
     b.triggered (3, g) = true ∧ q.2.collOk q.1.1 (collRec q.1.1 (svBase 0)) 2 1 1 = false) ∧
    (run.NewPacket {} data (newE run data) ∧ ((newE run data).collFrom data).map Prod.snd = some 0) ∧
    (run.NewPacket {} (rdy 1) (newE run (rdy 1)) ∧ (rdy 1).pkt.oflags.getLsbD 5 = false ∧
      run.NewPacket {} (rdy 2) (newE run (rdy 2))) ∧
    (run.NewPacket {} abort (newE run abort) ∧ abort.pkt.oflags.getLsbD 5 = true) ∧
    (gRun.lost = false ∧ run.outstanding 3 5 = false ∧ gRun.vis = expects gRun.cr 2 1 ∧ reduces gRun.cr = false ∧ gRun.cr.cop ≠ 1 ∧
      gRun.cr.doneSo = some 7 ∧ run.objVal 1 7 + gRun.cr.doneN ≤ 0xFFFFFFFF) ∧ run.myIndex g = 1 := by
  refine ⟨by decide +kernel, by decide +kernel, by decide +kernel, ⟨new_of (by decide +kernel), by decide +kernel⟩,
    ⟨new_of (by decide +kernel), by decide +kernel, new_of (by decide +kernel)⟩, ⟨new_of (by decide +kernel), by decide +kernel⟩,
    by decide +kernel, by decide +kernel⟩

theorem wit_CollectivesRun_data :
    let c := collRec (bytes collRec1) (svBase 0)
    let det : CollRun := { k := 1, cr := { c with cop := 2, det := true } }
    let data := arr (pkt 7 [1] (fun p => { p with obj := 3, ocnt := 1 }))
    reduces c = false ∧ data.pkt.ooff.toNat + data.pkt.payload.length ≤ dstBytes c 2 ∧
    ((gathering (some det)).NewPacket {} data (newE (gathering (some det)) data) ∧ reduces det.cr = true ∧ det.cr.det = true ∧
      (aget det.got 0).getD 0 < det.cr.chunk) := by
  exact ⟨by decide +kernel, by decide +kernel, new_of (by decide +kernel), by decide +kernel⟩

/-! Codec frames: a stream that codes at once, one triggered by an object, one that decodes. -/
def trigStream (x : CStream) : CStream := { x with trig := some 7, ctx := 1, fringN := 1 }
def ringDesc : List Nat := zero 8 ++ le 8 0 ++ le 8 0x10000 ++ zero 8 ++ le 4 64 ++ zero 156
def triggering (l : List Nat) (p : Bool) : Dev :=
  (coding trigStream (trig (held .running dev))).ioStore (fringBase 0x200000 16) (bytes l) (fun _ => p)
/-- The descriptor of the ring, with the object taken. -/
def ringRead (d : Dev) : (List Byte × List Nat) × Dev :=
  (d.setCtx 1 (fun c => { c with objs := aset c.objs 7 (BitVec.ofNat 32 (d.objVal 1 7 - 1)) })).ioFetch (fringBase 0x200000 16) 192
def ringEnd (d : Dev) : Dev := (ringRead d).2.setCstream 0 (fun y => { y with fpos := (y.fpos + 1) % 1 })
def framing (j : CodecJob) (f : CStream → CStream) : Dev := (coding f dev).setCodec 0 (fun e => { e with cur := some j })

set_option maxRecDepth 100000 in
theorem wit_CodecFramesRun :
    let t := triggering ringDesc false
    let x := trigStream stream
    let u := triggering (zero 4 ++ [16] ++ zero 187) false
    let q := coding (fun s => { s with queue := [{ tag := 1 }] }) dev
    (t.cstream 0 = some x ∧ x.trig = some 7 ∧ x.detached = false ∧ x.closing = none ∧ t.svcOf 2 0 = .inService ∧
      x.queue.length + x.held.length < 8 ∧ t.objVal 1 7 ≠ 0 ∧ (ringRead t).1.2 = [] ∧
      (∀ k ∈ descChks (ringEnd t) x (ringRead t).1.1, k.1 = true)) ∧
    (u.cstream 0 = some x ∧ u.objVal 1 7 ≠ 0 ∧ (ringRead u).1.2 = [] ∧ ∃ k ∈ descChks (ringEnd u) x (ringRead u).1.1, k.1 = false) ∧
    ((triggering ringDesc true).cstream 0 = some x ∧ (triggering ringDesc true).objVal 1 7 ≠ 0 ∧ (ringRead (triggering ringDesc true)).1.2 ≠ []) ∧
    ((q.codec.getD 0 {}).cur = none ∧ (q.codec.getD 0 {}).svc = .inService ∧ q.nextStream 0 = some 0 ∧
      (q.cstream 0).map (fun s => s.queue.length) = some 1) ∧
    (((framing {} id).setCodec 0 (fun e => { e with cur := none })).cstream 0 = some stream ∧ stream.decode = false) ∧
    (((framing { poison := true } (fun s => { s with decode := true })).setCodec 0 (fun e => { e with cur := none })).cstream 0
      = some { stream with decode := true } ∧ stream.broken = false) ∧
    (((framing {} (fun s => { s with decode := true })).setCodec 0 (fun e => { e with cur := none })).cstream 0
      = some { stream with decode := true } ∧ unusedBufs { stream with decode := true } ≠ []) ∧
    (((framing { key := true } (fun s => { s with gop := 2, owed := true })).setCodec 0 (fun e => { e with cur := none })).cstream 0
      = some { stream with gop := 2, owed := true }) := by
  dsimp only
  refine ⟨?_, ?_, ?_, ?_, ?_, ?_, ?_, ?_⟩ <;> decide +kernel

theorem wit_CodecFramesRun_record : (coding id dev).cstream 0 = some stream ∧ (coding trigStream dev).cstream 0 = some (trigStream stream) ∧
    (trigStream stream).detached = false := by decide +kernel

/-- Readings of a cool part: dies at 50 °C, stacks at 60 °C. -/
def sweep : Sweep :=
  { junction := List.replicate 384 50, droop := List.replicate 32 0, slice := List.replicate 64 50, base := List.replicate 32 50
    stack := List.replicate 8 60, io := List.replicate 24 50, ioDroop := List.replicate 8 0, regTemp := List.replicate 12 50
    railMv := List.replicate 28 800, railCur := List.replicate 28 10 }
/-- Readings of a part that draws `w` W from its first rail. -/
def drawing (w : Nat) : Sweep := { sweep with railMv := 10000 :: List.replicate 27 0, railCur := w :: List.replicate 27 0 }
def warm (i v : Nat) : Sweep := if i == 4 then { sweep with io := sweep.io.set 3 v } else { sweep with junction := sweep.junction.set (192 * i) v }
def powered (f : Power → Power) : State := at' { dev with power := f dev.power }

theorem wit_UnitsAndPower :
    let d := unit 1 0 .draining dev
    let w := { d with kerb := d.kerb.set 0 { svc := .draining, queue := [{ cmd := 9 }] } }
    (d.fitted 1 0 = true ∧ d.svcOf 1 0 = .draining ∧ d.inFlight 1 0 = 0) ∧
    (w.svcOf 1 0 = .draining ∧ w.inFlight 1 0 ≠ 0 ∧ (w.drainInfo 1 0).2 = false) ∧
    (powered (fun p => { p with job := some { ramp := [3, 4] } })).dev.power.job = some { ramp := [3, 4] } ∧
    (let at103 := powered (fun p => { p with cap := 100, sweep := drawing 103 })
     at103.dev.power.cap * 102 < at103.dev.power.sweep.watts * 100 ∧ 100 < (drawing 102).watts ∧ (drawing 102).watts * 100 ≤ 100 * 102 ∧
       sweep.watts ≤ 100) ∧
    dev.st ≠ .cold ∧ (105 < (dev.maskSweep (warm 0 106)).dieMax 0 ∧ (dev.maskSweep sweep).dieMax 0 < 102 ∧ 4 < dev.power.hot.length ∧ dev.dieOn 0 = true ∧ dev.dieThere 4 = true) ∧
    (dev.fwUp = true ∧ dev.power.hot.getD 0 false = false ∧ 3 ∉ dev.power.railBad ∧ dev.railOk 3 0 = false ∧
      (let r := powered (fun p => { p with railBad := [3] }); 3 ∈ r.dev.power.railBad ∧ ∃ v, r.dev.railOk 3 v = true)) ∧
    (State.reset.pins.thermtrip = false ∧ 125 ≤ (warm 4 125).dieMax 4 ∧ 115 ≤ nth { sweep with stack := sweep.stack.set 7 115 }.stack 7) := by
  dsimp only
  repeat' apply And.intro
  all_goals first
    | decide +kernel
    | exact ⟨1800, by decide +kernel⟩

/-- The part in `COLD` with an image in slot A. -/
def flashed : State := { State.reset with otp := fwOtp, flash := { imgA := some fw } }
def checking (f : Boot → Boot) : State := { flashed with dev := { State.reset.dev with st := .fwCheck, boot := f { order := [0, 1] } } }

set_option maxRecDepth 100000 in
theorem wit_StartUp :
    (flashed.dev.st = .cold ∧ flashed.tap.owns = false ∧ flashed.flash.usable = true ∧ flashed.flash.sel.trial = 0 ∧
      flashed.flash.sel.primary = 0 ∧ headerCode flashed.otp (flashed.flash.image 0) = 0) ∧
    (({ State.reset.flash with size := 2 ^ 25 } : Flash).usable = false ∧ headerCode State.reset.otp (State.reset.flash.image 0) ≠ 0 ∧
      headerCode State.reset.otp (State.reset.flash.image 1) ≠ 0) ∧
    ((checking id).dev.st = .fwCheck ∧ (checking id).dev.boot.started = false ∧ (checking id).dev.boot.order = [0, 1] ∧
      (checking id).tap.owns = false ∧ ((checking id).flash.image 0).verified = true ∧
      ((checking id).flash.image 1).verified = false) ∧
    (checking (fun b => { b with started := true })).dev.boot.started = true ∧
    (let t := dev.setStack 7 (fun x => { x with st := 1 })
     t.fwUp = true ∧ 7 < t.nStacks ∧ (t.stack 7).st = 1 ∧ 7 < t.stk.length ∧ t.trace.cfg.tclass = 0) ∧
    (dev.fwUp = true ∧ 1 < dev.nDies ∧ (dev.square 1).bist = false ∧ 1 < dev.sq.length) ∧
    (let c := { dev with clusters := dev.clusters.set 31 { bist := true } }; 31 < c.nClusters ∧ (c.cluster 31).bist = true) ∧
    (let r := { dev with st := .reduced, slots := { dev.slots with window := true } }
     (∀ k < r.nStacks, (r.stack k).st = 0) ∧ (∀ i < r.nClusters, (r.cluster i).tested = true) ∧ r.executing = 0 ∧
       r.now + 20000 ≤ r.tu.startNs + r.tu.cfg.maint) := by
  decide +kernel

theorem wit_StartUp_late :
    let s := checking (fun b => { b with started := true, startNs := 5 })
    s.dev.now ≤ s.dev.boot.startNs + 1000000000 ∧ s.dev.boot.startNs + 1000000000 < { s.dev with now := 1000000006 }.now := by decide +kernel

def burning (m : Nat) (f : Dev → Dev) : State := put 0 { msg m [] with busy := true } (f dev)

set_option maxRecDepth 100000 in
theorem wit_FlashAndFuses :
    let s := burning 0xB0 (fun d => { d with staging := some fw })
    let r := burning 0x90 (fun d => { d with burn := some (some { stack := 7 }, 0) })
    let n := burning 0xB1 (fun d => { d with burn := some (none, 1) })
    ((s.dev.mbox 0).queue.head? = some { msg 0xB0 [] with busy := true } ∧ s.dev.staging = some fw ∧ s.flash.present = true) ∧
    ((r.dev.mbox 0).queue.head? = some { msg 0x90 [] with busy := true } ∧ r.dev.burn = some (some { stack := 7 }, 0)) ∧
    ((n.dev.mbox 0).queue.head? = some { msg 0xB1 [] with busy := true } ∧ n.dev.burn = some (none, 1) ∧ n.otp.rollback ≤ 1) := by
  decide +kernel

theorem wit_I3cTargetAnswers :
    dev.i3cOn = true ∧ dev.i3c.addr = none ∧ { dev with i3c := { dev.i3c with addr := some 9 } }.i3cOn = true ∧
    { dev with boot := { strapI3c := true } }.i3cOn = false ∧ { dev with i3c := { mute := true } }.i3cOn = false ∧
    State.reset.dev.i3cOn = false ∧ dev.dieOn 0 = true ∧ State.reset.dev.dieOn 0 = false ∧ dev.i3c.sensors.length = 20 := by decide +kernel

theorem wit_TestAccessPort :
    let o := { at' dev with tap := { owns := true, ir := 0x05 } }
    let l := { at' dev with otp := { lock := 2 } }
    let z := { at' dev with otp := { lock := 0 } }
    (at' dev).tap.owns = false ∧ o.tap.owns = true ∧ o.tap.ir ∈ [(0x00 : Byte), 0x05, 0x06] ∧ l.otp.lock ≠ 0 ∧ z.otp.lock = 0 ∧
    extestAllowed l = false ∧ extestAllowed z = true ∧ extestAllowed o = true ∧
    extestAllowed { l with dev := { l.dev with boot := { strapBoot := true } } } = true ∧ State.reset.dev.st = .cold ∧ State.reset.tap.owns = false ∧
    (o.tap.ir ≠ 0x01 ∧ { o.tap with ir := 0x01 }.ir = 0x01) := by decide +kernel

theorem wit_EventsAndFaults :
    let d := dev.setMbox 0 (fun m => { m with sub := some 5 })
    ((d.mbox 0).sub = some 5 ∧ (d.mbox 0).events.length < 64 ∧ 0 < d.mboxes.length) ∧
    holds ((held .running dev).ctx 1) = true ∧ holds (dev.ctx 1) = false ∧
    ((held .running dev).objVal 1 7 + 0xFFFFFFFF ≤ 0xFFFFFFFF ∧ 0xFFFFFFFF < (trig (held .running dev)).objVal 1 7 + 0xFFFFFFFF) := by
  decide +kernel

theorem wit_StepRunsTheFront :
    let hot (n : Nat) := at' { dev with now := n, power := { dev.power with thermtripNs := some 5 } }
    { State.reset with pending := [.idcode, .tapReset] }.pending = .idcode :: [.tapReset] ∧ State.reset.pending = [] ∧
    State.reset.dev.power.thermtripNs = none ∧ (hot 10000005).dev.now ≤ 5 + 10000000 ∧ 5 + 10000000 < (hot 10000006).dev.now := by decide +kernel

theorem wit_ResetTick :
    State.reset.dev.slots.table = [] ∧ State.reset.dev.tu.pend = none ∧ State.reset.dev.slots.pend = none ∧
    (∃ t, exec .tickBoundary (at' dev) = .next t) ∧ (∃ t, exec .maintWindowEnd (at' dev) = .next t) ∧
    (∃ t, exec .swapComplete (at' dev) = .next t) ∧ dev.slots.table = [] := by
  exact ⟨by decide, by decide, by decide, ⟨_, rfl⟩, ⟨_, rfl⟩, ⟨_, rfl⟩, by decide +kernel⟩

/-- A step that burns a fuse, and one that idles. -/
theorem wit_FusesOnlyBurn :
    let s := { burning 0xB1 (fun d => { d with burn := some (none, 1) }) with pending := [.fuseBurnComplete true] }
    (∃ t, step s = .next t ∧ t.otp = { s.otp with rollback := 1 }) ∧ ∃ t, step State.reset = .next t :=
  ⟨⟨_, rfl, by decide +kernel⟩, _, rfl⟩

set_option maxRecDepth 100000 in
/-- A staging that changes an image, a port command that changes the port, a command that does neither. -/
theorem wit_PortAndImagesAreTheirOwn :
    let s := { burning 0xB0 (fun d => { d with staging := some fw }) with pending := [.stagingComplete true] }
    (∃ t, step s = .next t ∧ t.flash.imgB = some fw) ∧ isTap (.stagingComplete true) = false ∧
    (∃ t, step { State.reset with pending := [.bypass 0xFF] } = .next t ∧ t.tap.ir = 0xFF) ∧ writesImages (.bypass 0xFF) = false ∧
    ∃ t, step { State.reset with pending := [.tickBoundary] } = .next t :=
  ⟨⟨_, rfl, by decide +kernel⟩, rfl, ⟨_, rfl, by decide +kernel⟩, rfl, _, rfl⟩

/-! WellFormed refuses an ill-formed term for each of its checks; the greatest term within a bound is taken. -/

/-- Each command of a list takes the operand `n - 1` and refuses `n`. -/
def bound (n : Nat) (l : List (Nat → Instr)) : Bool := l.all (fun f => (f (n - 1)).wf && !(f n).wf)

theorem test_wf_mailboxes :
    bound 65 [.mbDevQuery, .mbDevState, .mbCtxCreate, .mbCtxLoad, .mbCtxStart, .ctxStopAtBoundary, .ctxStopAtEnd,
    .mbCtxDestroy, .mbCtxStatus, .mbTickConfig, .tickReacquire, .mbSlotTable, .mbBoundWrite, .mbSqConfig,
    .setStrength, .setLocalGib, .setIoPct, .setCorrWarn, .memMapWindow, .memUnmapWindow, .mbFabricId,
    .fabricLinkSettings, .macsecInstallKey, .fabricRecordFlash, .peerAdd, .peerRemove, .peerRemoveAll, .groupSet,
    .groupClear, .traceSet, .traceStop, .mbCounterRead, .portStatusRead, .corrLogRead, .coreCounterRead, .mbEventAck,
    .mbDomainSet, .powerCapSet, .unitDisable, .unitReturnToService, .mbUnitFence, .mbRepairCommit, .scrubSetPatrol,
    .scrubRange, .trafficTest, .scrubStop, .attestQuote, .attestCertChunk, .mbFwStage, .fwActivateTrial,
    .fwActivateReset, .fwCommit, .fwCancelTrial, .mbCodecStreamOpen, .mbCodecFrame, .codecCloseDrain,
    .codecCloseDiscard, .imagePlacementComplete] = true := by decide

theorem test_wf_streams :
    bound 32 [.matmul, .attend, .convDense, .convDepthwiseDiagonal, .convSpaceToChannel, .poolMax, .poolAverage,
    .poolChannelArgmax, .vopCopyConvert, .vopAdd, .vopSubtract, .vopMultiply, .vopFma, .vopScaleOffset, .vopMax,
    .vopMin, .vopSelect, .vopAbsoluteValue, .vopClamp, .vopRowSum, .vopRowMax, .vopRowMin, .sfnReciprocal, .sfnRsqrt,
    .sfnSqrt, .sfnExp2, .sfnLog2, .sfnSine, .sfnCosine, .sfnSigmoid, .sfnTanh, .sfnSilu, .sfnGelu, .sfnLookup,
    .normst, .normap, .rope, .quant, .moveCopy, .moveMulticast, .moveBoundLoad, .moveBoundSet, .pref, .krb,
    .syncWaitAll, .syncAdd, .syncSet, .loopMi, .markBegin, .markEnd, .markPoint, .haltMi, .issueWaitSatisfied,
    .lutReloadHoldRelease, .krbDeliveryResume, .streamYield, fun n => .miComplete n 0] = true := by decide

theorem test_wf_stacks :
    bound 8 [.kscrub, .calibrationStepDone, .stackTempNoReading, .memCorrRate, .stackTrainingLost,
    fun n => .kscan n false, fun n => .kredStatistics n false, fun n => .kredCombine n false,
    fun n => .kredOrderedSum n false, fun n => .kredOrderedMax n false, fun n => .kstream n false,
    fun n => .kgathGather n false, fun n => .kgathScatter n false, fun n => .kgathTransform n false,
    fun n => .kgathFill n false, fun n => .ksurv n false, fun n => .ktraf n [], fun n => .stackTempReading n 0,
    fun n => .stackTrainingDone n false, fun n => .kerbProgress n 2, fun n => .kerbEngineComplete n 2,
    fun n => .kerbCommandStop n 2, fun n => .calibrationStepStart n 6, fun n => .calibrationForced n 6,
    fun n => .refreshIssue n 63 63, fun n => .refreshManagementRequest n 63 63] = true := by decide

theorem test_wf_fields_of_a_stack :
    bound 3 [.kerbProgress 7, .kerbEngineComplete 7, .kerbCommandStop 7] = true ∧ bound 7 [.calibrationStepStart 7,
    .calibrationForced 7] = true ∧ bound 64 [.refreshIssue 7 63, .refreshManagementRequest 7 63,
    fun n => .refreshIssue 7 n 63, fun n => .refreshManagementRequest 7 n 63] = true := by decide

theorem test_wf_cores_and_units :
    bound 384 [.haloWaitSatisfied,
    fun n => .tileComplete n []] = true ∧ bound 40 [.ctabReloadHoldRelease] = true ∧ bound 9 [fun n => .backgroundStop n 0] = true ∧ bound 65 [.ctxStalled,
    .teardownComplete] = true ∧ bound 2 [fun n => .wcbIdleDrain n 0, fun n => .squareBistDone n 0, .codecFrameStart,
    .codecFrameDone] = true ∧ bound 32 [fun n => .clusterBistDone n true, .unitDrainComplete 6,
    .drainTimeout 6] = true ∧ bound 7 [fun n => .unitDrainComplete n 31,
    fun n => .drainTimeout n 31] = true ∧ bound 65536 [.codecTrigger] = true := by decide

theorem test_wf_fabric :
    bound 2 [.ptpSlaveAcquired, .ptpSlaveLost, fun n => .ptpMessage n 0 false,
    fun n => .slaacRouterAdvertisement ⟨n, 0, false⟩ 0 false, fun n => .pfcFrame n 7 false false,
    fun n => .neighbourRequest ⟨n, 0, false⟩ true 0 0] = true ∧ bound 8 [fun n => .pfcFrame 1 n false false,
    .pathAckTimeout 65535] = true ∧ bound 4 [.linkDown, .linkUp] = true ∧ bound 256 [.collTrigger,
    .collComplete] = true ∧ bound 65536 [.ackDelayTimer, .ecnRateIncrease, fun n => .pathAckTimeout n 7,
    fun n => .oftPlacementVisible n 4294967295,
    fun n => .retransmitTimeout n 4294967295] = true ∧ bound 4294967296 [.oftPlacementVisible 65535,
    .retransmitTimeout 65535] = true := by decide

theorem test_wf_arrivals :
    ([.oftMbox, .oftWrite, .oftReadReq, .oftReadResp, .oftAck, .oftNak, .oftCollData, .collCtrlReady, .collCtrlAbort, .oftProbe]
      : List (Arrival → Instr)).all (fun f => (f (arr sound)).wf && !(f { arr sound with link := 4 }).wf) = true ∧
    (arr { sound with payload := List.replicate 8192 0 }).wf = true ∧ (arr { sound with payload := List.replicate 8193 0 }).wf = false := by
  decide +kernel

/-- Each changes a well-formed request into one that a check refuses. -/
def badRequests : List (MemReq → MemReq) :=
  [fun r => { r with addr := r.addr + 1 }, fun r => { r with lines := 0 }, fun r => { r with addr := r.addr + 960, lines := 2 },
   fun r => { r with cls := 3 }, fun r => { r with io := true, cls := 1 }, fun r => { r with io := true, kerb := true }, fun r => { r with chint := 3 }, fun r => { r with damage := [(909, 1)] }, fun r => { r with damage := [(0, 1024)] }]
theorem test_wf_requests :
    (Instr.stackedReadRequest (rq false false)).wf = true ∧ (Instr.stackedWriteRequest (rq false false) []).wf = true ∧
    badRequests.all (fun f => !(Instr.stackedReadRequest (f (rq false false))).wf && !(Instr.stackedWriteRequest (f (rq false false)) []).wf)
      = true := by decide +kernel

/-- Each drops a reading from a sweep. -/
def badSweeps : List (Sweep → Sweep) :=
  [fun r => { r with junction := r.junction.tail }, fun r => { r with droop := r.droop.tail }, fun r => { r with slice := r.slice.tail },
   fun r => { r with base := r.base.tail }, fun r => { r with io := r.io.tail }, fun r => { r with ioDroop := r.ioDroop.tail },
   fun r => { r with regTemp := r.regTemp.tail }, fun r => { r with stack := r.stack.tail }, fun r => { r with railMv := r.railMv.tail },
   fun r => { r with railCur := r.railCur.tail }]
theorem test_wf_sweeps :
    ([.telemetrySweep, .thermtripAssert, .i3cStatusRefresh] : List (Sweep → Instr)).all (fun f =>
      (f sweep).wf && badSweeps.all (fun g => !(f (g sweep)).wf)) = true := by decide +kernel

/-! Values worked out from the spec by hand. -/

/-- No row of the operation table has bits. -/
theorem test_no_row_has_bits : decodeTableWord 32 0 = none ∧ (State.reset.withFetchWord 32 0) = State.reset := by decide +kernel

/-- R5 to R7: the words of the parts; a scheduler's reading of the OVN-9460 (worked case of 00). -/
theorem test_capability_words : Part.ovn9460.caps.toNat = 0x0000FFFF07F03C3D ∧ bits Part.ovn9460.caps.toNat 9 2 = 0x0F ∧
    bits Part.ovn9460.caps.toNat 19 18 = 0 ∧ bits Part.ovn9460.caps.toNat 63 32 = 0xFFFF := by decide +kernel

/-- R291: the quick test of the line check. -/
theorem test_line_crc : crc16 0xFFFF#16 (bytes [0x31, 0x32, 0x33, 0x34, 0x35, 0x36, 0x37, 0x38, 0x39]) = 0x29B1#16 := by decide +kernel

/-- R288: the worked case's line stands in stack 1; its alias is its key. -/
theorem test_span_decodes : dev.canon 0x12345640 = some 0x101002468640 ∧ (dev.rawOf 0x101002468640).1 = 41 := by decide +kernel

/-- R283, R284: strength 2 leaves 358 GiB, of which the wide span holds 326. -/
theorem test_usable_memory : dev.usable = 358 * 2 ^ 30 ∧ dev.wideEnd = 326 * 2 ^ 30 := by decide +kernel

/-- R199: the reciprocal of 3. -/
theorem test_reciprocal_of_3 : Fmt.fp32.encode .ne (SfnP.native.recip (FV.ofNat 3)) = 0x3EAAAAAB := by decide +kernel

/-- R165, R180: the elements of the worked block under the scale 2⁻⁶. -/
theorem test_mx_elements :
    let q (n : Int) (d : Nat) : FV := divx (FV.ofInt n) (FV.ofNat d)
    Fmt.e2m1.encode .ne (rne32 (q 5978 1000)) = 7 ∧ Fmt.e2m1.encode .ne (rne32 (q 2573 1000)) = 5 ∧
    Fmt.e2m1.encode .ne (rne32 (q (-1088) 1000)) = 0xA ∧ Fmt.fp16.encode .ne (q 325 100) = 0x4280 := by decide +kernel

/-- R383, R385: the pool and the region entry of the preview frame. -/
theorem test_codec_sizes : poolBytes 640 352 8 = 385024 ∧ bits 0x1A080780C0A 8 0 = 10 ∧ bits 0x1A080780C0A 17 9 = 6 ∧
    bits 0x1A080780C0A 26 18 = 30 ∧ bits 0x1A080780C0A 35 27 = 16 ∧ sgn 5 (bits 0x1A080780C0A 40 36) = -6 := by decide +kernel

/-- R13, R24: a tick of 24 frames/s has a default window of 625 µs. -/
theorem test_default_window : (msg 0x20 (le 4 41666667 ++ zero 20)).tickCfg.maint = 625000 := by decide +kernel

/-- R315, R319, R325: the response to a query carries `KIND` 1, the message's code and 64 payload bytes, `STATUS` 0. -/
theorem test_query_answer : ((nextOf (.mbDevQuery 0) (put 0 (msg 1 []) dev).dev).sentTo 5).map (fun b =>
    (fld b 0 2, fld b 2 1, fld b 4 2, fld b 8 2, fld b 10 2, b.length)) = [(1, 1, 1, 64, 0, 128)] := by decide +kernel

/-- R94: `SYNC` adds to its object, and `HALT` ends the stream's program. -/
theorem test_sync_adds : (nextOf (.syncAdd 0) (atMi (syncMi 1 3))).objVal 1 7 = 3 := by decide +kernel
theorem test_halt_halts : (((nextOf (.haltMi 0) (atMi haltMi)).ctx 1).streams.getD 0 {}).halted = true := by decide +kernel

end Sys2Proof.Tests
end

/-! The tick and slot plan (R30, R31, R35): what keeps the configuration and the slot table, in force and pending, and makes no
context run. `Steady` is the relation, with one lemma per operation of a boundary, of the trace drain and of a swap. -/

namespace Sys2Proof.Machine
namespace Dev

/-- The tick configuration and the slot table, in force and pending (R30, R36). -/
def plan (d : Dev) : (TickCfg × Option TickCfg) × List SlotEntry × Option (List SlotEntry) :=
  ((d.tu.cfg, d.tu.pend), d.slots.table, d.slots.pend)

/-- `t` has the plan of `d`, and every context that runs in it ran before. -/
structure Steady (d t : Dev) : Prop where
  plan : t.plan = d.plan
  runs : ∀ i, (t.ctx i).st = .running → (d.ctx i).st = .running

theorem Steady.refl (d : Dev) : Steady d d := ⟨rfl, fun _ h => h⟩

theorem Steady.trans {d t u : Dev} (h : Steady d t) (g : Steady t u) : Steady d u :=
  ⟨g.plan.trans h.plan, fun i hi => h.runs i (g.runs i hi)⟩

/-- A fold that carries the machine within what it builds: where `π` finds it there. -/
theorem Steady.foldl_at {α β : Type} (π : β → Dev) (l : List α) (f : β → α → β) (h : ∀ p a, Steady (π p) (π (f p a)))
    (p : β) : Steady (π p) (π (l.foldl f p)) := by
  induction l generalizing p with
  | nil => exact .refl _
  | cons a l ih => exact (h p a).trans (ih _)

theorem Steady.foldl_snd {α β : Type} (l : List α) (f : β × Dev → α → β × Dev) (h : ∀ p a, Steady p.2 (f p a).2)
    (p : β × Dev) : Steady p.2 (l.foldl f p).2 := Steady.foldl_at Prod.snd l f h p

theorem Steady.foldl_snd_snd {α β γ : Type} (l : List α) (f : β × γ × Dev → α → β × γ × Dev)
    (h : ∀ p a, Steady p.2.2 (f p a).2.2) (p : β × γ × Dev) : Steady p.2.2 (l.foldl f p).2.2 :=
  Steady.foldl_at (fun p => p.2.2) l f h p

theorem Steady.foldl {α : Type} (l : List α) (f : Dev → α → Dev) (h : ∀ d a, Steady d (f d a)) (d : Dev) :
    Steady d (l.foldl f d) := Steady.foldl_at id l f h d

theorem Steady.ite {c : Prop} [Decidable c] {d t u : Dev} (h : Steady d t) (g : Steady d u) : Steady d (if c then t else u) := by
  split
  · exact h
  · exact g

theorem Steady.ite_snd {c : Prop} [Decidable c] {α : Type} {d : Dev} {p q : α × Dev} (h : Steady d p.2) (g : Steady d q.2) :
    Steady d (if c then p else q).2 := by
  split
  · exact h
  · exact g

/-- What moves neither the plan nor the contexts is steady. -/
theorem Steady.of_ctxs {d t : Dev} (hp : t.plan = d.plan) (hc : t.ctxs = d.ctxs) : Steady d t :=
  ⟨hp, fun i h => by unfold ctx at h ⊢; rwa [hc] at h⟩

theorem Stirred.steady {d t : Dev} (h : Stirred d t) : Steady d t := by
  have htu : t.still.tu = d.still.tu := by rw [h.still]
  have hsl : t.still.slots = d.still.slots := by rw [h.still]
  have hcx : t.still.ctxs = d.still.ctxs := by rw [h.still]
  refine .of_ctxs ?_ hcx
  change t.tu = d.tu at htu
  change t.slots = d.slots at hsl
  unfold plan
  rw [htu, hsl]

theorem Noted.steady {d t : Dev} (h : Noted d t) : Steady d t := h.stirred.steady

theorem Traffic.steady {mb : Nat} {d t : Dev} (h : Traffic mb d t) : Steady d t := by
  obtain ⟨ms, sp, w, c, rfl⟩ := h.same
  exact .of_ctxs rfl rfl

/-- A context rewritten does not begin to run where its new value runs only if the old one did. -/
theorem setCtx_steady (i : Nat) (f : Ctx → Ctx) (d : Dev) (hf : (f (d.ctx i)).st = .running → (d.ctx i).st = .running) :
    Steady d (d.setCtx i f) := by
  refine ⟨by unfold plan; simp, fun k hk => ?_⟩
  rw [ctx_setCtx] at hk
  split at hk
  next h => obtain ⟨rfl, -⟩ := h; exact hf hk
  · exact hk

theorem setStack_steady (s : Nat) (f : Stack → Stack) (d : Dev) : Steady d (d.setStack s f) := .of_ctxs rfl rfl
theorem setSq_steady (i : Nat) (f : Square → Square) (d : Dev) : Steady d (d.setSq i f) := .of_ctxs rfl rfl
theorem setSpace_steady (s : Space) (d : Dev) : Steady d (d.setSpace s) := .of_ctxs rfl rfl
theorem upTo_steady (n : Nat) (d : Dev) : Steady d (d.upTo n) := .of_ctxs rfl rfl
theorem setStaged_steady (l : List Staged) (d : Dev) : Steady d { d with staged := l } := .of_ctxs rfl rfl

/-! Stacks, pages and the home cache (R108 to R116, R293 to R303). -/

theorem noteAll_steady (ns : List Note) (d : Dev) : Steady d (d.noteAll ns) := by
  refine Steady.foldl _ _ (fun d n => ?_) d
  dsimp only
  refine (noted_stirred n d).steady.trans ?_
  split
  · exact (raise_noted ..).steady
  · exact .refl _

theorem readPage_steady (cls pg : Nat) (ls : List Nat) (d : Dev) : Steady d (d.readPage cls pg ls).2 :=
  (readPage_stirred ..).steady

theorem writePage_noteAll_steady (cls pg : Nat) (ws : List (Nat × List Byte × Bool)) (d : Dev) :
    Steady d ((d.writePage cls pg ws).2.noteAll (d.writePage cls pg ws).1) :=
  (writePage_stirred ..).steady.trans (noteAll_steady ..)

theorem meetLine_steady (a : Nat) (d : Dev) : Steady d (d.meetLine a) := (meetWords_stirred ..).steady
theorem meetWrite_steady (a : Nat) (m : BitVec 64) (d : Dev) : Steady d (d.meetWrite a m) := (meetWrite_stirred ..).steady

theorem hitLine_steady (keep : Bool) (k a : Nat) (d : Dev) : Steady d (d.hitLine keep k a).2 :=
  (meetLine_steady ..).trans (touch_stirred ..).steady

/-- Lines of hits read one after the other. -/
theorem hitLines_steady (keep : Bool) (k : Nat) (at' : Nat → Nat) (ls : List Nat) (p : AMap (List Byte × Bool) × Dev) :
    Steady p.2 (ls.foldl (fun st i => ((i, (st.2.hitLine keep k (at' i)).1) :: st.1, (st.2.hitLine keep k (at' i)).2)) p).2 := by
  refine Steady.foldl_snd _ _ (fun p i => ?_) p
  exact hitLine_steady ..

theorem rawRead_steady (rq : MemReq) (d : Dev) : Steady d (d.rawRead rq).2 := by
  unfold rawRead
  dsimp only
  refine Steady.trans ?_ (noteAll_steady ..)
  exact Steady.trans (hitLines_steady _ _ _ _ ([], d)) (Steady.ite_snd (.refl _) (readPage_steady ..))

theorem rawWrite_steady (rq : MemReq) (data : List Byte) (d : Dev) : Steady d (d.rawWrite rq data) := by
  unfold rawWrite
  dsimp only
  split
  · exact ((readPage_steady ..).trans (noteAll_steady ..)).trans (writePage_noteAll_steady ..)
  · exact writePage_noteAll_steady ..

theorem nextDecode_steady (s : Nat) (kerb : Bool) (d : Dev) : Steady d (d.nextDecode s kerb) := by
  unfold nextDecode
  split
  · exact .refl d
  · exact setStack_steady ..

theorem calDone_steady (s : Nat) (d : Dev) : Steady d (d.calDone s) := by
  unfold calDone
  split
  · exact .refl d
  · exact (upTo_steady ..).trans (setStack_steady ..)

theorem settleRaw_steady (pg : Nat) (d : Dev) : Steady d (d.settleRaw pg).2 := by
  unfold settleRaw
  dsimp only
  split
  · exact .refl d
  refine Steady.trans ?_ (Steady.foldl_snd _ _ (fun p x => ?_) ([], _))
  · exact ((calDone_steady ..).trans (setStack_steady ..)).trans (Steady.foldl _ _ (fun d l => nextDecode_steady ..) _)
  · exact Steady.ite_snd (rawWrite_steady ..) (rawRead_steady ..)

theorem give_steady (rq : MemReq) (vs : List (List Byte × Bool)) (d : Dev) : Steady d (d.give rq vs) := .of_ctxs rfl rfl

theorem settleEvict_steady (pg : Nat) (d : Dev) : Steady d (d.settleEvict pg) :=
  (settleRaw_steady ..).trans (Steady.foldl _ _ (fun _ _ => give_steady ..) _)

theorem writeBack_steady (die : Nat) (b : CacheBlock) (d : Dev) : Steady d (d.writeBack die b) := by
  unfold writeBack
  dsimp only
  split
  · exact .refl d
  refine (Steady.foldl _ _ (fun _ _ => meetLine_steady ..) d).trans (Steady.foldl _ _ (fun d i => ?_) _)
  split
  · exact .refl d
  split
  · exact .refl d
  · exact (settleEvict_steady ..).trans (writePage_noteAll_steady ..)

theorem dropBlock_steady (die blk : Nat) (d : Dev) : Steady d (d.dropBlock die blk) := by
  unfold dropBlock
  dsimp only
  refine Steady.trans ?_ (setSq_steady ..)
  exact Steady.ite (.refl d) (.of_ctxs rfl rfl)

theorem flushBlock_steady (die : Nat) (b : CacheBlock) (d : Dev) : Steady d (d.flushBlock die b) :=
  (writeBack_steady ..).trans (dropBlock_steady ..)

theorem putCached_steady (die a : Nat) (bs : List Byte) (poison : Bool) (d : Dev) : Steady d (d.putCached die a bs poison) :=
  setSq_steady ..

theorem install_steady (die a : Nat) (bs : List Byte) (poison dirty front : Bool) (d : Dev) :
    Steady d (d.install die a bs poison dirty front) := by
  unfold install
  dsimp only
  split
  · exact (setSq_steady ..).trans (putCached_steady ..)
  refine Steady.trans ?_ ((setSq_steady ..).trans (putCached_steady ..))
  split
  · split
    · exact flushBlock_steady ..
    · exact .refl d
  · exact .refl d

theorem handOver_steady (rq : MemReq) (vs : List (List Byte × Bool)) (d : Dev) : Steady d (d.handOver rq vs) := by
  unfold handOver
  dsimp only
  refine (give_steady rq vs d).trans (Steady.ite (.refl _) (Steady.foldl _ _ (fun d x => ?_) _))
  exact Steady.ite (.refl d) (install_steady ..)

theorem settlePage_steady (pg : Nat) (d : Dev) : Steady d (d.settlePage pg) := by
  unfold settlePage
  exact Steady.ite (.refl d) ((settleRaw_steady ..).trans (Steady.foldl _ _ (fun _ _ => handOver_steady ..) _))

theorem dramReadPage_steady (cls pg : Nat) (ls : List Nat) (d : Dev) : Steady d (d.dramReadPage cls pg ls).2 :=
  ((settlePage_steady ..).trans (readPage_steady ..)).trans (noteAll_steady ..)

theorem dramWritePage_steady (cls pg : Nat) (ws : List (Nat × List Byte × Bool)) (d : Dev) :
    Steady d (d.dramWritePage cls pg ws) :=
  (settlePage_steady ..).trans (writePage_noteAll_steady ..)

theorem dramWrite_steady (cls k : Nat) (bs : List Byte) (poison : Bool) (d : Dev) : Steady d (d.dramWrite cls k bs poison) :=
  dramWritePage_steady ..

theorem chargeIo_steady (acc : Access) (s n : Nat) (d : Dev) : Steady d (d.chargeIo acc s n) :=
  Steady.ite (setStack_steady ..) (.refl d)

theorem metered_steady (core ev n : Nat) (d : Dev) : Steady d (d.metered core ev n) :=
  Steady.ite (.refl d) (.of_ctxs rfl rfl)

theorem setAhead_steady (die : Nat) (as : List Nat) (v : Bool) (d : Dev) : Steady d (d.setAhead die as v) :=
  Steady.ite (.refl d) (setSq_steady ..)

/-! Bytes read and written by a master. -/

theorem fetchLines_steady (acc : Access) (as : List Nat) (d : Dev) : Steady d (d.fetchLines acc as).2 := by
  unfold fetchLines
  dsimp only
  split
  · exact .refl d
  split
  · exact (Steady.foldl _ _ (fun d a => meetLine_steady a d) d).trans (metered_steady ..)
  dsimp only
  refine Steady.trans ?_ (Steady.ite_snd (.refl _) ?_)
  · refine Steady.trans ?_ (hitLines_steady _ _ _ _ ([], _))
    refine Steady.trans (Steady.ite (.refl d) ?_) (setAhead_steady ..)
    exact (((metered_steady ..).trans (metered_steady ..)).trans (metered_steady ..)).trans (metered_steady ..)
  · refine ((chargeIo_steady ..).trans (dramReadPage_steady ..)).trans (Steady.ite ?_ (.refl _))
    exact Steady.foldl _ _ (fun _ _ => install_steady ..) _

theorem fetchStaged_steady (acc : Access) (as : List Nat) (d : Dev) : Steady d (d.fetchStaged acc as).2 := by
  unfold fetchStaged
  dsimp only
  split
  · exact fetchLines_steady ..
  dsimp only
  refine Steady.trans ?_ (Steady.ite_snd (.refl _) (fetchLines_steady ..))
  exact (setStaged_steady ..).trans (metered_steady ..)

theorem fetch_steady (acc : Access) (a n : Nat) (d : Dev) : Steady d (d.fetch acc a n).2 :=
  (metered_steady ..).trans (Steady.foldl_snd_snd _ _ (fun _ _ => fetchStaged_steady ..) ([], [], _))

/-- The granules that a write marks are no state of their context. -/
theorem noteScratch_steady (k : Nat) (d : Dev) : Steady d (d.noteScratch k) := by
  unfold noteScratch
  split
  · dsimp only
    exact Steady.ite (setCtx_steady _ _ d id) (.refl d)
  · exact .refl d

theorem storeLine_steady (k : Nat) (bs : List Byte) (poison : Bool) (d : Dev) : Steady d (d.storeLine k bs poison) :=
  .of_ctxs rfl rfl

theorem storeMasked_steady (k a : Nat) (mask : BitVec 64) (bs : List Byte) (poison : Bool) (d : Dev) :
    Steady d (d.storeMasked k a mask bs poison) :=
  ((meetWrite_steady ..).trans (storeLine_steady ..)).trans (noteScratch_steady ..)

theorem cacheMasked_steady (acc : Access) (k a : Nat) (mask : BitVec 64) (bs : List Byte) (poison : Bool) (d : Dev) :
    Steady d (d.cacheMasked acc k a mask bs poison) :=
  (meetWrite_steady ..).trans (install_steady ..)

theorem writeLine_steady (acc : Access) (a : Nat) (bs : List Byte) (poison : Bool) (d : Dev) :
    Steady d (d.writeLine acc a bs poison) := by
  have down (k : Nat) (d : Dev) : Steady d ((d.chargeIo acc (stkOf k) 1).dramWrite acc.cls k bs poison) :=
    (chargeIo_steady ..).trans (dramWrite_steady ..)
  unfold writeLine
  split
  · exact .refl d
  split
  · exact storeMasked_steady ..
  split
  · exact (cacheMasked_steady ..).trans (Steady.ite (down ..) (.refl _))
  · exact Steady.ite (install_steady ..) (down ..)

theorem restOf_steady (die k a : Nat) (d : Dev) : Steady d (d.restOf die k a).2 := by
  unfold restOf
  dsimp only
  exact (meetLine_steady a d).trans (Steady.ite_snd (.refl _) (dramReadPage_steady ..))

theorem drainWcb_steady (die : Nat) (e : WcbEntry) (d : Dev) : Steady d (d.drainWcb die e) := by
  unfold drainWcb
  dsimp only
  split
  · exact setSq_steady ..
  split
  · exact (setSq_steady ..).trans (writeLine_steady ..)
  refine Steady.trans ?_ (writeLine_steady ..)
  split
  · exact setSq_steady ..
  · exact (setSq_steady ..).trans (restOf_steady ..)

theorem toWcb_steady (acc : Access) (user die a : Nat) (mask : BitVec 64) (bs : List Byte) (poison : Bool) (d : Dev) :
    Steady d (d.toWcb acc user die a mask bs poison) := by
  unfold toWcb
  extract_lets stream unstaged evicted opened upd filled
  have hunstaged : Steady d unstaged := (unstage_stirred _ d).steady
  have hevicted : Steady unstaged evicted := by
    refine Steady.ite ?_ (.refl _)
    split
    · exact drainWcb_steady ..
    · exact .refl _
  have hopened : Steady unstaged opened := by
    unfold opened
    split
    · exact .refl _
    · exact hevicted.trans (setSq_steady ..)
  have hfilled : Steady d filled := (hunstaged.trans hopened).trans (setSq_steady ..)
  split
  · exact hfilled.trans (Steady.ite (drainWcb_steady ..) (.refl _))
  · exact hfilled

theorem writeMasked_steady (acc : Access) (user a : Nat) (mask : BitVec 64) (bs : List Byte) (poison : Bool) (d : Dev) :
    Steady d (d.writeMasked acc user a mask bs poison) := by
  unfold writeMasked
  dsimp only
  split
  · exact .refl d
  split
  · exact .refl d
  refine Steady.ite (toWcb_steady ..) (Steady.ite (writeLine_steady ..) (Steady.ite (storeMasked_steady ..) ?_))
  exact Steady.ite (cacheMasked_steady ..) ((chargeIo_steady ..).trans (toWcb_steady ..))

theorem store_steady (acc : Access) (user a : Nat) (bs : List Byte) (poison : Nat → Bool) (d : Dev) :
    Steady d (d.store acc user a bs poison) := by
  unfold store
  dsimp only
  refine Steady.trans (Steady.ite (.refl d) ((metered_steady ..).trans (metered_steady ..))) (Steady.foldl _ _ (fun d ps => ?_) _)
  split
  · exact Steady.foldl _ _ (fun _ _ => writeMasked_steady ..) d
  · exact Steady.foldl _ _ (fun _ _ => writeMasked_steady ..) d
  · refine Steady.trans ?_ ((chargeIo_steady ..).trans (dramWritePage_steady ..))
    exact Steady.foldl _ _ (fun _ _ => writeMasked_steady ..) d

/-! Requests at the stacks (R293 to R303) and packets handed over with their data (R363). -/

theorem serveReq_steady (x : Req) (d : Dev) : Steady d (d.serveReq x) := by
  unfold serveReq
  dsimp only
  refine Steady.ite (setStack_steady ..) (Steady.ite (rawWrite_steady ..) ?_)
  exact (rawRead_steady ..).trans (handOver_steady ..)

theorem atPage_steady (x : Req) (d : Dev) : Steady d (d.atPage x) := Steady.ite (setStack_steady ..) (serveReq_steady ..)

theorem serveReady_steady (s : Nat) (d : Dev) : Steady d (d.serveReady s) := by
  unfold serveReady
  refine Steady.foldl _ _ (fun d _ => Steady.ite (.refl d) ?_) d
  split
  · exact .refl d
  · exact (setStack_steady ..).trans (atPage_steady ..)

theorem arrive_steady (x : Req) (d : Dev) : Steady d (d.arrive x) := by
  unfold arrive
  dsimp only
  refine Steady.ite (setStack_steady ..) ?_
  exact (Steady.ite (setStack_steady ..) (.refl d)).trans ((setStack_steady ..).trans (serveReady_steady ..))

theorem traceHead_steady (d : Dev) : Steady d d.traceHead := (headNow_stirred (eventRec_stirred 4) d).steady

theorem newWindow_steady (d : Dev) : Steady d d.newWindow := by
  unfold newWindow
  refine Steady.trans (Steady.ite (traceHead_steady d) (.refl d)) (Steady.foldl _ _ (fun d i => ?_) _)
  dsimp only
  refine Steady.trans ?_ (serveReady_steady ..)
  exact (setStack_steady ..).trans (Steady.foldl _ _ (fun _ _ => arrive_steady ..) _)

theorem pumpCtl_steady (peer : Nat) (d : Dev) : Steady d (d.pumpCtl peer) :=
  Steady.foldl _ _ (fun d _ => (pumpCtl1_traffic 0 peer d).steady) d

theorem launch_steady (peer path : Nat) (t : TxPkt) (d : Dev) : Steady d (d.launch peer path t) := .of_ctxs rfl rfl

theorem reread_steady (t : TxPkt) (d : Dev) : Steady d (d.reread t).2 := by
  unfold reread
  split
  · exact .refl d
  · exact fetch_steady ..

theorem pumpAll1_steady (peer : Nat) (d : Dev) : Steady d (d.pumpAll1 peer) := by
  unfold pumpAll1
  split
  · exact .refl d
  · exact (reread_steady ..).trans (launch_steady ..)

theorem pumpAll_steady (peer : Nat) (d : Dev) : Steady d (d.pumpAll peer) :=
  (pumpCtl_steady ..).trans (Steady.foldl _ _ (fun _ _ => pumpAll1_steady ..) _)

theorem sendData_steady (peer : Nat) (p : Packet) (owner src n : Nat) (d : Dev) : Steady d (d.sendData peer p owner src n) :=
  (setSpace_steady ..).trans (pumpAll_steady ..)

/-! The slot unit (R37 to R42, R120) and the trace drain (R446). -/

theorem drainTrace_steady (n : Nat) (d : Dev) : Steady d (d.drainTrace n) := by
  induction n generalizing d with
  | zero => exact .refl d
  | succ n ih =>
    unfold drainTrace
    refine Steady.ite (.refl d) ?_
    split
    · exact .refl d
    · refine Steady.ite (.refl d) (Steady.trans ?_ (ih _))
      exact Steady.trans (setTrace_stirred ..).steady (sendData_steady ..)

theorem slotRec_steady (rtype ctx a0 a1 : Nat) (d : Dev) : Steady d (d.slotRec rtype ctx a0 a1) := (traceRec_noted ..).steady

theorem missed_steady (i reason : Nat) (d : Dev) : Steady d (d.missed i reason) :=
  ((cnt_noted ..).trans (raise_noted ..)).steady

theorem closeSlot_steady (reason : Nat) (d : Dev) : Steady d (d.closeSlot reason) := by
  unfold closeSlot
  split
  · exact .refl d
  · refine Steady.trans ?_ (slotRec_steady ..)
    exact .of_ctxs rfl rfl

/-- A context that is parked or has left its slot runs no more. -/
theorem park_steady (i : Nat) (d : Dev) : Steady d (d.park i) := by
  refine Steady.trans (setCtx_steady _ _ d ?_) (finish_traffic ..).steady
  intro h
  cases h

theorem leave_steady (i : Nat) (yielded : Bool) (d : Dev) : Steady d (d.leave i yielded) := by
  have left : Steady d (d.setCtx i (fun c => { c with st := .ready, yielded := yielded, unfinished := yielded })) :=
    setCtx_steady _ _ d (fun h => by cases h)
  unfold leave
  dsimp only
  refine Steady.trans ?_ (Steady.ite (park_steady ..) (.refl _))
  exact left.trans (Steady.ite (.of_ctxs rfl rfl) (.of_ctxs rfl rfl))

theorem tryYield_steady (i : Nat) (d : Dev) : Steady d (d.tryYield i) := Steady.ite (leave_steady ..) (.refl d)

theorem saveRange_steady (key a n : Nat) (d : Dev) : Steady d (d.saveRange key a n) := by
  unfold saveRange
  dsimp only
  exact (fetch_steady ..).trans (store_steady ..)

theorem restoreRange_steady (key a n : Nat) (d : Dev) : Steady d (d.restoreRange key a n) := by
  unfold restoreRange
  dsimp only
  refine (fetch_steady ..).trans (Steady.foldl _ _ (fun d i => ?_) _)
  exact (clearUpsets_stirred ..).steady.trans (storeLine_steady ..)

theorem saveOut_steady (o : Nat) (d : Dev) : Steady d (d.saveOut o).2 := by
  unfold saveOut
  dsimp only
  split
  · exact .refl d
  refine Steady.ite_snd (.refl d) ?_
  refine Steady.trans ?_ (setCtx_steady _ _ _ id)
  refine Steady.trans ?_ (Steady.foldl _ _ (fun _ _ => saveRange_steady ..) _)
  exact Steady.foldl _ _ (fun _ _ => saveRange_steady ..) d

theorem undefScratch_steady (i : Nat) (transientOnly : Bool) (d : Dev) : Steady d (d.undefScratch i transientOnly) := by
  unfold undefScratch
  dsimp only
  split
  · exact .refl d
  · exact .of_ctxs rfl rfl

theorem restoreIn_steady (i : Nat) (d : Dev) : Steady d (d.restoreIn i).2 := by
  unfold restoreIn
  dsimp only
  split
  · exact .refl d
  refine Steady.trans ?_ (setCtx_steady _ _ _ id)
  refine Steady.trans ?_ (Steady.foldl _ _ (fun _ _ => restoreRange_steady ..) _)
  refine Steady.trans ?_ (Steady.ite (.refl _) (.of_ctxs rfl rfl))
  exact (undefScratch_steady ..).trans (Steady.foldl _ _ (fun _ _ => restoreRange_steady ..) _)

theorem forget_steady (i : Nat) (d : Dev) : Steady d (d.forget i) := setCtx_steady _ _ d id

/-! Boundaries (R22 to R30, R40, R45). -/

theorem tickSource_steady (reason : Nat) (off : Int) (d : Dev) : Steady d (d.tickSource reason off) := (raise_noted ..).steady

theorem tickStatus_steady (locked holdover : Bool) (off : Int) (d : Dev) : Steady d (d.tickStatus locked holdover off) := by
  unfold tickStatus
  dsimp only
  refine Steady.trans ?_ (Steady.ite (tickSource_steady ..) (.refl _))
  refine Steady.ite (Steady.trans ?_ (tickSource_steady ..)) ?_
  · exact .of_ctxs rfl rfl
  · exact .of_ctxs rfl rfl

theorem ptpCheck_steady (d : Dev) : Steady d d.ptpCheck := by
  unfold ptpCheck
  dsimp only
  refine Steady.ite (.refl d) (Steady.ite (tickStatus_steady ..) ?_)
  refine Steady.trans (Steady.trans ?_ (tickStatus_steady ..)) (Steady.ite (tickSource_steady ..) (.refl _))
  exact .of_ctxs rfl rfl

theorem closeTick_steady (d : Dev) : Steady d d.closeTick := by
  unfold closeTick
  dsimp only
  refine Steady.trans ?_ (Steady.foldl _ _ (fun _ _ => missed_steady ..) _)
  refine Steady.trans ?_ (Steady.foldl _ _ (fun _ _ => slotRec_steady ..) _)
  split
  · exact .refl d
  refine Steady.ite_snd (closeSlot_steady ..) (Steady.ite_snd (closeSlot_steady ..) ?_)
  refine Steady.trans ?_ (tryYield_steady ..)
  refine (closeSlot_steady 3 d).trans ?_
  exact .of_ctxs rfl rfl

theorem setBroken_steady (cond : Nat) (f : Nat → Ctx → List Nat) (quiet : Bool) (i : Nat) (d : Dev) :
    Steady d (d.setBroken cond f quiet i) := by
  unfold setBroken
  dsimp only
  refine Steady.ite (.refl d) (Steady.ite (setCtx_steady _ _ d id) ?_)
  exact (setCtx_steady _ _ d id).trans (raise_noted ..).steady

theorem setBrokenAll_steady (cond : Nat) (f : Nat → Ctx → List Nat) (d : Dev) : Steady d (d.setBrokenAll cond f) :=
  Steady.foldl _ _ (fun _ _ => setBroken_steady ..) d

theorem takeTrace_steady (d : Dev) : Steady d d.takeTrace := by
  unfold takeTrace
  split
  · exact .refl d
  dsimp only
  refine Steady.ite (Steady.ite (Steady.trans ?_ (traceHead_steady _)) ?_) (Steady.ite (Steady.trans ?_ (traceHead_steady _)) ?_)
  all_goals exact .of_ctxs rfl rfl

/-- The watchdog counts; it changes no context's state (R434). -/
theorem countStalls_st (d : Dev) (i : Nat) : (d.countStalls.ctx i).st = (d.ctx i).st := by
  unfold ctx countStalls
  by_cases h0 : i = 0
  · simp [h0]
  simp only [h0, beq_iff_eq, if_false, List.getD_eq_getElem?_getD, List.getElem?_map, List.getElem?_zipIdx]
  cases d.ctxs[i - 1]? with
  | none => rfl
  | some c =>
    simp only [Option.map_some, Option.getD_some]
    split
    · rfl
    · split
      · rfl
      · rfl

theorem countStalls_steady (d : Dev) : Steady d d.countStalls := ⟨rfl, fun i h => by rwa [countStalls_st] at h⟩

theorem tickStacks_steady (d : Dev) : Steady d d.tickStacks := .of_ctxs rfl rfl

/-- With nothing pending a boundary takes the plan as it is (R30, R36). -/
theorem takePending_steady (d : Dev) (ht : d.tu.pend = none) (hs : d.slots.pend = none) : Steady d d.takePending := by
  unfold takePending
  dsimp only
  refine Steady.trans ?_ (setBrokenAll_steady ..)
  refine Steady.trans ?_ (setBrokenAll_steady ..)
  refine Steady.trans ?_ (setBrokenAll_steady ..)
  refine Steady.trans ?_ (takeTrace_steady _)
  refine .of_ctxs ?_ rfl
  simp [plan, ht, hs]

theorem Steady.pending {d t : Dev} (h : Steady d t) : t.tu.pend = d.tu.pend ∧ t.slots.pend = d.slots.pend :=
  ⟨congrArg (fun p => p.1.2) h.plan, congrArg (fun p => p.2.2) h.plan⟩

theorem Steady.inForce {d t : Dev} (h : Steady d t) : t.tu.cfg = d.tu.cfg ∧ t.slots.table = d.slots.table :=
  ⟨congrArg (fun p => p.1.1) h.plan, congrArg (fun p => p.2.1) h.plan⟩

/-- A boundary with nothing pending keeps the plan, and starts no context. -/
theorem newTick_steady (b : Boundary) (d : Dev) (ht : d.tu.pend = none) (hs : d.slots.pend = none) : Steady d (d.newTick b) := by
  unfold newTick
  extract_lets closed was disciplined _ rated taken _ _ _ opened windowed status _ timed
  have hclosed : Steady d closed := (closeTick_steady d).trans (countStalls_steady _)
  have hrated : Steady d rated := hclosed.trans (.of_ctxs rfl rfl)
  obtain ⟨ptu, pslots⟩ := hrated.pending
  have htaken : Steady d taken := hrated.trans (takePending_steady rated (ptu.trans ht) (pslots.trans hs))
  clear_value taken
  have hopened : Steady d opened := htaken.trans (.of_ctxs rfl rfl)
  have hwindowed : Steady d windowed := hopened.trans ((tickStacks_steady opened).trans (newWindow_steady _))
  have hstatus : Steady windowed status := by
    unfold status
    split
    · exact tickStatus_steady ..
    · exact ptpCheck_steady windowed
    · exact tickStatus_steady ..
    · exact tickStatus_steady ..
    · exact Steady.ite (.refl windowed) (tickStatus_steady ..)
  have htimed : Steady d timed := (hwindowed.trans hstatus).trans (.of_ctxs rfl rfl)
  exact Steady.ite (htimed.trans (.of_ctxs rfl rfl)) htimed

/-! The rows. -/

/-- An empty table has no slot to begin. -/
theorem beginSlot_of_empty (d : Dev) (h : d.slots.table = []) : d.beginSlot = d := by
  unfold beginSlot
  simp [h]

/-- An entry past the table's end belongs to no context, and runs nothing. -/
theorem runnable_of_empty (d : Dev) (i : Nat) (h : d.slots.table = []) : d.runnable (d.entryAt i) = false := by
  simp [runnable, entryAt, h]

/-- With an empty table the end of a swap starts nothing, whatever slot is in progress (R40, R120). -/
theorem Steady.swapEnd {i : Nat} {d t : Dev} (h : Steady d t) (he : d.slots.table = []) :
    Steady d (match t.slots.cur with
      | some r =>
        if !r.swapping then t
        else if t.runnable (t.entryAt r.i) then t.startInvocation i (t.entryAt r.i).entry
        else { t with slots := { t.slots with cur := some { r with swapping := false, idle := true } } }
      | none => t) := by
  split
  next r _ =>
    refine Steady.ite h ?_
    rw [runnable_of_empty t r.i (h.inForce.2.trans he)]
    exact h.trans (.of_ctxs rfl rfl)
  · exact h

/-- The operand staging emptied and the resident context noted, as a swap leaves them. -/
theorem setResident_steady (r w : Nat) (d : Dev) :
    Steady d { d with staged := [], slots := { d.slots with resident := r, swapTo := w } } := .of_ctxs rfl rfl

end Dev

open Dev

/-- The rows that bring a boundary, with nothing pending (R22 to R27, R30). -/
theorem boundary_row_steady {s t : State} {row : Instr}
    (hr : row = .tickBoundary ∨ (∃ w, row = .tickInEdge w) ∨ row = .tickInWindowExpiry ∨ row = .reacquireTimeout)
    (ht : s.dev.tu.pend = none) (hs : s.dev.slots.pend = none) (h : exec row s = .next t) : Steady s.dev t.dev := by
  have due (b : Boundary) (n : Nat) : Steady s.dev ((s.dev.upTo n).newTick b) := (upTo_steady ..).trans (newTick_steady b _ ht hs)
  obtain rfl | ⟨w, rfl⟩ | rfl | rfl := hr
  · cases h
    dsimp only
    split
    · exact Steady.ite (due ..) (.refl _)
    · exact .refl _
  · change execTickInEdge w s = _ at h
    unfold execTickInEdge at h
    split at h
    · cases h
      exact .refl _
    · cases h
      have edge (b : Boundary) : Steady s.dev (s.dev.newTick b) := newTick_steady b _ ht hs
      have rejected : Steady s.dev (s.dev.cnt 0x40 7 1) := (cnt_noted ..).steady
      dsimp only
      refine Steady.ite (.refl _) (Steady.ite rejected ?_)
      refine Steady.ite (Steady.ite (edge _) rejected) (Steady.ite (edge _) (Steady.ite ?_ rejected))
      refine Steady.trans ?_ (tickStatus_steady ..)
      exact .of_ctxs rfl rfl
  · cases h
    exact Steady.ite (due ..) (.refl _)
  · cases h
    exact Steady.ite (due ..) (.refl _)

theorem slotBegin_of_empty {s : State} (he : s.dev.slots.table = []) : exec .slotBegin s = .next s := by
  change execSlotBegin s = _
  unfold execSlotBegin onDev
  rw [beginSlot_of_empty _ he]

/-- The end of the window with an empty table (R33, R38). -/
theorem maintWindowEnd_steady {s t : State} (he : s.dev.slots.table = []) (h : exec .maintWindowEnd s = .next t) :
    Steady s.dev t.dev := by
  cases h
  refine Steady.ite (.refl _) ?_
  have drained (n : Nat) : Steady s.dev (s.dev.drainAll.upTo n) := (drainTrace_steady ..).trans (upTo_steady ..)
  rw [beginSlot_of_empty]
  · exact (drained _).trans (.of_ctxs rfl rfl)
  · exact (drained _).inForce.2.trans he

/-- The end of a swap with an empty table (R120): no entry is left that would run the context swapped in. -/
theorem swapComplete_steady {s t : State} (he : s.dev.slots.table = []) (h : exec .swapComplete s = .next t) :
    Steady s.dev t.dev := by
  cases h
  dsimp only
  refine Steady.ite (.refl _) (Steady.swapEnd ?_ he)
  refine Steady.trans ?_ ((setResident_steady ..).trans ((forget_steady ..).trans (slotRec_steady ..)))
  exact (saveOut_steady ..).trans (Steady.ite_snd (restoreIn_steady ..) (.refl _))

/-- Settles O58: the values after reset are the defaults of the state's fields; every operation of a boundary that takes nothing
pending is steady, and with an empty table so is every row that begins slots. -/
theorem resetTick : Obligations.ResetTick := by
  unfold Obligations.ResetTick
  refine ⟨rfl, rfl, rfl, rfl, rfl, rfl, rfl, rfl, Mem.reset_wf, ?_, ?_, ?_⟩
  · intro s t row hr ht hs h
    exact (boundary_row_steady hr ht hs h).inForce
  · intro s he
    exact ⟨s, slotBegin_of_empty he, rfl, rfl⟩
  · intro s t row hr he h
    obtain rfl | rfl | rfl := hr
    · rw [slotBegin_of_empty he] at h
      cases h
      exact fun _ hi => hi
    · exact (maintWindowEnd_steady he h).runs
    · exact (swapComplete_steady he h).runs

end Sys2Proof.Machine

/-! The header wait (R90): its test mode by mode, what a consumption moves, and the issue that it holds. -/

namespace Sys2Proof.Machine
namespace Dev

/-! Objects of a context. -/

theorem objVal_lt (d : Dev) (i o : Nat) : d.objVal i o < 2 ^ 32 := BitVec.isLt _

/-- An object of a context written: what each object reads after it. -/
theorem objVal_setCtx_aset (d : Dev) (i o k : Nat) (v : BitVec 32) :
    (d.setCtx i (fun c => { c with objs := aset c.objs o v })).objVal i k =
      if o = k ∧ i ≠ 0 ∧ i ≤ d.ctxs.length then v.toNat else d.objVal i k := by
  unfold objVal
  rw [ctx_setCtx]
  by_cases hi : i ≠ 0 ∧ i ≤ d.ctxs.length
  · by_cases hk : o = k <;> simp [hi, hk, aget_aset]
  · simp [hi]

/-- Two changes of a context make one machine where they agree on what the context holds. -/
theorem setCtx_congr (d : Dev) {i : Nat} {f g : Ctx → Ctx} (h : i ≠ 0 → i ≤ d.ctxs.length → f (d.ctx i) = g (d.ctx i)) :
    d.setCtx i f = d.setCtx i g := by
  unfold setCtx
  by_cases hi : i = 0
  · simp [hi]
  · have hm : d.ctxs.modify (i - 1) f = d.ctxs.modify (i - 1) g := by
      refine List.ext_getElem (by rw [List.length_modify, List.length_modify]) (fun k hk _ => ?_)
      rw [List.length_modify] at hk
      rw [List.getElem_modify, List.getElem_modify]
      by_cases hik : i - 1 = k
      · subst hik
        have hx : d.ctx i = d.ctxs[i - 1] := by simp [ctx, hi, hk]
        rw [if_pos rfl, if_pos rfl, ← hx]
        exact h hi (by omega)
      · rw [if_neg hik, if_neg hik]
    rw [hm]

/-- An object written moves the objects of its context alone. -/
theorem setCtx_aset_objs (d : Dev) (i o : Nat) (v : BitVec 32) :
    let e := d.setCtx i (fun c => { c with objs := aset c.objs o v })
    e = d.setCtx i (fun c => { c with objs := (e.ctx i).objs }) :=
  setCtx_congr d (fun hi hl => by simp [ctx_setCtx, hi, hl])

/-! The test of each mode. -/

section Modes

variable {d : Dev} {i : Nat} {raw : List Byte}

theorem headerWait_consume (hm : waitMode raw = 1) :
    headerWait i raw d = if waitN raw ≤ d.objVal i (waitSo raw) then
      some (d.setCtx i (fun c => { c with objs := aset c.objs (waitSo raw) (BitVec.ofNat 32 (d.objVal i (waitSo raw) - waitN raw)) }))
    else none := by
  simp only [headerWait, hm]

theorem headerWait_observe (hm : waitMode raw = 2) :
    headerWait i raw d = if waitN raw ≤ d.objVal i (waitSo raw) then some d else none := by
  simp only [headerWait, hm]

theorem headerWait_zero (hm : waitMode raw = 3) :
    headerWait i raw d = if d.objVal i (waitSo raw) = 0 then some d else none := by
  simp only [headerWait, hm, beq_iff_eq]

/-- A consumption takes its number from the object waited for and moves nothing else. -/
theorem headerWait_consumes (hm : waitMode raw = 1) (hv : waitN raw ≤ d.objVal i (waitSo raw)) :
    ∃ e, headerWait i raw d = some e ∧
      (1 ≤ i → i ≤ d.ctxs.length → e.objVal i (waitSo raw) = d.objVal i (waitSo raw) - waitN raw) ∧
      (∀ o, o ≠ waitSo raw → e.objVal i o = d.objVal i o) ∧ e = d.setCtx i (fun c => { c with objs := (e.ctx i).objs }) := by
  refine ⟨_, (headerWait_consume hm).trans (if_pos hv), fun hi hl => ?_, fun o ho => ?_, setCtx_aset_objs ..⟩
  · have hw : d.objVal i (waitSo raw) - waitN raw < 2 ^ 32 := Nat.lt_of_le_of_lt (Nat.sub_le ..) (objVal_lt ..)
    rw [objVal_setCtx_aset, if_pos ⟨rfl, Nat.one_le_iff_ne_zero.mp hi, hl⟩, BitVec.toNat_ofNat, Nat.mod_eq_of_lt hw]
  · rw [objVal_setCtx_aset, if_neg (fun h => ho h.1.symm)]

end Modes

/-! The rows that issue. -/

/-- The body that the row of a class runs. -/
def rowBody (key : Nat × Nat) : Nat → Nat → List Byte → Dev → Dev := if key.1 = 0x40 then krbBody else miBody

/-- Each row of a macro-instruction is the issue of its class and variant (R51, R58). -/
theorem exec_miRow (s : State) {st : Nat} {row : Instr} {key : Nat × Nat} (h : (row, key) ∈ tileRows st ++ controlRows st) :
    exec row s = onDev (issue key (rowBody key) st) s := by
  have hrows : (tileRows st ++ controlRows st).map (fun r => exec r.1 s) =
      (tileRows st ++ controlRows st).map (fun r => onDev (issue r.2 (rowBody r.2) st) s) := rfl
  exact List.map_inj_left.mp hrows (row, key) h

/-- A macro-instruction read for issue is held there while its header wait is not met or an earlier wait for its object is
(R90, R92). -/
theorem AtMi.issue_holds {d e : Dev} {st i : Nat} {x : Stream} {key : Nat × Nat} {raw : List Byte} (h : d.AtMi st i x key raw e)
    (hmet : x.met = false) (hw : e.earlierWait i st e.fresh (waitObjs false raw) = true ∨ headerWait i raw e = none)
    (body : Nat → Nat → List Byte → Dev → Dev) : d.issue key body st = e.holdAt i st raw .wait false := by
  obtain ⟨hat, hread, hkey, hform, hnest, horder⟩ := h
  have hhalt : (miOpc raw == 0x5F && d.mis.any (fun m => m.ctx == i && m.st == st)) = false := by
    simpa only [Bool.and_eq_false_imp, beq_iff_eq] using horder
  have hwait : (if e.earlierWait i st e.fresh (waitObjs false raw) then none else headerWait i raw e) = none := by
    rcases hw with hw | hw <;> simp [hw]
  simp [issue, hat, hread, hkey, hform, hnest, hhalt, hmet, hwait]

end Dev

open Dev

/-- Settles O38: a row of either list is an issue, which holds what it has read while the wait is unmet; the test and the
consumption are those of the wait's mode. -/
theorem waitModes : Obligations.WaitModes := by
  unfold Obligations.WaitModes
  refine ⟨fun s st i x row key raw d hrow hat hmet hwait => ?_, fun d i raw => ⟨headerWait_consumes, ?_, ?_, ?_, ?_⟩⟩
  · rw [exec_miRow s hrow, onDev, hat.issue_holds hmet (.inr hwait)]
    rfl
  · exact fun hm hv => (headerWait_observe hm).trans (if_pos hv)
  · exact fun hm hv => (headerWait_zero hm).trans (if_pos hv)
  · rintro (hm | hm) hv
    · exact (headerWait_consume hm).trans (if_neg (Nat.not_le_of_lt hv))
    · exact (headerWait_observe hm).trans (if_neg (Nat.not_le_of_lt hv))
  · exact fun hm hv => (headerWait_zero hm).trans (if_neg hv)

end Sys2Proof.Machine

/-! The step: the command at the front of the queue, or idling. -/

namespace Sys2Proof.Machine

theorem step_of_pending_cons {s : State} {c : Instr} {rest : List Instr} (h : s.pending = c :: rest) :
    step s = exec c { s with pending := rest } := by
  simp only [step, h, withRest]

theorem step_of_pending_nil {s : State} (h : s.pending = []) : step s = idle s := by
  simp only [step, h]

/-- Up to 10 ms after the trip, and where there was none, idling takes 1 ns (log entry 2). -/
theorem idle_advances {s : State} (h : ∀ t, s.dev.power.thermtripNs = some t → s.dev.now ≤ t + 10000000) :
    idle s = .next { s with dev := { s.dev with now := s.dev.now + 1 } } := by
  cases htrip : s.dev.power.thermtripNs with
  | none => simp only [idle, htrip]
  | some t => simp only [idle, htrip, if_neg (Nat.not_lt.mpr (h t htrip))]

/-- More than 10 ms after the trip nothing is promised (R419). -/
theorem idle_pastThermtrip {s : State} {t : Nat} (htrip : s.dev.power.thermtripNs = some t) (h : t + 10000000 < s.dev.now) :
    idle s = .fault .pastThermtrip := by
  simp only [idle, htrip, if_pos h]

/-- Settles O57: the queue says whether a command runs or the block idles, and the time since the trip which way it idles. -/
theorem stepRunsTheFront : Obligations.StepRunsTheFront := by
  unfold Obligations.StepRunsTheFront
  refine ⟨fun c rest s hq => step_of_pending_cons hq, fun s hq hcool => ?_, fun s t hq htrip hpast => ?_⟩
  · rw [step_of_pending_nil hq, idle_advances hcool]
  · rw [step_of_pending_nil hq, idle_pastThermtrip htrip hpast]

end Sys2Proof.Machine
